-- ==== Sys2Proof/Word.lean ====
section
/-! DEFINITION. Word types of the Teralmeus T9: registers, latches, bytes (R15, R18, R72). -/

namespace Sys2Proof

/-- A register, predicate mask or instruction word: 32 bits (R15, R72). -/
abbrev Word := BitVec 32

/-- A register pair or a latch: 64 bits (R16, R18). -/
abbrev DWord := BitVec 64

/-- One byte of memory or scratchpad. -/
abbrev Byte := BitVec 8

end Sys2Proof
end

