-- ==== Sys2Proof/Machine/Bits.lean ====
section
/-! DEFINITION. Bit fields, sign extension and byte order (R3, R34, R72, R88). -/

namespace Sys2Proof.Machine

/-- Bits hi..lo of a number, as a number (R3). -/
def bits (w hi lo : Nat) : Nat := w / 2 ^ lo % 2 ^ (hi + 1 - lo)

/-- Bit i of a number. -/
def bitOf (w i : Nat) : Bool := w / 2 ^ i % 2 == 1

def b2n (b : Bool) : Nat := if b then 1 else 0

/-- SX(v, n) read as an integer (R88). -/
def sxInt (v n : Nat) : Int :=
  let u := v % 2 ^ n
  if u < 2 ^ (n - 1) then (u : Int) else (u : Int) - (2 ^ n : Nat)

/-- The pattern of n bits of an integer, as a number. -/
def modInt (n : Nat) (v : Int) : Nat := (v % (2 ^ n : Nat)).toNat

/-- A pattern of n bits read as two's complement, or as plain binary (R94). -/
def readInt (n : Nat) (unsigned : Bool) (v : Nat) : Int :=
  if unsigned then (v : Int) else sxInt v n

/-- The little-endian number of a list of bytes (R3). -/
def ofBytes : List Byte → Nat
  | [] => 0
  | b :: bs => b.toNat + 256 * ofBytes bs

/-- The n little-endian bytes of a number. -/
def toBytes : Nat → Nat → List Byte
  | 0, _ => []
  | n + 1, v => BitVec.ofNat 8 v :: toBytes n (v / 256)

/-- The number of one bits among the low n bits. -/
def popcount : Nat → Nat → Nat
  | 0, _ => 0
  | n + 1, v => v % 2 + popcount n (v / 2)

/-- Floor of the base-2 logarithm; 0 for 0. -/
def log2 (v : Nat) : Nat := Nat.log2 v

end Sys2Proof.Machine
end

