-- ==== Sys2Proof/Config.lean ====
section
/-! DEFINITION. What the manual leaves open: free values (opaque constants that no proof can see
through) and the constants of the device (R2). Each free value has a log entry. -/

namespace Sys2Proof.Config

/-- The value an undefined register entry holds until it is written (R30, R107, R120): seed numbers
the allocation, idx the entry. Free value (log 5). -/
opaque freeWord (seed idx : Nat) : Word

/-- Which of the patterns within 2 ulp of the exact result FRSQ, FEX2, FLG2, FSIN and FCOS return
(R52): fn 0..4, x the operand. Free value (log 6). -/
opaque approx (fn : Nat) (x : Word) : Word

/-- The amount by which a counter of thread cycles or of another timing event advances in one
counting period (R352, R353): a free value, because cycle counts are not modelled (log 7). -/
opaque freeCount (event seed : Nat) : Nat

/-- The virtual address of the announce record that the scheduler of a tenancy, a NEXT or a sluice
uses for its own operations (R201, R286, R292, R324): the manual names no address (log 8). -/
opaque ownRecord (seed : Nat) : BitVec 57

/-- Timings inside a tile record that the manual defines by cycle-level events (R181): free value
(log 7). -/
opaque freeNs (seed field : Nat) : Word

/-- The layout of the save area's header and of a thread's descriptor inside their regions (R314): byte o of what holds the
listed contents, in the order in which the manual lists them (log 9). -/
opaque saveHeader (content : List Nat) (o : Nat) : Byte
opaque descriptor (content : List Nat) (o : Nat) : Byte

/-- The ML-DSA-65 public key of 1,952 bytes of a seed (FIPS 204): an uninterpreted function (log 10). -/
opaque mldsaPublic (seed : BitVec 256) : BitVec 15616

/-- The ML-DSA-65 signature of 3,309 bytes of a message by the key of a seed (FIPS 204): an uninterpreted function, as a
signature may draw on random bytes (log 10). -/
opaque mldsaSign (seed : BitVec 256) (msg : List Byte) (draw : Nat) : BitVec 26472

/-- What the device reads from the header of a save area, given as the bytes that are not 0 with their offsets: field 0 the
tenancy, 1 the gang index, 2 the gang size (R314, R316): the manual gives the header no inner layout (log 9). -/
opaque headerField (bytes : List (Nat × Byte)) (field : Nat) : Nat

/-- Whether a signature of a message verifies under the key with a digest (FIPS 204): an uninterpreted function (log 10). -/
opaque mldsaVerify (keyDigest : BitVec 256) (msg : List Byte) (sig : BitVec 26472) : Bool

/-- What start writes as the detail of an entry (R366): the data rate of a stack, trained as specified or at half its rate,
and the failing lanes of the die links or of the ports: the manual gives no units and no layout (log 60). -/
opaque stackRate (stack : Nat) (half : Bool) : BitVec 64
opaque failingLanes (step seed : Nat) : BitVec 64

/-- Dies, cores per die, cascades of 8 cores, partitions, lanes, slots (R2, R209). -/
def dies : Nat := 8
def coresPerDie : Nat := 24
def coresPerCascade : Nat := 8
def lanes : Nat := 32
def slots : Nat := 32

/-- Register entries of a lane (R210). -/
def laneEntries : Nat := 2048

/-- Bytes of the scratchpad and of one of its lines (R231). -/
def spBytes : Nat := 0x100000
def spLine : Nat := 128

/-- Accumulators of the cistern (R246). -/
def cisternWords : Nat := 262144

/-- Bytes of physical memory (R301). -/
def memBytes : Nat := 2 ^ 40

/-- Lines of 128 bytes in a core's L1 of 128 KiB, and in a die's cache slice of 32 MiB (R2). -/
def l1Lines : Nat := 1024
def sliceLines : Nat := 262144

/-- Which line a full L1 or guest slice replaces, at a cycle, for a line that comes in: a free value (log 55). -/
opaque victim (cycle line : Nat) : Nat

/-- Bytes that a message of a control class takes on the fabric (R296, R318), by its kind: the manual gives no sizes
(log 59). -/
opaque messageBytes (kind : Nat) : Nat

/-- The spare-lane map that start gives a degraded port or link (R328, R365): the manual gives no layout (log 60). -/
opaque laneMap (port seed : Nat) : Nat

/-- TLB entries of a core (R304). -/
def tlbEntries : Nat := 2048

/-- Entries of the spout (R236) and of a matrix queue (R243). -/
def spoutEntries : Nat := 64
def queueEntries : Nat := 16

/-- Bytes of a partition's share of the row buffer (R243). -/
def rowShare : Nat := 0x10000

/-- Staging quota of a replayable node in lines of 128 bytes: 4 MiB (R339). -/
def stagingLines : Nat := 32768

end Sys2Proof.Config
end

