-- ==== Sys2Proof/Syntax.lean ====
section
/-! DEFINITION. The abstract syntax of Caerian units (R73..R82) and of the steps of the
machine's other agents: one constructor of Instr for each row of the opcode table. -/

namespace Sys2Proof

/-- A source register field (R15): w0..w119, the latches b1..b4 (k = 0..3), zr, it, ax0/ax1. -/
inductive Src where
  | w (n : BitVec 7)
  | b (k : BitVec 2)
  | zr
  | it
  | ax (n : Bool)
deriving DecidableEq, Repr

/-- A destination register field (R15). -/
inductive Dst where
  | w (n : BitVec 7)
  | zr
  | ax (n : Bool)
deriving DecidableEq, Repr

/-- A guard: a predicate number and a negate bit (R8, R22). -/
structure Guard where
  neg : Bool
  p   : BitVec 3
deriving DecidableEq, Repr

/-- The MODE payload (R41). -/
structure Mode where
  rm  : BitVec 3
  fzi : Bool
  fzo : Bool
  sat : Bool
  n   : Bool
  w   : Bool
deriving DecidableEq, Repr

/-- Conditions of CMP and CMPI (R78). -/
inductive Cc where
  | eq | lt | le | tst
deriving DecidableEq, Repr

/-- Conditions of FCMP and HCMP (R78). -/
inductive Fcc where
  | eq | lt | le | un
deriving DecidableEq, Repr

/-- The CVT minors 0..26 (R50), named destination first. -/
inductive Cvt where
  | f32i32 | f32n32 | i32f32 | n32f32 | f32f16 | f16f32 | f32bf16 | bf16f32
  | f32e4m3 | e4m3f32 | f32e5m2 | e5m2f32 | f32e2m1 | e2m1f32 | f32e2m1s
  | f32i8 | f32n8 | i8f32 | n8f32 | f32i4 | f32n4 | i4f32 | n4f32
  | f16x2f32 | bf16x2f32 | f32x2f16x2 | e2m1sf32
deriving DecidableEq, Repr

/-- Load sizes of LDG and LDS (R78). -/
inductive LdSz where
  | b8 | s8 | b16 | s16 | b32 | b64
deriving DecidableEq, Repr

/-- Store sizes of STG, STS and TSTW (R78, R193). -/
inductive StSz where
  | b8 | b16 | b32 | b64
deriving DecidableEq, Repr

/-- Operations of ATOMG and ATOMS (R78). -/
inductive AtomOp where
  | add | and | or | xor | min | max | exch | cas
deriving DecidableEq, Repr

/-- FENCE kinds (R109). -/
inductive FenceKind where
  | full | acq | rel
deriving DecidableEq, Repr

/-- FENCE scopes (R109, R253). -/
inductive Scope where
  | t | c | s | d | x | f
deriving DecidableEq, Repr

/-- Engine classes (R25): copies, matrix, gathers, collectives. -/
inductive EngClass where
  | cp | mx | ga | co
deriving DecidableEq, Repr

/-- SHFL forms (R197). -/
inductive ShflKind where
  | idx | up | down | xor
deriving DecidableEq, Repr

/-- REDX reductions (R197). -/
inductive RedOp where
  | add | min | max | and | or | xor | fadd
deriving DecidableEq, Repr

/-- The step a host may request on a helped object (R286, R326). -/
inductive HostOp where
  | hann | happ | hrun
  | hpois (code : Word)
  | hclr
deriving DecidableEq, Repr

/-- Registers that firmware writes and that have no behaviour of their own beyond what their
tables say (R295, R297, R301, R310, R312, R313, R319, R321, R323, R325, R344, R345, R348, R350,
R352, R354, R356, R358, R360, R366, R368). -/
inductive FwReg where
  | tnctl (t : BitVec 4) | tnroot (t : BitVec 4) | tnqtab (t : BitVec 4) | tnhost (t : BitVec 4)
  | wrper (t : BitVec 4) | wrbud (t : BitVec 4) (k : BitVec 3)
  | tnfrb (t : BitVec 4) | tnback (t : BitVec 4)
  | tnring (t : BitVec 4) | tnsluice (t : BitVec 4) | tnpeer (t : BitVec 4) | tnnote (t : BitVec 4)
  | tnsmpb (t : BitVec 4) | tnsmpc (t : BitVec 4) | tncev (t : BitVec 4) | gwdlim (t : BitVec 4)
  | tnrr (t : BitVec 4)
  | crsave (core : BitVec 8) | ercore (core : BitVec 8) | dbgdump (core : BitVec 8) (part : BitVec 2)
  | erstk (stack : BitVec 4) | rtwgt (router : Nat) | pageAttr (page : Nat)
  | pwrlim | ptpdom | ptpport
  | startEntry (entry : BitVec 6) | repairMark (die : BitVec 3) (idx : BitVec 5)
deriving DecidableEq, Repr

/-- A firmware image (R369): its security version, the digest of its signing key, its header and body as bytes, its
signature of 3,309 bytes. The manual does not place the fields of the header, so the model is given the two that start
checks (notes/assumptions/10). -/
structure Image where
  svn       : BitVec 16
  keyDigest : BitVec 256
  text      : List (BitVec 8)
  sig       : BitVec 26472
deriving DecidableEq, Repr

/-- A unit of a Caerian program with its prefixes, or one step of another agent of the machine.
Fields named gp, m and x are the GRD, MODE and EXT prefixes of the unit (R80); g is the guard
field of the word; c its chain bit. -/
inductive Instr where
  -- integer, T format (R94)
  | iadd (m : Option Mode) (d : Dst) (a b : Src) (g : Guard) (c : Bool)
  | isub (m : Option Mode) (d : Dst) (a b : Src) (g : Guard) (c : Bool)
  | imul (m : Option Mode) (d : Dst) (a b : Src) (g : Guard) (c : Bool)
  | imulw (m : Option Mode) (d : Dst) (a b : Src) (g : Guard) (c : Bool)
  | and (m : Option Mode) (d : Dst) (a b : Src) (g : Guard) (c : Bool)
  | or (m : Option Mode) (d : Dst) (a b : Src) (g : Guard) (c : Bool)
  | xor (m : Option Mode) (d : Dst) (a b : Src) (g : Guard) (c : Bool)
  | shl (m : Option Mode) (d : Dst) (a b : Src) (g : Guard) (c : Bool)
  | shr (m : Option Mode) (d : Dst) (a b : Src) (g : Guard) (c : Bool)
  | sar (m : Option Mode) (d : Dst) (a b : Src) (g : Guard) (c : Bool)
  | imin (m : Option Mode) (d : Dst) (a b : Src) (g : Guard) (c : Bool)
  | imax (m : Option Mode) (d : Dst) (a b : Src) (g : Guard) (c : Bool)
  | sel (gp : Option Guard) (d : Dst) (a b : Src) (s : Guard) (c : Bool)
  -- UNI, G format (R99)
  | mov (m : Option Mode) (d : Dst) (a : Src) (g : Guard) (c : Bool)
  | not (m : Option Mode) (d : Dst) (a : Src) (g : Guard) (c : Bool)
  | neg (m : Option Mode) (d : Dst) (a : Src) (g : Guard) (c : Bool)
  | abs (m : Option Mode) (d : Dst) (a : Src) (g : Guard) (c : Bool)
  | popc (m : Option Mode) (d : Dst) (a : Src) (g : Guard) (c : Bool)
  | clz (m : Option Mode) (d : Dst) (a : Src) (g : Guard) (c : Bool)
  | ctz (m : Option Mode) (d : Dst) (a : Src) (g : Guard) (c : Bool)
  | brev (m : Option Mode) (d : Dst) (a : Src) (g : Guard) (c : Bool)
  | sxb (m : Option Mode) (d : Dst) (a : Src) (g : Guard) (c : Bool)
  | sxh (m : Option Mode) (d : Dst) (a : Src) (g : Guard) (c : Bool)
  | zxb (m : Option Mode) (d : Dst) (a : Src) (g : Guard) (c : Bool)
  | zxh (m : Option Mode) (d : Dst) (a : Src) (g : Guard) (c : Bool)
  | bswap (m : Option Mode) (d : Dst) (a : Src) (g : Guard) (c : Bool)
  -- predicates, Q format (R100)
  | pand (pd pa : BitVec 3) (na : Bool) (pb : BitVec 3) (nb : Bool) (g : Guard) (c : Bool)
  | por (pd pa : BitVec 3) (na : Bool) (pb : BitVec 3) (nb : Bool) (g : Guard) (c : Bool)
  | pxor (pd pa : BitVec 3) (na : Bool) (pb : BitVec 3) (nb : Bool) (g : Guard) (c : Bool)
  | movp (pd pa : BitVec 3) (na : Bool) (g : Guard) (c : Bool)
  | setp (pd : BitVec 3) (v : Bool) (g : Guard) (c : Bool)
  | p2w (d : Dst) (g : Guard) (c : Bool)
  | w2p (a : Src) (g : Guard) (c : Bool)
  -- compares, C and K formats (R101, R102, R134)
  | cmp (m : Option Mode) (pt pf : BitVec 3) (a b : Src) (g : Guard) (cc : Cc)
  | fcmp (m : Option Mode) (pt pf : BitVec 3) (a b : Src) (g : Guard) (cc : Fcc)
  | hcmp (m : Option Mode) (pt pf : BitVec 3) (a b : Src) (g : Guard) (cc : Fcc)
  | cmpi (x : Option (BitVec 21)) (gp : Option Guard) (m : Option Mode) (pt pf : BitVec 3) (a : Src)
      (cc : Cc) (imm : BitVec 11)
  -- FP32, T format (R127)
  | fadd (m : Option Mode) (d : Dst) (a b : Src) (g : Guard) (c : Bool)
  | fsub (m : Option Mode) (d : Dst) (a b : Src) (g : Guard) (c : Bool)
  | fmul (m : Option Mode) (d : Dst) (a b : Src) (g : Guard) (c : Bool)
  | ffma (m : Option Mode) (d : Dst) (a b : Src) (g : Guard) (c : Bool)
  | ffms (m : Option Mode) (d : Dst) (a b : Src) (g : Guard) (c : Bool)
  | fmin (m : Option Mode) (d : Dst) (a b : Src) (g : Guard) (c : Bool)
  | fmax (m : Option Mode) (d : Dst) (a b : Src) (g : Guard) (c : Bool)
  -- UNF, G format (R130)
  | fneg (m : Option Mode) (d : Dst) (a : Src) (g : Guard) (c : Bool)
  | fabs (m : Option Mode) (d : Dst) (a : Src) (g : Guard) (c : Bool)
  | fsqrt (m : Option Mode) (d : Dst) (a : Src) (g : Guard) (c : Bool)
  | frcp (m : Option Mode) (d : Dst) (a : Src) (g : Guard) (c : Bool)
  | frsq (m : Option Mode) (d : Dst) (a : Src) (g : Guard) (c : Bool)
  | fex2 (m : Option Mode) (d : Dst) (a : Src) (g : Guard) (c : Bool)
  | flg2 (m : Option Mode) (d : Dst) (a : Src) (g : Guard) (c : Bool)
  | fsin (m : Option Mode) (d : Dst) (a : Src) (g : Guard) (c : Bool)
  | fcos (m : Option Mode) (d : Dst) (a : Src) (g : Guard) (c : Bool)
  | fflr (m : Option Mode) (d : Dst) (a : Src) (g : Guard) (c : Bool)
  | fceil (m : Option Mode) (d : Dst) (a : Src) (g : Guard) (c : Bool)
  | ftrnc (m : Option Mode) (d : Dst) (a : Src) (g : Guard) (c : Bool)
  | frint (m : Option Mode) (d : Dst) (a : Src) (g : Guard) (c : Bool)
  | fcls (m : Option Mode) (d : Dst) (a : Src) (g : Guard) (c : Bool)
  | hneg2 (m : Option Mode) (d : Dst) (a : Src) (g : Guard) (c : Bool)
  | habs2 (m : Option Mode) (d : Dst) (a : Src) (g : Guard) (c : Bool)
  | hsqrt2 (m : Option Mode) (d : Dst) (a : Src) (g : Guard) (c : Bool)
  | hrcp2 (m : Option Mode) (d : Dst) (a : Src) (g : Guard) (c : Bool)
  -- packed halves, T format (R132)
  | hadd2 (m : Option Mode) (d : Dst) (a b : Src) (g : Guard) (c : Bool)
  | hmul2 (m : Option Mode) (d : Dst) (a b : Src) (g : Guard) (c : Bool)
  | hfma2 (m : Option Mode) (d : Dst) (a b : Src) (g : Guard) (c : Bool)
  | hmin2 (m : Option Mode) (d : Dst) (a b : Src) (g : Guard) (c : Bool)
  | hmax2 (m : Option Mode) (d : Dst) (a b : Src) (g : Guard) (c : Bool)
  | cvt (m : Option Mode) (d : Dst) (a : Src) (k : Cvt) (g : Guard) (c : Bool)
  -- immediates, I and U formats (R95..R97)
  | iaddi (x : Option (BitVec 20)) (gp : Option Guard) (m : Option Mode) (d : Dst) (a : Src)
      (imm : BitVec 12)
  | andi (x : Option (BitVec 20)) (gp : Option Guard) (d : Dst) (a : Src) (imm : BitVec 12)
  | ori (x : Option (BitVec 20)) (gp : Option Guard) (d : Dst) (a : Src) (imm : BitVec 12)
  | xori (x : Option (BitVec 20)) (gp : Option Guard) (d : Dst) (a : Src) (imm : BitVec 12)
  | shli (gp : Option Guard) (m : Option Mode) (d : Dst) (a : Src) (n : BitVec 6)
  | shri (gp : Option Guard) (m : Option Mode) (d : Dst) (a : Src) (n : BitVec 6)
  | sari (gp : Option Guard) (m : Option Mode) (d : Dst) (a : Src) (n : BitVec 6)
  | lui (gp : Option Guard) (d : Dst) (imm : BitVec 19)
  -- memory, M and L formats (R142, R147, R149)
  | ldg (x : Option (BitVec 24)) (d : Dst) (a : Src) (sz : LdSz) (g : Guard) (off : BitVec 5)
  | stg (x : Option (BitVec 24)) (d a : Src) (sz : StSz) (g : Guard) (off : BitVec 5)
  | lds (x : Option (BitVec 24)) (d : Dst) (a : Src) (sz : LdSz) (g : Guard) (off : BitVec 5)
  | sts (x : Option (BitVec 24)) (d a : Src) (sz : StSz) (g : Guard) (off : BitVec 5)
  | atomg (x : Option (BitVec 24)) (m : Option Mode) (d : Dst) (a : Src) (op : AtomOp) (g : Guard)
      (off : BitVec 5)
  | atoms (x : Option (BitVec 24)) (m : Option Mode) (d : Dst) (a : Src) (op : AtomOp) (g : Guard)
      (off : BitVec 5)
  | ldm (gp : Option Guard) (first : BitVec 7) (base : Src) (cnt : BitVec 6) (sp : Bool) (off : BitVec 4)
  | stm (gp : Option Guard) (first : BitVec 7) (base : Src) (cnt : BitVec 6) (sp : Bool) (off : BitVec 4)
  -- helped objects, G format (R158)
  | hinit (d a : Src) (g : Guard) (c : Bool)
  | hann (d : Dst) (a : Src) (g : Guard) (c : Bool)
  | happ (d : Dst) (a : Src) (g : Guard) (c : Bool)
  | hrun (d : Dst) (a : Src) (g : Guard) (c : Bool)
  | hres (d : Dst) (a : Src) (g : Guard) (c : Bool)
  | hpeek (d : Dst) (a : Src) (g : Guard) (c : Bool)
  | hpois (d a : Src) (g : Guard) (c : Bool)
  | hclr (a : Src) (g : Guard) (c : Bool)
  -- control (R105, R106)
  | br (g : Guard) (off : BitVec 22)
  | call (g : Guard) (off : BitVec 22)
  | jmpi (d : Dst) (a : Src) (g : Guard)
  -- SYS, G format (R109)
  | nop (g : Guard) (c : Bool)
  | fence (k : FenceKind) (sc : Scope) (g : Guard) (c : Bool)
  | waitc (k : EngClass) (n : BitVec 7) (g : Guard) (c : Bool)
  | awaitG (a : Src) (g : Guard) (c : Bool)
  | awaitSt (a : Src) (g : Guard) (c : Bool)
  | awaitPr (a : Src) (g : Guard) (c : Bool)
  | trap (n : BitVec 7) (g : Guard)
  | eret (g : Guard)
  | gets (d : Dst) (r : BitVec 7) (g : Guard) (c : Bool)
  | sets (r : BitVec 7) (a : Src) (g : Guard) (c : Bool)
  | win (m8 : BitVec 5) (g : Guard) (c : Bool)
  | winReg (a : Src) (g : Guard) (c : Bool)
  | wgrow (d : Dst) (a : Src) (g : Guard) (c : Bool)
  | tagrd (d : Dst) (k : BitVec 7) (g : Guard) (c : Bool)
  | bkpt (n : BitVec 7) (g : Guard)
  | cntrd (d : Dst) (e : BitVec 6) (g : Guard) (c : Bool)
  | time (d : Dst) (g : Guard) (c : Bool)
  -- MXG, E format (R174..R181)
  | hld (gp : Option Guard) (x : Src) (h : BitVec 5) (sp : Bool)
  | hev (gp : Option Guard) (h : BitVec 5)
  | hst (gp : Option Guard) (h : BitVec 5)
  | hset (gp : Option Guard) (x : BitVec 7) (y : Src) (h : BitVec 5)
  | hget (gp : Option Guard) (x : BitVec 7) (y : Dst) (h : BitVec 5)
  | wld (gp : Option Guard) (h : BitVec 5)
  | wsw (gp : Option Guard)
  | mma (gp : Option Guard) (m : Option Mode) (y h : BitVec 5)
  | mmaReg (gp : Option Guard) (m : Option Mode) (x : BitVec 7) (y h : BitVec 5)
  | mmaz (gp : Option Guard) (m : Option Mode) (y h : BitVec 5)
  | mmazReg (gp : Option Guard) (m : Option Mode) (x : BitVec 7) (y h : BitVec 5)
  | accz (gp : Option Guard) (h : BitVec 5)
  | accst (gp : Option Guard) (m : Option Mode) (y h : BitVec 5)
  | accstReg (gp : Option Guard) (m : Option Mode) (x : BitVec 7) (y h : BitVec 5)
  | accld (gp : Option Guard) (y h : BitVec 5)
  | accldReg (gp : Option Guard) (x : BitVec 7) (y h : BitVec 5)
  | qnt (gp : Option Guard) (m : Option Mode) (y h : BitVec 5)
  | mxstat (gp : Option Guard) (x : Dst)
  | topen (gp : Option Guard) (x y : Src)
  | tclose (gp : Option Guard)
  -- CPG, E format (R184..R189)
  | cpy (gp : Option Guard) (x : Src)
  | cpyg (gp : Option Guard) (x y : Src)
  | garm (gp : Option Guard) (x y : Src)
  | gadd (gp : Option Guard) (x y : Src)
  | gtst (gp : Option Guard) (x : Dst) (y : Src)
  | prclr (gp : Option Guard) (x y : Src)
  | prclrOwn (gp : Option Guard) (x y : Src)
  | prclrRel (gp : Option Guard) (x y : Src)
  -- THG, E format (R190..R197)
  | spawn (gp : Option Guard) (x : Dst) (y : Src) (n : BitVec 5) (t : BitVec 2)
  | freeze (gp : Option Guard)
  | stamp (gp : Option Guard) (x : Src)
  | tstw (gp : Option Guard) (x : BitVec 7) (y : Src) (sz : StSz) (sp : Bool)
  | exit (gp : Option Guard)
  | yield (gp : Option Guard)
  | yieldReg (gp : Option Guard) (x : Src)
  | migr (gp : Option Guard) (x : Dst) (y : Src)
  | merge (gp : Option Guard)
  | elect (gp : Option Guard) (x : Dst)
  | ballot (gp : Option Guard) (x : Dst) (y : Src)
  | shfl (e : Option Src) (gp : Option Guard) (x : Dst) (y : Src) (n : BitVec 5) (k : ShflKind)
  | redx (gp : Option Guard) (x : Dst) (y : Src) (o : RedOp)
  -- NXG, E format (R198..R202); tc = 0..3 is .tc2 .. .tc5
  | send (gp : Option Guard) (x : Dst) (y : Src) (tc : BitVec 2)
  | rarm (gp : Option Guard) (x y : Src)
  | rack (gp : Option Guard) (x y : Src)
  | pxpush (gp : Option Guard) (x : Dst) (y : Src)
  | next (gp : Option Guard) (x y : Src)
  | launch (gp : Option Guard) (x : Dst) (y : Src)
  | fabw (gp : Option Guard) (x : Src) (tc : BitVec 2)
  -- ARR, G format (R151..R153)
  | movx (d : Dst) (n : Bool) (k : BitVec 2) (g : Guard) (c : Bool)
  | movxIndex (d : Dst) (k : BitVec 2) (g : Guard) (c : Bool)
  | stx (n : Bool) (k : BitVec 2) (a : Src) (g : Guard) (c : Bool)
  | ixset (k : BitVec 2) (a : Src) (g : Guard) (c : Bool)
  | ixadd (k : BitVec 2) (a : Src) (g : Guard) (c : Bool)
  | abset (n : Bool) (a : Src) (g : Guard) (c : Bool)
  -- steps of the other agents (core, partition and thread numbers are positions; k an index)
  | loadDataReturn (core thr k : Nat)
  | deferredWalkDone (core thr : Nat)
  | copyLineArrival (core id : Nat)
  | copyRetire (core id : Nat)
  | aRowFetch (core part : Nat)
  | matrixArbitration (core : Nat)
  | matrixRetire (core : Nat)
  | nextApply (core id : Nat)
  | sendAppend (core id : Nat)
  | creditReturn (k : Nat)
  | fabwWriteArrival (k : Nat)
  | fabwAck (core id : Nat) (refused : Bool)
  | migrArrival (k : Nat)
  | continuationDelivery (k : Nat)
  | backlogPlacement (core : Nat)
  | binTimerLaunch (core part bin : Nat)
  | mergeTimeout (core part : Nat) (pc : Word)
  | itemStamp (core part : Nat)
  | registerGrant (core part lane : Nat)
  | registerEviction (core part lane : Nat)
  | causalDelivery (die k : Nat)
  | guestFill (die k : Nat)
  | replForward (k : Nat)
  | nodeRetire (node : Nat)
  | sluiceDrain (ten entry : Nat)
  | sluiceBatchArrival (k : Nat)
  | sluiceRetry (ten entry : Nat)
  | hostRead (master : BitVec 16) (ten : BitVec 4) (va : BitVec 57) (n : Nat)
  | hostWrite (master : BitVec 16) (ten : BitVec 4) (va : BitVec 57) (bytes : List Byte)
  | hostHelpedStep (master : BitVec 16) (ten : BitVec 4) (op : HostOp) (va : BitVec 57)
  | attestationRequest (master : BitVec 16) (ten : BitVec 4) (nonce : BitVec 256)
  | publicKeyRequest (master : BitVec 16)
  | tnreplayPage (ten : BitVec 4) (psz : BitVec 2) (vpn : BitVec 41)
  | tnreplayToken (ten : BitVec 4) (token : Word)
  | tnreplayAll (ten : BitVec 4)
  | tninvPage (ten : BitVec 4) (psz : BitVec 2) (vpn : BitVec 41)
  | tninvAll (ten : BitVec 4)
  | invalidationDone (ten : BitVec 4)
  | faultRingControlWrite (ten : BitVec 4) (v : Word)
  | preempt (core : Nat)
  | preemptSave (core : Nat)
  | resume (core : Nat)
  | kill (core : Nat)
  | tenancyReset (ten : BitVec 4)
  | dbgHalt (core part : Nat)
  | dbgRel (core part : Nat)
  | dbgStep (core part : Nat)
  | joinWatchdog (k : Nat)
  | gaugeWatchdog (core thr : Nat)
  | weirPeriodBoundary (ten : BitVec 4)
  | counterRotation (core part : Nat)
  | pcSample (core part : Nat)
  | ptpMessage (later : Bool) (ns : Nat)
  | patrolScrub (stack : BitVec 4)
  | powerThrottle (watts : Nat) (hot : BitVec 8)
  | powerOnStart (outcomes : List (BitVec 8)) (slots : List Image × List Image) (device : BitVec 10)
  | registerWrite (r : FwReg) (v : DWord)
  | illegalInstruction (word : Word)
  | powerLoss (cut : Option (BitVec 6))
deriving DecidableEq, Repr

end Sys2Proof
end

