-- ==== Sys2Proof/Machine/State.lean ====
section
/-! DEFINITION. The state of the Teralmeus T9 as plain data: everything the manual gives the machine
(INVENTORY.md, State), and State.reset. Sparse tables are lists of (number, value) pairs with rising
numbers; a number that is not listed holds the reset value its reader names. -/

namespace Sys2Proof.Machine

/-- A sparse table. -/
abbrev Tbl (α : Type) := List (Nat × α)

/-- Why the machine stops with a fault. -/
inductive Fault where
  /-- Raised by a step that follows a firmware register (TNROOT, TNFRB, TNBACK, CRSAVE, TNSMPB, TNRR,
  DBGDUMP) to a physical address at or above 2^40, where the manual puts no memory (R301). Safe: the
  hardware may do anything there. -/
  | offMemory (pa : Nat)
deriving DecidableEq, Repr

/-- Why the machine refuses a step. -/
inductive Refusal where
  /-- Raised by the dispatcher for an instruction that has no meaning yet. Safe. -/
  | notModelled (mnemonic : String)
deriving DecidableEq, Repr

/-- One entry of an allocation (R24): the thread's own value, a poisoned value (R334), or shared with
template n of the partition. -/
inductive Ent where
  | own (v : Word)
  | poisoned (v : Word)
  | ref (n : Nat)
deriving DecidableEq, Repr

/-- What the entries of an allocation hold that nothing has written: 0, the free values of a seed (R30),
or shared with a template (R24). -/
inductive Base where
  | zero
  | free (seed : Nat)
  | ref (n : Nat)
deriving DecidableEq, Repr

/-- An array pair ab/al (R21). -/
structure ArrPair where
  base : Word
  lim  : BitVec 16
deriving DecidableEq, Repr

/-- What FREEZE copies and a stamped item starts with (R30, R191): allocation, window, predicates, index
registers and array pairs. -/
structure Window where
  alloc : Nat
  base  : Base
  ents  : Tbl Ent
  wbase : Nat
  preds : BitVec 7
  ix0   : BitVec 16
  ix1   : BitVec 16
  ix2   : BitVec 16
  ix3   : BitVec 16
  ar0   : ArrPair
  ar1   : ArrPair
deriving DecidableEq, Repr

/-- A recorded template store (R193): value of register v, base, stride, size code, space. -/
structure TStore where
  v      : Nat
  base   : Word
  stride : Word
  sz     : StSz
  sp     : Bool
deriving DecidableEq, Repr

/-- A template of a partition (R222..R225, R228). -/
structure Template where
  level   : Nat
  win     : Window
  item0   : Word
  item1   : Word
  region  : BitVec 25
  start   : Word
  stores  : List TStore
  holder  : Option Nat        -- uid of the thread that holds it unstamped (R191)
  next    : Nat               -- items stamped so far of the share
  total   : Nat               -- items of the share; 0 before STAMP
  first   : Word              -- number of the share's first item
  stride  : Nat               -- distance between items of the share (gang size; 1 for sub-items)
  frozen  : Nat               -- age of the FREEZE (R228)
  evicted : List Nat          -- lanes whose entries are in backing store
deriving DecidableEq, Repr

/-- Row states of the PC table (R211). -/
inductive RowState where
  | bin
  | ready
  | spray (id : Nat)
  | held
  | merged
  | parked
deriving DecidableEq, Repr

/-- A wait-table entry (R217). -/
structure Wait where
  key     : BitVec 64
  arg     : Word
  akind   : BitVec 2
  met     : Bool
  halted  : Bool
  evicted : Bool
  reason  : BitVec 4
deriving DecidableEq, Repr

/-- Where a logged access stands (R305, R306): its walk is in flight; a page-fault record has been sent; an
access fault or a poison fault, with its kind and info, is to be raised at the unit where the thread stops. -/
inductive LogPhase where
  | walking
  | paged (token : Word)
  | failed (kind : Nat) (info : List Word)
deriving DecidableEq, Repr

/-- A translation entry (R304): virtual page of 64 KiB units, size code, physical page, attr, W, X. -/
structure TlbEntry where
  vpn  : Nat
  psz  : Nat
  ppn  : Nat
  attr : BitVec 2
  w    : Bool
  x    : Bool
deriving DecidableEq, Repr

/-- How a translation ends (R303): an entry, no valid mapping, an access fault with its kind, or a table
outside memory (R301). -/
inductive Walk where
  | ok (e : TlbEntry)
  | page
  | access (kind : Nat)
  | off (pa : Nat)
deriving DecidableEq, Repr

/-- The operand log (R307), with the model's own fields: phase, the allocation entry of the destination, the unit's word,
the spray that issued it (R145), and how the walk in flight ends (R317). -/
structure OpLog where
  pc   : Word
  ea   : Word
  kind : Nat
  sz   : Nat
  dst  : Nat
  beat : Nat
  data : DWord
  ent  : Nat
  inst : Word
  phase : LogPhase
  spray : Nat
  walk : Option Walk
deriving DecidableEq, Repr

/-- A latch (R18), or the load whose value it will hold (R143). -/
inductive Latch where
  | val (v : DWord)
  | load (id : Nat)
deriving DecidableEq, Repr

/-- Where a load's value comes from: bound already, or global memory, read when it is served (R249,
R257, R265). -/
inductive LoadSrc where
  | bound (v : DWord)
  | global (va : Nat) (pa : Nat) (attr : BitVec 2)
deriving DecidableEq, Repr

/-- What an earlier FENCE.rel orders before later stores (R253, R269): loads by number; late stores, REPL stores and stores
that must stand at their homes, by tag. -/
structure RelWait where
  loads : List Nat
  late  : List Nat
  repl  : List Nat
  home  : List Nat
deriving DecidableEq, Repr

/-- A scoreboard entry (R143, R356) with what its data return does. -/
structure Pend where
  id     : Nat
  pc     : Word
  reg    : Nat            -- first register code
  engine : Nat            -- R356: 0 load, 1 LDM beat, 2 ACCST, 3 deferred load, 4 register-resident source
  ents   : List Nat       -- allocation entries pending
  ax     : Option Nat     -- scratchpad offset of a pending ax element
  latch  : Bool           -- a load into zr: the value goes to the latch only
  sz     : LdSz
  src    : LoadSrc
  acqs   : Nat            -- Core.acqs at its issue (R257)
  spray  : Nat            -- the spray that issued it (R145)
deriving DecidableEq, Repr

/-- A tile bracket (R181): open in its thread, or closed with engine operations outstanding. -/
structure Bracket where
  addr   : Nat            -- global virtual address of the record
  tag    : Word
  topen  : Nat
  pc     : Word
  tid    : Nat
  ops    : List Nat       -- engine operations issued inside it and outstanding
  mx     : Bool           -- a matrix operation has been issued
  cins   : List Nat       -- outstanding copies issued before that
  couts  : List Nat       -- outstanding copies, ACCST and QNT issued since the last MMA or MMAZ
  bin    : Nat
  bout   : Nat
  nmma   : Nat
  units  : Nat
  cinAt  : Option Nat     -- $time of the first copy-in issue, and of the last copy-in retirement
  cinEnd : Nat
  mmaAt  : Option Nat     -- $time of the first MMA's arbitration, and of the last MMA's retirement
  mmaEnd : Nat
  coutAt : Option Nat     -- $time of the first copy-out issue
  last   : Nat            -- $time of the last retirement
  uid    : Nat            -- the thread
deriving DecidableEq, Repr

/-- The mark of an AWAIT whose condition the engine has met: the unit that the thread reissues (R112), by its chain head,
kind, offset and target. The model's own. -/
structure Mark where
  head : Word
  kind : BitVec 2
  key  : BitVec 64
  arg  : Word
deriving DecidableEq, Repr

/-- A unit of several steps between two of them: its phase and count, and the object and the ticket that an HRUN took from
its record (R162, R200). -/
structure Prog where
  phase : Nat
  count : Nat
  obj   : Nat
  tick  : Nat
  ea    : Nat                    -- the record's effective address
deriving DecidableEq, Repr

/-- A thread: its row of the PC table and its own state (R15..R30, R113, R209, R211, R217, R307). -/
structure Thread where
  uid     : Nat
  st      : RowState
  pc      : Word
  region  : BitVec 25
  age     : Nat
  readyAt : Nat
  win     : Window
  item0   : Word
  item1   : Word
  item2   : Word
  ocCp    : Nat
  ocMx    : Nat
  ocGa    : Nat
  ocCo    : Nat
  errs    : Tbl (List Word)      -- error marks by class (R173), with the trap's info
  handler : Bool
  epc     : Word
  ecause  : BitVec 16
  einfo   : List Word
  einst   : Word
  evec    : Word
  head    : Word                 -- chain head (R84)
  lats    : List Latch           -- latches, the latest first (R18)
  retry   : Nat                  -- residue retries of this chain execution (R332)
  pend    : List Pend
  log     : Option OpLog
  wait    : Wait
  saved   : Bool                 -- private entries are in backing store (R227)
  need    : Nat                  -- entries a REGGRANT waiter needs, without evicted ones (R226)
  grow    : Option Nat           -- the allocation a YIELD.REG waiter is granted (R194)
  copyNew : List Nat             -- entries a copy fault needs made private (R24)
  frz     : Option (List (Nat × Nat))   -- FREEZE waiter: need by lane, as partition x 32 + lane (R223)
  tmpl    : Option Nat           -- innermost template stamped from
  held    : Option Nat           -- unstamped template (R191)
  stores  : List TStore          -- pending template stores (R193)
  tsDone  : Bool                 -- template stores made (R193)
  bracket : Option Bracket
  bias    : Nat                  -- clock bias (R118)
  tsub    : BitVec 16            -- $timesub (R26)
  yround  : Option (List Nat)    -- uids a YIELD round still waits for (R194)
  released : Bool                -- released from a MERGE group and not past the MERGE yet (R215)
  mxUnits : Word                 -- units of the last retired MMA (R180)
  rrCount : Nat                  -- units of whole chains (R361)
  rrIndex : Nat                  -- synchronising units logged or compared
  rrStop  : Bool
  rrChain : Nat                  -- units of the running chain
  owing   : List Nat             -- tags of stores not applied on every die yet (REPL, R268)
  flat    : List Nat             -- templates whose entries a pre-emption has flattened into its own (R24)
  relWait : RelWait              -- what a FENCE.rel orders and is outstanding (R253)
  acqWait : List Nat             -- loads outstanding at an HRES: later accesses wait for them (R258)
  mark    : Option Mark          -- a met AWAIT that has not been reissued (R112)
  prog    : Option Prog          -- an HRUN, PXPUSH or LAUNCH between two of its steps (R162, R200)
  gwSince : Option Nat           -- $time since which the gauge watchdog condition holds (R358)
  gwFired : Bool
deriving DecidableEq, Repr

/-- A thread with nothing in it but its position's defaults: the values of R30 that do not depend on how the thread
comes to exist. -/
def Thread.blank (uid : Nat) (pc : Word) (region : BitVec 25) (win : Window) : Thread :=
  { uid, st := .ready, pc, region, age := 0, readyAt := 0, win, item0 := 0xFFFFFFFF, item1 := 0xFFFFFFFF
    item2 := 0xFFFFFFFF, ocCp := 0, ocMx := 0, ocGa := 0, ocCo := 0, errs := [], handler := false, epc := 0
    ecause := 0, einfo := [0, 0, 0, 0], einst := 0, evec := 0, head := pc, lats := [], retry := 0, pend := []
    log := none
    wait := { key := 0, arg := 0, akind := 0, met := false, halted := false, evicted := false, reason := 0 }
    saved := false, need := 0, grow := none, copyNew := [], frz := none, tmpl := none, held := none, stores := [], tsDone := true
    bracket := none, bias := 0, tsub := 0, yround := none, released := false, mxUnits := 0, rrCount := 0
    rrIndex := 0, rrStop := false, rrChain := 0, owing := [], flat := []
    relWait := ⟨[], [], [], []⟩, acqWait := [], mark := none, prog := none, gwSince := none, gwFired := false }

/-- An allocation that outlives its thread until the counters reach 0 (R194). -/
structure Ghost where
  uid  : Nat
  part : Nat
  lane : Nat
  n    : Nat
  win  : Window
  oc   : List Nat                -- counters by class
  owing : List Nat               -- tags of the thread's stores not applied on every die yet (R268, R271)
deriving DecidableEq, Repr

/-- Entries granted to a FREEZE and not yet taken by it, in a lane (partition x 32 + lane) (R223). -/
structure Grant where
  uid  : Nat
  lane : Nat
  n    : Nat
deriving DecidableEq, Repr

/-- An item of the continuation backlog (R221), with its partition. -/
structure Later where
  entry : BitVec 57
  item  : Word
  part  : Nat
deriving DecidableEq, Repr

/-- A spawn bin (R220): due is the cycle at which the timer reaches 0. -/
structure Bin where
  entry : BitVec 57
  alloc : Nat
  due   : Nat
  tids  : List Nat
deriving DecidableEq, Repr

/-- A MERGE group (R215). -/
structure Group where
  pc     : Word
  region : BitVec 25
  since  : Nat
deriving DecidableEq, Repr

/-- A partition (R211..R228, R352, R355). -/
structure Part where
  window  : List Nat             -- sprays of the issue window, oldest first
  nextId  : Nat
  tmpls   : Tbl Template
  bins    : Tbl Bin
  groups  : List Group
  halted  : Bool
  dbgdump : BitVec 64
  step    : Option (List Nat)    -- uids whose chain a debug step still lets run (R355)
  counts  : Tbl (Nat × Nat)      -- event: count, enabled time
  counting : List Nat            -- events counted in this period
  rot     : Nat                  -- the number after that of the event counted last
  rotAt   : Nat                  -- microsecond of $time last rotated
  smpPos  : Nat
  smpNext : Nat
deriving DecidableEq, Repr

/-- A header slot (R64): header as a 256-bit image, binding, dirty bit. An unlisted slot is EMPTY. -/
structure Slot where
  hdr   : BitVec 256
  bind  : BitVec 64
  dirty : Bool
deriving DecidableEq, Repr

/-- A weight bank (R175, R241). -/
inductive Bank where
  | empty
  | ready (hdr : BitVec 256) (bind : BitVec 64) (elems : List (List Nat))
deriving DecidableEq, Repr

/-- Scratchpad line attributes (R231). -/
structure LineAttr where
  pend : BitVec 4
  tag  : BitVec 4
  sw   : Bool
  own  : Bool
  pres : Bool
deriving DecidableEq, Repr

/-- An error met after issue (R173): the fault kind, the request offset or the slot (R203), and what more the fault's own
rule names for its record (notes/assumptions/54). -/
structure EngErr where
  kind : Nat
  arg  : Word
  more : List Word
deriving DecidableEq, Repr

/-- A copy or gather in the spout (R184, R185, R236). -/
structure Copy where
  id     : Nat
  uid    : Nat
  gather : Bool
  pc     : Word
  inst   : Word
  q      : Nat                   -- request offset
  srcSp  : Bool
  dstSp  : Bool
  src    : Nat                   -- source and destination of a copy by address
  dst    : Nat
  len    : Nat                   -- bytes, or row bytes of a gather by address
  pitch  : Nat                   -- source pitch of a gather by address
  srcSlot : Option Slot
  dstSlot : Option Slot
  dstNum : Nat
  rows   : List Nat              -- row indices of a gather
  stamp  : Option Nat
  gauge  : Option (Nat × Word)   -- offset and phase
  lines  : List Nat              -- destination lines not written yet
  stored : List Nat              -- destination lines that program stores wrote since the issue (R67)
  moved  : Nat                   -- bytes delivered
  err    : Option EngErr
  held   : Option (Nat × Word)   -- page fault: virtual address and token
deriving DecidableEq, Repr

/-- Matrix operations (R173..R179). -/
inductive MxKind where
  | mma | mmaz | accz | accst | accld | qnt | wld | wsw
deriving DecidableEq, Repr

/-- An operation of a matrix queue: its slots as read at issue, and what its fetch has read. -/
structure MxOp where
  id     : Nat
  kind   : MxKind
  part   : Nat
  uids   : List Nat
  tids   : List Nat              -- the participants' positions at issue
  ents   : List Nat              -- the allocation entry of a register-resident tile's first register in each
  pc     : Word
  inst   : Word
  mode   : Option Mode
  srcNum : Nat                   -- A, weights, ACCLD source, or the cistern tile of ACCZ, ACCST and QNT
  src    : Option Slot
  dstNum : Nat                   -- the cistern tile of MMA, MMAZ and ACCLD, or the destination of ACCST and QNT
  dst    : Option Slot
  reg    : Option Nat            -- first register code of a register-resident tile
  buf    : List Host.Cell        -- bytes fetched
  pos    : Nat                   -- pieces fetched
  fetched : Bool
  fresh  : Bool                  -- a slot's header was rewritten by an earlier operation since issue (R177)
  won    : Bool                  -- arbitrated, waiting for what it may not run beside (R177, R245)
  running : Bool                 -- arbitrated and under way
  err    : Option EngErr
  held   : Option (Nat × Word)   -- page fault: virtual address and token
  retried : Bool                 -- macro residue mismatch once (R333)
deriving DecidableEq, Repr

/-- Collective operations (R198, R200..R202). -/
inductive CoOp where
  | send (o len handle tc : Nat) (payload : List Byte)       -- payload read so far; tc + 2 is its class (R318)
  | next (o obj : Nat) (lim : Word) (item : Option Word) (key : Nat)   -- item taken; the name of its ADD (R201)
  | fabw (q src dst len : Nat) (ss : Bool) (dev core : Nat) (stamp : Option Nat) (tc sent : Nat) (beats : List Nat)
  | pxpush (launch : Bool) (shadow recVa : Nat) (idx : Option Nat) (counted : Bool)   -- beats: sent, not acknowledged
deriving DecidableEq, Repr

/-- A collective operation outstanding in a core. -/
structure Coll where
  id   : Nat
  uid  : Nat
  tid  : Nat
  pc   : Word
  inst : Word
  op   : CoOp
  gauge : Option (Nat × Word)
  done : Bool                    -- effect complete, waiting for its turn to retire
  err  : Option EngErr
  held : Option (Nat × Word)
deriving DecidableEq, Repr

/-- A catch ring bound to the context (R321, R322). -/
structure Ring where
  cb     : Nat
  base   : Nat
  size   : Nat
  handle : Nat
  sender : Nat                   -- gang index
  receiver : Nat
  armEntry : BitVec 57
deriving DecidableEq, Repr

/-- An L1 line: the bytes as last filled or stored (R257). -/
structure L1Line where
  data   : List Byte
  poison : List Bool
deriving DecidableEq, Repr

/-- The context placed on a core (R28, R289). -/
structure Ctx where
  node  : Nat
  index : Nat
  ten   : Nat
  region : BitVec 25
  started : Bool                 -- every core of the gang holds its context (R289)
  frozen : Bool                  -- the prologue has reached FREEZE
deriving DecidableEq, Repr

/-- A load into an ax element that outlives its thread (R251): the thread, its position, the scoreboard entry. -/
structure AxLoad where
  uid  : Nat
  pos  : Nat
  pend : Pend
  owing : List Nat               -- tags of the thread's stores not applied on every die yet (R268)
deriving DecidableEq, Repr

/-- A unit that a spray has issued: partition, spray, PC. -/
abbrev UnitKey := Nat × Nat × Word

/-- A global store whose unit has completed and that is not applied yet (R252): a name of its own, its unit, the thread, its
virtual address and its physical address in one line, the page's attribute, the bytes. -/
structure LateStore where
  tag   : Nat
  unit  : UnitKey
  uid   : Nat
  va    : Nat
  pa    : Nat
  attr  : BitVec 2
  bytes : List Byte
deriving DecidableEq, Repr

/-- A core (R2, R208). -/
structure Core where
  ctx     : Option Ctx
  threads : Tbl Thread           -- by position 0..4095
  ghosts  : List Ghost
  nextUid : Nat
  p0      : Part
  p1      : Part
  p2      : Part
  p3      : Part
  sp      : List Host.Cell       -- scratchpad; unlisted bytes read 0 (R232)
  attrs   : Tbl LineAttr
  spPoison : List Nat            -- poisoned 32-bit words (R334)
  slots   : Tbl Slot
  cistern : Tbl Word
  ciPoison : List Nat            -- poisoned 64-bit words
  bank0   : Bank
  bank1   : Bank
  active  : Bool                 -- index of the active bank
  mxq     : List MxOp            -- the four matrix queues, in issue order
  losses  : List Nat             -- loss counts of the four partitions (R245)
  copies  : List Copy
  shorts  : List (Nat × Word)    -- gauges and phases with a copy that retired short, and copies outstanding (R188)
  closing : List Bracket         -- closed brackets with operations outstanding (R181)
  colls   : List Coll
  nextOp  : Nat
  credits : Tbl Nat              -- by handle (R198)
  rings   : List Ring
  backlog : List Later
  grants  : List Grant
  tlb     : List TlbEntry
  lastPage : Tbl TlbEntry        -- by partition x 32 + lane (R304)
  l1      : Tbl L1Line
  acqs    : Nat                  -- invalidations of L1 so far: a fill requested before one is not installed (R257)
  owing   : List Nat             -- tags of engine writes not applied on every die yet (REPL, R268, R273)
  late    : List LateStore       -- in issue order (R252)
  axLoads : List AxLoad          -- loads into ax elements of threads that have ended, in program order (R251)
  crdone  : Bool
  crheld  : Option (Nat × Word)  -- the save-area address and token of a pre-emption held on a page fault (R317)
  crsave  : BitVec 64
  ercore  : Word
  draining : Bool                -- pre-emption in progress (R313)
  skew    : Nat                  -- cycles by which its counter leads the device's (R118)
  ended   : List (Nat × Nat)     -- thread and status: 0 EXIT, 1 FAULT, 2 DOUBLE, 3 KILLED (R113, R294)
deriving DecidableEq, Repr

/-- A CAUSAL key (R264): the sum of the clock, and the die. -/
abbrev Key := Nat × Nat

/-- A cross-die write waiting in an inbound buffer (R264). -/
structure Inbound where
  src   : Nat
  clock : List Word
  pa    : Nat
  bytes : List Byte
  key   : Key
deriving DecidableEq, Repr

/-- A guest copy of a line with the keys of its bytes (R262, R264). -/
structure GuestLine where
  data : List Byte
  keys : List Key
  poison : List Bool
deriving DecidableEq, Repr

/-- A guest fill requested by a die (R265). -/
structure Fill where
  line  : Nat
  clock : List Word              -- the requester's clock at the request
  served : Option (GuestLine × List Word)
  late  : List (Nat × List Byte × Key)   -- writes to the line that the die has applied since the request (R264)
deriving DecidableEq, Repr

/-- A die: vector clock, inbound buffer, guest slice, REPL copies that differ from home (R262..R268). -/
structure Die where
  vc      : List Word
  inbound : List Inbound
  guests  : Tbl GuestLine
  fills   : List Fill
  repl    : List Host.Cell
  replPoison : List Nat          -- sectors whose copy here is still poisoned: a forward is to clear it (R268, R337)
deriving DecidableEq, Repr

/-- A REPL store on its way to one die (R268). -/
structure ReplFwd where
  die  : Nat
  pa   : Nat
  bytes : List Byte
  tag  : Nat
deriving DecidableEq, Repr

/-- A join watch entry (R357). -/
structure Watch where
  pa    : Nat
  va    : Nat
  ten   : Nat
  deadline : Nat
  waiting : Bool                 -- no entry was free
  since : Nat                    -- $time at the first arrival
deriving DecidableEq, Repr

/-- What an agent other than a thread has announced an operation for (R201, R286, R289, R292, R324); gone once the agent
has given it up. -/
inductive OwnKey where
  | gone
  | pop (ten queue : Nat)
  | dispense (node : Nat)
  | arrive (node left : Nat)
  | next (key : Nat)
  | sluice (ten entry shadow : Nat)
  | batch (dev ten entry : Nat)
deriving DecidableEq, Repr

/-- A record of an agent's own (R286): the object, the ticket, the operation; once applied, its status, its result and
the object's word at 192 before it. -/
structure OwnRec where
  key    : OwnKey
  pa     : Nat
  ticket : Nat
  op     : Nat
  operand : Nat
  res    : Option (Nat × Nat × Nat)
deriving DecidableEq, Repr

/-- A fault record before it is written (R308). -/
structure Rec where
  cls    : Nat
  kind   : Nat
  status : Nat
  token  : Word
  time   : Nat
  rpc    : Word
  ipc    : Word
  inst   : Word
  thread : Word
  core   : Nat
  info   : List Word
  va     : Nat
deriving DecidableEq, Repr

/-- A tile record waiting to be written (R181): held on a page fault with its token. -/
structure TileRec where
  ten   : Nat
  node  : Nat
  core  : Nat
  va    : Nat
  bytes : List Byte
  held  : Option Word
  uid   : Nat                    -- its thread, and the name of its write as a store by the thread
  tag   : Nat
deriving DecidableEq, Repr

/-- A sluice entry's state (R324, R325): elements popped and not applied, with their places in the shadow; whether a
batch is on its way; when the rest is sent again; whether a refusal has disabled the entry; a page fault. -/
structure SluiceSt where
  unsent   : List (Nat × DWord)
  sent     : Nat                 -- elements of the batch whose beats have left (R296)
  inFlight : Bool
  retryAt  : Option Nat
  disabled : Bool
  held     : Option (Nat × Word)
deriving DecidableEq, Repr

/-- A queue waiting on a failed scheduler access (R374): 1 a page fault with its token, 2 refused until the
table changes. -/
inductive QueueHold where
  | page (va : Nat) (token : Word)
  | refused
deriving DecidableEq, Repr

/-- What a write to TNREPLAY names (R310): a page of a size, a token, or everything. -/
inductive Replay where
  | page (psz vpn : Nat)
  | token (w : Word)
  | all
deriving DecidableEq, Repr

/-- A tenancy's registers and scheduler (R293..R298, R310..R312, R321, R323, R325, R344, R348..R360). -/
structure Tenancy where
  ctl     : Word
  root    : BitVec 64
  qtab    : BitVec 64
  host    : Word
  wrper   : Word
  wrAt    : Nat                  -- $time of the last period boundary
  budgets : Tbl Nat              -- unlisted: all ones, unlimited
  used    : Tbl Nat
  frb     : BitVec 64
  frHead  : BitVec 16
  frEn    : Bool
  frLsz   : BitVec 4
  frTail  : BitVec 16
  frLost  : BitVec 16
  frHeld  : List Rec
  frOver  : Option Rec
  token   : Nat                  -- last sequence number taken
  inv     : BitVec 64
  back    : BitVec 64
  ring    : BitVec 64
  sluice  : BitVec 64
  peer    : Word
  note    : BitVec 64
  smpctl  : Word
  smpb    : BitVec 64
  smpHead : Word
  smpTail : Word
  smpLost : Word
  cev     : BitVec 64
  gwdlim  : BitVec 64
  rr      : BitVec 64
  deficits : Tbl Nat
  lastPop : Tbl Nat              -- node number last popped from each queue
  heads   : Tbl (List Nat)       -- by queue: the nodes at its head, first the one to be placed next
  popDue  : List Nat             -- queues whose head has been placed and is still to be popped
  qholds  : Tbl QueueHold
  sluices : Tbl SluiceSt
  pausedAt : Option Nat          -- $time since which the watchdogs pause (R359)
  replays : List Replay          -- writes to TNREPLAY whose sweep the weir holds (R296, R318)
deriving DecidableEq, Repr

/-- A node: a launch record placed, or retiring (R282, R289, R292, R339). -/
structure Node where
  record  : Nat                  -- launch-record address
  ten     : Nat
  queue   : Nat
  entry   : BitVec 57
  first   : Word
  count   : Word
  gang    : Nat
  flags   : Nat
  tmpl    : Nat
  win     : Nat
  shape   : Nat
  trap    : Word
  pred    : Nat
  succ    : List DWord
  disp    : Nat
  attempts : Nat
  cores   : List Nat
  staged  : Tbl (List (Option Byte))   -- staged lines (R339)
  commits : List Nat             -- record addresses of deferred operations (R166)
  arrivals : List DWord          -- successors still to be served (R292)
  placing : Bool                 -- state 2 has been written (R289)
  placed  : Bool                 -- every context of the gang has been placed
  requeued : Bool                -- rolled back and at the head of its queue again (R341)
  retired : Bool                 -- state 4 has been written
  failed  : Bool                 -- rolled back; its record is still to be written
  fell    : Nat × List Nat       -- the cycle of the rollback and the cores its contexts were on (R347)
  waiting : Option (Nat × Word)  -- page fault of a scheduler access
  saved   : Bool                 -- pre-empted
deriving DecidableEq, Repr

/-- The context of one core saved by pre-emption (R314): kept by its save-area address. -/
structure Save where
  addr  : Nat
  addrs : List Nat
  head  : List Host.Cell         -- the area's header as it was written
  node  : Nat
  index : Nat
  core  : Core
  clock : Nat
deriving DecidableEq, Repr

/-- Messages in flight to cores and interfaces of this device. -/
inductive Msg where
  | credit (core handle n : Nat)                             -- R199
  | migr (src dst : Nat) (d : Dst) (froms threads : List Nat) -- R195: positions kept on the source, reserved on the target
  | continuation (core ten : Nat) (entry : BitVec 57) (items : List Word) (join : Nat)   -- R221
  /-- A fabric write from an FABW operation id of core fromCore of a device (R202, R270, R325). -/
  | fabw (fromDev fromCore id fromTen ten core va : Nat) (bytes : List Byte) (stamp : Option Nat)
  /-- A sluice batch for the true queue trueQ (R324, R325). -/
  | batch (fromDev fromTen entry ten core trueQ : Nat) (elems : List DWord) (stamp : Option Nat) (applied : Nat)
  /-- What became of a sluice batch: n elements applied, then FULL, a refusal, or neither (R324, R325). -/
  | applied (ten entry n : Nat) (full refused : Bool)
deriving DecidableEq, Repr

/-- What leaves the device. -/
inductive Out where
  | resp (master : Nat) (code : Nat) (data : List Byte)      -- R326
  | report (master : Nat) (bytes : List Byte)                -- R370
  | fabw (dev tc fromCore id fromTen ten core va : Nat) (bytes : List Byte) (stamp : Option Nat)
  | fabwAck (dev core id : Nat) (refused : Bool)
  | batch (dev tc fromTen entry ten core trueQ : Nat) (elems : List DWord) (stamp : Option Nat)
  | applied (dev ten entry n : Nat) (full refused : Bool)
  | interrupt (ten : Nat)
deriving DecidableEq, Repr

/-- A host request held by the weir, or waiting behind one (R326, R327). -/
structure HostReq where
  master : Nat
  ten    : Nat
  op     : Nat                   -- 0 read, 1 write, 2 HANN, 3 HAPP, 4 HRUN, 5 HPOIS, 6 HCLR
  va     : Nat
  n      : Nat
  bytes  : List Byte
  run    : Option (Nat × Nat)    -- an HRUN under way: its object and its ticket (R162)
  begun  : Bool                  -- the weir has held it: it is refused no more (R326)
  pages  : Option (List (Nat × BitVec 2 × Nat))   -- a read or write under way: what is left of it, translated
  got    : List Byte             -- bytes read so far
deriving DecidableEq, Repr

/-- A start-record entry (R366). -/
structure StartEnt where
  detail   : BitVec 64
  starts   : BitVec 16
  attempts : BitVec 8
  policy   : BitVec 8
  outcome  : BitVec 8
  step     : BitVec 8
deriving DecidableEq, Repr

/-- Fuses (R346, R365, R369, R370). -/
structure Fuses where
  seed      : BitVec 256
  keyDigest : BitVec 256
  svnMin    : BitVec 16
  repair    : Tbl Nat
deriving DecidableEq, Repr

/-- How a power island is supplied (R368). -/
inductive Supply where
  | off
  | retention
  | on
deriving DecidableEq, Repr

/-- Stored bits that are in error: those that the mask names, data bits first and check bits after them (R334, R335). -/
inductive BitError where
  | memory (sector mask : Nat)               -- 256 data and 10 check bits
  | register (core thr entry mask : Nat)     -- an allocation entry: 32 and 7
  | scratchpad (core word mask : Nat)        -- 32 and 7
  | cistern (core word mask : Nat)           -- 64 and 8
deriving DecidableEq, Repr

/-- What the model's step does next: an event of an agent, a message from another device, one issue slot of a partition (core x 4 +
partition), a late store, idle nanoseconds, a cache's replacement of a line, or an error in hardware. The model's own:
notes/assumptions/2. -/
inductive Pick where
  | ev (i : Instr)
  | recv (m : Msg)
  | issue (part : Nat)
  | delay (part : Nat)           -- an issue slot whose STG and STM are applied later (R252)
  | apply (core k : Nat)         -- late store k of a core is applied (R252)
  | idle (ns : Nat)
  | dropL1 (core line : Nat)     -- a core's L1 replaces a line (R257)
  | dropGuest (die line : Nat)   -- a die replaces a guest copy (R265)
  | checker (n lane : Nat)       -- checker n 0..2 of a lane mismatches in the next unit that it checks; n 3 and above: the
                                 -- next matrix operation mismatches (R332, R333)
  | bitError (e : BitError)      -- stored bits are in error (R334..R336)
deriving DecidableEq, Repr

/-- The unit that is executing, and for which threads: the model's own cursor. -/
structure Cur where
  core    : Nat
  part    : Nat
  members : List Nat             -- positions, ascending lane
  word    : Word
  len     : Nat                  -- words of the unit
  upset   : Option (Nat × Nat)   -- a checker mismatch in this unit (R332): checker, position
deriving DecidableEq, Repr

/-- The machine. -/
structure State where
  cycle   : Nat
  time    : BitVec 64
  timeFrac : Nat                 -- in units of 1/13,500 ns: a cycle at 2.7 GHz is 5,000 of them (R2)
  device  : BitVec 10
  mem     : List Host.Cell
  check   : Tbl (BitVec 10)
  attr    : Tbl (BitVec 2)
  poison  : List Nat
  keys    : Tbl Key              -- keys of the home values of CAUSAL bytes (R264)
  aclk    : Tbl (List Word)      -- clocks of the stores of ATOMIC bytes (R267)
  dies    : Tbl Die
  fwds    : List ReplFwd
  watch   : List Watch
  own     : List OwnRec          -- announced operations of agents other than threads
  orphans : List (Nat × Nat × Nat × Nat)   -- NEXTs whose context is gone: tenancy, core, name of the ADD, dispenser (R201)
  cores   : Tbl Core
  tens    : Tbl Tenancy
  nodes   : Tbl Node
  saves   : List Save
  msgs    : List Msg
  refused : List (Nat × Nat × Nat)   -- FABWs of which a write was refused: device, core, operation (R270)
  out     : List Out
  reqs    : List HostReq
  tileRecs : List TileRec
  startRec : Tbl StartEnt
  startPrev : Tbl StartEnt       -- the start record before the last start (R367), and the three fields below
  repairPrev : List Nat × List Nat × Tbl Nat
  repairs : List Nat             -- cores marked for repair in the start record (R346)
  badCores : List Nat            -- physical cores replaced by repair, as die x 26 + core
  fuses   : Fuses
  running : Bool
  haltedAt : Nat                 -- start step at which start halted; 0 none
  meas    : List (BitVec 512)
  ports   : List Nat             -- ports disabled
  laneMaps : Tbl Nat             -- spare-lane maps of degraded ports 0..17, and of the die links at 18 (R328, R365)
  withheld : List Nat            -- cascades withheld
  repairMap : Tbl Nat            -- physical core of an enabled-core index
  pubKey  : List Byte
  pwrlim  : BitVec 16
  clockSteps : Tbl Nat
  ptpdom  : BitVec 8
  ptpport : BitVec 64
  ptpLock : Bool
  slew    : Int                  -- correction still to be slewed, in the units of timeFrac (R354)
  rtwgt   : Tbl (BitVec 64)      -- by router; unlisted: every weight 1 (R319)
  erstk   : Tbl Word
  ersadr  : Tbl (BitVec 64)
  stitched : List Nat            -- nodes with a stitched plane
  plan    : List Pick
  turn    : Nat
  cur     : Cur
  fresh   : Nat
  qwatch  : List (Nat × Nat × Nat)   -- lines of queue tables: line, tenancy, first entry (R375)
  signals : List Nat             -- tenancies whose queues are to be considered in this step (R375)
  upset   : Option (Nat × Nat)   -- a checker mismatch to come: checker, lane
  issued  : Nat × Nat × List Nat -- the last cycle in which a unit was issued, the core, the threads (R216)
  delay   : Bool                 -- the stores of the slot that issues are applied later (R252)
  bad     : Option Nat
deriving DecidableEq, Repr

/-- An array pair after reset (R30). -/
def ArrPair.zero : ArrPair := ⟨0, 0⟩

/-- The window of a launched thread (R30): an allocation of n entries that hold what b says; predicates false,
index registers and array pairs 0, $wbase 0. -/
def Window.launch (n : Nat) (b : Base) : Window :=
  { alloc := n, base := b, ents := [], wbase := 0, preds := 0, ix0 := 0, ix1 := 0, ix2 := 0, ix3 := 0
    ar0 := .zero, ar1 := .zero }

/-- A partition after placement (R211, R220). -/
def Part.reset : Part :=
  { window := [], nextId := 0, tmpls := [], bins := [], groups := [], halted := false, dbgdump := 0,
    step := none, counts := [], counting := [], rot := 0, rotAt := 0, smpPos := 0, smpNext := 0 }

/-- A core that holds no context (R28, R231, R246). -/
def Core.reset : Core :=
  { ctx := none, threads := [], ghosts := [], nextUid := 0, p0 := .reset, p1 := .reset, p2 := .reset,
    p3 := .reset, sp := [], attrs := [], spPoison := [], slots := [], cistern := [], ciPoison := [],
    bank0 := .empty, bank1 := .empty, active := false, mxq := [], losses := [0, 0, 0, 0], copies := [], shorts := [], closing := [],
    colls := [], nextOp := 0, credits := [], rings := [], backlog := [], grants := [], tlb := [], lastPage := [],
    l1 := [], acqs := 0, owing := [], late := [], axLoads := [],
    crdone := false, crheld := none, crsave := 0, ercore := 0, draining := false,
    skew := 0, ended := [] }

/-- A die after start (R263). -/
def Die.reset : Die :=
  { vc := [0, 0, 0, 0, 0, 0, 0, 0], inbound := [], guests := [], fills := [], repl := [], replPoison := [] }

/-- A tenancy after reset (R295, R297, R310, R344, R348, R350, R360). -/
def Tenancy.reset : Tenancy :=
  { ctl := 0, root := 0, qtab := 0, host := 0xFFFFFFFF, wrper := 1024, wrAt := 0, budgets := [], used := [], frb := 0,
    frHead := 0, frEn := false, frLsz := 6, frTail := 0, frLost := 0, frHeld := [], frOver := none,
    token := 0, inv := 0, back := 0, ring := 0, sluice := 0, peer := 0, note := 0, smpctl := 0, smpb := 0,
    smpHead := 0, smpTail := 0, smpLost := 0, cev := 0, gwdlim := 0, rr := 0, deficits := [],
    lastPop := [], heads := [], popDue := [], qholds := [], sluices := [], pausedAt := none, replays := [] }

/-- Scratchpad line attributes after placement (R231). -/
def LineAttr.reset : LineAttr := { pend := 0, tag := 0, sw := false, own := false, pres := true }

/-- A wait-table entry of a thread that is not parked (R217). -/
def Wait.reset : Wait :=
  { key := 0, arg := 0, akind := 0, met := false, halted := false, evicted := false, reason := 0 }

/-- No unit executing. -/
def Cur.none : Cur :=
  { core := 0, part := 0, members := [], word := 0, len := 0, upset := Option.none }

/-- The policies that the fuses give the start steps (R365): 0 halt, 1 skip, 2 alternate. -/
def startPolicy (step : Nat) : BitVec 8 :=
  if step = 9 then 1 else if step = 3 ∨ step = 4 ∨ step = 5 ∨ step = 7 ∨ step = 8 then 2 else 0

/-- The machine right after reset: nothing placed, no tenancy assigned, memory with nothing listed. Values
the manual does not state: notes/assumptions/3 and 4. -/
def State.reset : State :=
  { cycle := 0, time := 0, timeFrac := 0, device := 0, mem := [], check := [], attr := [], poison := [],
    keys := [], aclk := [], dies := [], fwds := [], watch := [], own := [], orphans := [],
    cores := [], tens := [], nodes := [], saves := [],
    msgs := [], refused := [], out := [], reqs := [], tileRecs := [], startRec := [], startPrev := [],
    repairPrev := ([], [], []), repairs := [], badCores := [],
    fuses := { seed := 0, keyDigest := 0, svnMin := 0, repair := [] }, running := false, haltedAt := 0,
    meas := [], ports := [], laneMaps := [], withheld := [], repairMap := [], pubKey := [], pwrlim := 2200,
    clockSteps := [], ptpdom := 0, ptpport := 0, ptpLock := false, slew := 0, rtwgt := [], erstk := [],
    ersadr := [], stitched := [], plan := [], turn := 0, cur := .none, fresh := 0,
    qwatch := [], signals := [], upset := none, issued := (0, 0, []), delay := false,
    bad := none }

end Sys2Proof.Machine
end

