-- ==== Sys2Proof/WellFormed.lean ====
section
/-! DEFINITION. Which units are well formed: the field conditions of R15, R16, R78, R79, R93, R103,
R174, R176 (fieldsOk: an illegal-instruction trap when they fail) and the prefix conditions of R41,
R57, R80, R81, R92, R147 (extOk, modeOk: an illegal-prefix trap when they fail). -/

namespace Sys2Proof

/-- w0..w119 (R15). -/
def winOk (n : BitVec 7) : Bool := n.toNat < 120

def Src.ok : Src → Bool
  | .w n => winOk n
  | _ => true

def Dst.ok : Dst → Bool
  | .w n => winOk n
  | _ => true

/-- A field that holds a pair source (R16): an even window register, a latch or zr. -/
def Src.pairOk : Src → Bool
  | .w n => winOk n && n.toNat % 2 == 0
  | .b _ => true
  | .zr => true
  | _ => false

/-- A field that holds a pair destination (R16). -/
def Dst.pairOk : Dst → Bool
  | .w n => winOk n && n.toNat % 2 == 0
  | .zr => true
  | .ax _ => false

/-- A y field of HSET that must hold an even code of a pair (R16, R174). -/
def Src.evenPairOk : Src → Bool
  | .b k => k.toNat % 2 == 0
  | s => s.pairOk

/-- The register group of a CAS (R147): even, or a multiple of 4 under W. -/
def Dst.casOk (w : Bool) : Dst → Bool
  | .w n => winOk n && n.toNat % (if w then 4 else 2) == 0
  | .zr => true
  | .ax _ => false

def Mode.wOf (m : Option Mode) : Bool := m.any (·.w)

/-- rm, FZI and FZO unset: the condition R92 puts on every integer instruction. -/
def Mode.intOk (m : Mode) (n w sat : Bool) : Bool :=
  m.rm.toNat == 0 && !m.fzi && !m.fzo && (n || !m.n) && (w || !m.w) && (sat || !m.sat)

/-- N and W unset (R41). -/
def Mode.fpOk (m : Mode) : Bool := !m.n && !m.w

/-- rm = 0 and N, W unset (R57). -/
def Mode.mmaOk (m : Mode) : Bool := m.rm.toNat == 0 && !m.n && !m.w

/-- The rounding codes 0..4 (R41). -/
def Mode.rmOk (m : Mode) : Bool := m.rm.toNat < 5

/-- Numbers that GETS and SETS may name outside handler mode (R26, R27). -/
def sysRegOk (r : BitVec 7) : Bool :=
  let n := r.toNat
  n ≤ 0x0C || (0x10 ≤ n && n ≤ 0x15) || n == 0x18 || n == 0x19 || 0x40 ≤ n

/-- The 64-bit system registers $clock and $time (R26). -/
def sysRegWide (r : BitVec 7) : Bool := r.toNat == 0x0A || r.toNat == 0x0B

def d3 (w : Bool) (d : Dst) (a b : Src) : Bool :=
  if w then d.pairOk && a.pairOk && b.pairOk else d.ok && a.ok && b.ok

def d2 (w : Bool) (d : Dst) (a : Src) : Bool :=
  if w then d.pairOk && a.pairOk else d.ok && a.ok

def ptOk (pt pf : BitVec 3) : Bool := pt != pf || pt.toNat == 7

/-- The conditions on a unit's fields whose failure is an illegal-instruction trap (R79). -/
def Instr.fieldsOk : Instr → Bool
  | .iadd m d a b _ _ | .isub m d a b _ _ | .imul m d a b _ _ | .and m d a b _ _ | .or m d a b _ _
  | .xor m d a b _ _ | .imin m d a b _ _ | .imax m d a b _ _ => d3 (Mode.wOf m) d a b
  | .imulw _ d a b _ _ => d.pairOk && a.ok && b.ok
  | .shl m d a b _ _ | .shr m d a b _ _ | .sar m d a b _ _ => d2 (Mode.wOf m) d a && b.ok
  | .sel _ d a b _ _ => d3 false d a b
  | .mov m d a _ _ | .not m d a _ _ | .neg m d a _ _ | .abs m d a _ _ | .popc m d a _ _ | .clz m d a _ _
  | .ctz m d a _ _ | .brev m d a _ _ | .sxb m d a _ _ | .sxh m d a _ _ | .zxb m d a _ _
  | .zxh m d a _ _ | .bswap m d a _ _ => d2 (Mode.wOf m) d a
  | .pand .. | .por .. | .pxor .. | .movp .. | .setp .. => true
  | .p2w d _ _ => d.ok
  | .w2p a _ _ => a.ok
  | .cmp m pt pf a b _ _ =>
      ptOk pt pf && (if Mode.wOf m then a.pairOk && b.pairOk else a.ok && b.ok)
  | .fcmp _ pt pf a b _ _ | .hcmp _ pt pf a b _ _ => ptOk pt pf && a.ok && b.ok
  | .cmpi _ _ m pt pf a _ _ => ptOk pt pf && (if Mode.wOf m then a.pairOk else a.ok)
  | .fadd _ d a b _ _ | .fsub _ d a b _ _ | .fmul _ d a b _ _ | .ffma _ d a b _ _ | .ffms _ d a b _ _
  | .fmin _ d a b _ _ | .fmax _ d a b _ _ | .hadd2 _ d a b _ _ | .hmul2 _ d a b _ _
  | .hfma2 _ d a b _ _ | .hmin2 _ d a b _ _ | .hmax2 _ d a b _ _ => d3 false d a b
  | .fneg _ d a _ _ | .fabs _ d a _ _ | .fsqrt _ d a _ _ | .frcp _ d a _ _ | .frsq _ d a _ _
  | .fex2 _ d a _ _ | .flg2 _ d a _ _ | .fsin _ d a _ _ | .fcos _ d a _ _ | .fflr _ d a _ _
  | .fceil _ d a _ _ | .ftrnc _ d a _ _ | .frint _ d a _ _ | .fcls _ d a _ _ | .hneg2 _ d a _ _
  | .habs2 _ d a _ _ | .hsqrt2 _ d a _ _ | .hrcp2 _ d a _ _ => d2 false d a
  | .cvt _ d a k _ _ =>
      match k with
      | .f16x2f32 | .bf16x2f32 | .e2m1sf32 => d.ok && a.pairOk
      | .f32x2f16x2 => d.pairOk && a.ok
      | _ => d.ok && a.ok
  | .iaddi _ _ m d a _ => d2 (Mode.wOf m) d a
  | .andi _ _ d a _ | .ori _ _ d a _ | .xori _ _ d a _ => d2 false d a
  | .shli _ m d a n | .shri _ m d a n | .sari _ m d a n =>
      d2 (Mode.wOf m) d a && (Mode.wOf m || n.toNat < 32)
  | .lui _ d _ => d.ok
  | .ldg _ d a sz _ _ | .lds _ d a sz _ _ => (if sz = .b64 then d.pairOk else d.ok) && a.ok
  | .stg _ d a sz _ _ | .sts _ d a sz _ _ => (if sz = .b64 then d.pairOk else d.ok) && a.ok
  | .atomg _ m d a op _ _ | .atoms _ m d a op _ _ =>
      (if op = .cas then d.casOk (Mode.wOf m) else if Mode.wOf m then d.pairOk else d.ok) && a.ok
  | .ldm _ f b n _ _ | .stm _ f b n _ _ => f.toNat + n.toNat + 1 ≤ 120 && b.ok
  | .hinit d a _ _ => d.pairOk && a.ok
  | .hann d a _ _ | .happ d a _ _ | .hrun d a _ _ => d.ok && a.ok
  | .hres d a _ _ | .hpeek d a _ _ => d.pairOk && a.ok
  | .hpois d a _ _ => d.ok && a.ok
  | .hclr a _ _ => a.ok
  | .br .. | .call .. => true
  | .jmpi d a _ => d.ok && a.ok
  | .nop .. | .fence .. | .waitc .. => true
  | .awaitG a _ _ | .awaitPr a _ _ => a.ok
  | .awaitSt a _ _ => a.pairOk
  | .trap .. | .eret .. => true
  | .gets d r _ _ => sysRegOk r && (if sysRegWide r then d.pairOk else d.ok)
  | .sets r a _ _ => sysRegOk r && a.ok
  | .win .. => true
  | .winReg a _ _ => a.ok
  | .wgrow d a _ _ => d.ok && a.ok
  | .tagrd d k _ _ => d.ok && winOk k
  | .bkpt .. => true
  | .cntrd d _ _ _ => d.pairOk
  | .time d _ _ => d.pairOk
  | .hld _ x _ _ => x.ok
  | .hev .. | .hst .. => true
  | .hset _ x y _ => x.toNat ≤ 112 && y.evenPairOk
  | .hget _ x y _ => x.toNat ≤ 112 && y.pairOk
  | .wld .. | .wsw .. => true
  | .mma .. | .mmaz .. | .accz .. | .accst .. | .accld .. | .qnt .. => true
  | .mmaReg _ _ x _ _ | .mmazReg _ _ x _ _ | .accstReg _ _ x _ _ => winOk x
  | .accldReg _ x _ _ => winOk x
  | .mxstat _ x => x.pairOk
  | .topen _ x y => x.ok && y.ok
  | .tclose .. => true
  | .cpy _ x => x.ok
  | .cpyg _ x y | .garm _ x y | .gadd _ x y | .prclr _ x y | .prclrOwn _ x y | .prclrRel _ x y =>
      x.ok && y.ok
  | .gtst _ x y => x.ok && y.ok
  | .spawn _ x y _ _ => x.ok && y.pairOk
  | .freeze .. => true
  | .stamp _ x => x.ok
  | .tstw _ x y sz _ => winOk x && (sz != .b64 || x.toNat % 2 == 0) && y.pairOk
  | .exit .. | .yield .. => true
  | .yieldReg _ x => x.ok
  | .migr _ x y => x.ok && y.ok
  | .merge .. => true
  | .elect _ x => x.ok
  | .ballot _ x y => x.ok && y.ok
  | .shfl e _ x y _ _ => x.ok && y.ok && e.all (·.ok)
  | .redx _ x y _ => x.ok && y.ok
  | .send _ x y _ => x.ok && y.pairOk
  | .rarm _ x y => x.ok && y.pairOk
  | .rack _ x y => x.ok && y.ok
  | .pxpush _ x y | .launch _ x y => x.ok && y.ok
  | .next _ x y => x.ok && y.pairOk
  | .fabw _ x _ => x.ok
  | .movx d _ _ _ _ | .movxIndex d _ _ _ => d.ok
  | .stx _ _ a _ _ | .ixset _ a _ _ | .ixadd _ a _ _ => a.ok
  | .abset _ a _ _ => a.pairOk
  | _ => true

/-- The fields that must be 0 beside an EXT prefix (R80, R81, R197). -/
def Instr.extOk : Instr → Bool
  | .ldg (some _) _ _ _ _ off | .stg (some _) _ _ _ _ off | .lds (some _) _ _ _ _ off
  | .sts (some _) _ _ _ _ off => off.toNat == 0
  | .atomg (some _) _ _ _ _ _ off | .atoms (some _) _ _ _ _ _ off => off.toNat == 0
  | .shfl (some _) _ _ _ n _ => n.toNat == 0
  | _ => true

/-- The MODE fields an instruction forbids (R41, R57, R92, R147). -/
def Instr.modeOk : Instr → Bool
  | .iadd m .. | .isub m .. | .imul m .. | .iaddi _ _ m .. => m.all (·.intOk true true true)
  | .imulw m .. => m.all (·.intOk true false false)
  | .and m .. | .or m .. | .xor m .. | .shl m .. | .shr m .. | .sar m ..
  | .shli _ m .. | .shri _ m .. | .sari _ m .. => m.all (·.intOk false true false)
  | .imin m .. | .imax m .. | .cmp m .. | .cmpi _ _ m .. => m.all (·.intOk true true false)
  | .neg m .. | .abs m .. => m.all (·.intOk false true true)
  | .mov m .. | .not m .. | .popc m .. | .clz m .. | .ctz m .. | .brev m .. | .sxb m .. | .sxh m ..
  | .zxb m .. | .zxh m .. | .bswap m .. => m.all (·.intOk false true false)
  | .fcmp m .. | .hcmp m .. | .fadd m .. | .fsub m .. | .fmul m .. | .ffma m .. | .ffms m .. | .fmin m ..
  | .fmax m .. | .hadd2 m .. | .hmul2 m .. | .hfma2 m .. | .hmin2 m .. | .hmax2 m .. | .fneg m ..
  | .fabs m .. | .fsqrt m .. | .frcp m .. | .frsq m .. | .fex2 m .. | .flg2 m .. | .fsin m .. | .fcos m ..
  | .fflr m .. | .fceil m .. | .ftrnc m .. | .frint m .. | .fcls m .. | .hneg2 m .. | .habs2 m ..
  | .hsqrt2 m .. | .hrcp2 m .. | .cvt m .. => m.all (·.fpOk)
  | .accst _ m .. | .accstReg _ m .. | .qnt _ m .. => m.all (·.fpOk)
  | .mma _ m .. | .mmaReg _ m .. | .mmaz _ m .. | .mmazReg _ m .. => m.all (·.mmaOk)
  | .atomg _ m .. | .atoms _ m .. => m.all (·.intOk true true false)
  | _ => true

/-- The MODE prefix of a unit, where its constructor holds one. -/
def Instr.mode? : Instr → Option Mode
  | .iadd m .. | .isub m .. | .imul m .. | .imulw m .. | .and m .. | .or m .. | .xor m .. | .shl m ..
  | .shr m .. | .sar m .. | .imin m .. | .imax m .. | .mov m .. | .not m .. | .neg m .. | .abs m ..
  | .popc m .. | .clz m .. | .ctz m .. | .brev m .. | .sxb m .. | .sxh m .. | .zxb m .. | .zxh m ..
  | .bswap m .. | .cmp m .. | .fcmp m .. | .hcmp m .. | .fadd m .. | .fsub m .. | .fmul m .. | .ffma m ..
  | .ffms m .. | .fmin m .. | .fmax m .. | .fneg m .. | .fabs m .. | .fsqrt m .. | .frcp m .. | .frsq m ..
  | .fex2 m .. | .flg2 m .. | .fsin m .. | .fcos m .. | .fflr m .. | .fceil m .. | .ftrnc m .. | .frint m ..
  | .fcls m .. | .hneg2 m .. | .habs2 m .. | .hsqrt2 m .. | .hrcp2 m .. | .hadd2 m .. | .hmul2 m ..
  | .hfma2 m .. | .hmin2 m .. | .hmax2 m .. | .cvt m .. => m
  | .iaddi _ _ m .. | .cmpi _ _ m .. => m
  | .shli _ m .. | .shri _ m .. | .sari _ m .. => m
  | .atomg _ m .. | .atoms _ m .. => m
  | .mma _ m .. | .mmaReg _ m .. | .mmaz _ m .. | .mmazReg _ m .. | .accst _ m .. | .accstReg _ m ..
  | .qnt _ m .. => m
  | _ => none

/-- A unit with a word: every constructor but the steps of the machine's other agents. -/
def Instr.isUnit : Instr → Bool
  | .loadDataReturn .. | .deferredWalkDone .. | .copyLineArrival .. | .copyRetire .. | .aRowFetch ..
  | .matrixArbitration .. | .matrixRetire .. | .nextApply .. | .sendAppend .. | .creditReturn ..
  | .fabwWriteArrival .. | .fabwAck .. | .migrArrival .. | .continuationDelivery ..
  | .backlogPlacement .. | .binTimerLaunch .. | .mergeTimeout .. | .itemStamp .. | .registerGrant ..
  | .registerEviction .. | .causalDelivery .. | .guestFill .. | .replForward .. | .nodeRetire ..
  | .sluiceDrain .. | .sluiceBatchArrival .. | .sluiceRetry .. | .hostRead .. | .hostWrite ..
  | .hostHelpedStep .. | .attestationRequest .. | .publicKeyRequest .. | .tnreplayPage ..
  | .tnreplayToken .. | .tnreplayAll .. | .tninvPage .. | .tninvAll .. | .invalidationDone ..
  | .faultRingControlWrite .. | .preempt .. | .preemptSave .. | .resume .. | .kill ..
  | .tenancyReset .. | .dbgHalt .. | .dbgRel .. | .dbgStep .. | .joinWatchdog .. | .gaugeWatchdog ..
  | .weirPeriodBoundary .. | .counterRotation .. | .pcSample .. | .ptpMessage .. | .patrolScrub ..
  | .powerThrottle .. | .powerOnStart .. | .registerWrite .. | .illegalInstruction .. | .powerLoss .. => false
  | _ => true

/-- A well-formed unit: one the decoder answers. -/
def Instr.wf (i : Instr) : Bool :=
  i.isUnit && i.fieldsOk && i.extOk && i.modeOk && i.mode?.all (·.rmOk)

end Sys2Proof
end

