-- ==== Sys2Proof/Machine/Operands.lean ====
section
/-! DEFINITION. The operand forms of every unit: its guard (R22, R74, R81), its chain bit (R74, R84), the
registers it reads in the order a, b, fourth operand, d, and those it writes (R15, R16, R31), and the groups
of units that other rules name. -/

namespace Sys2Proof

/-- A read of n registers (R15, R16): a register field, or a run of window registers (R149). -/
inductive Rd where
  | f (r : Src) (n : Nat)
  | run (first n : Nat)
deriving DecidableEq, Repr

/-- A write of n registers. -/
inductive Wr where
  | f (r : Dst) (n : Nat)
  | run (first n : Nat)
deriving DecidableEq, Repr

/-- A destination field read as a source (R75: atomics; R15). -/
def Dst.toSrc : Dst → Src
  | .w n => .w n
  | .zr => .zr
  | .ax n => .ax n

/-- 2 for a pair under W, else 1 (R93). -/
def pairIf (w : Bool) : Nat := if w then 2 else 1

/-- Always executes (R8). -/
def Guard.always : Guard := ⟨false, 7⟩

def gpOf (g : Option Guard) : Guard := g.getD Guard.always

/-- The guard of a unit: its g field, the GRD prefix, or p7 (R74, R81). -/
def Instr.guard : Instr → Guard
  | .iadd _ _ _ _ g _ | .isub _ _ _ _ g _ | .imul _ _ _ _ g _ | .imulw _ _ _ _ g _ | .and _ _ _ _ g _
  | .or _ _ _ _ g _ | .xor _ _ _ _ g _ | .shl _ _ _ _ g _ | .shr _ _ _ _ g _ | .sar _ _ _ _ g _
  | .imin _ _ _ _ g _ | .imax _ _ _ _ g _ => g
  | .sel gp .. => gpOf gp
  | .mov _ _ _ g _ | .not _ _ _ g _ | .neg _ _ _ g _ | .abs _ _ _ g _ | .popc _ _ _ g _ | .clz _ _ _ g _
  | .ctz _ _ _ g _ | .brev _ _ _ g _ | .sxb _ _ _ g _ | .sxh _ _ _ g _ | .zxb _ _ _ g _ | .zxh _ _ _ g _
  | .bswap _ _ _ g _ => g
  | .pand _ _ _ _ _ g _ | .por _ _ _ _ _ g _ | .pxor _ _ _ _ _ g _ | .movp _ _ _ g _ | .setp _ _ g _
  | .p2w _ g _ | .w2p _ g _ => g
  | .cmp _ _ _ _ _ g _ | .fcmp _ _ _ _ _ g _ | .hcmp _ _ _ _ _ g _ => g
  | .cmpi _ gp .. => gpOf gp
  | .fadd _ _ _ _ g _ | .fsub _ _ _ _ g _ | .fmul _ _ _ _ g _ | .ffma _ _ _ _ g _ | .ffms _ _ _ _ g _
  | .fmin _ _ _ _ g _ | .fmax _ _ _ _ g _ | .hadd2 _ _ _ _ g _ | .hmul2 _ _ _ _ g _ | .hfma2 _ _ _ _ g _
  | .hmin2 _ _ _ _ g _ | .hmax2 _ _ _ _ g _ => g
  | .fneg _ _ _ g _ | .fabs _ _ _ g _ | .fsqrt _ _ _ g _ | .frcp _ _ _ g _ | .frsq _ _ _ g _
  | .fex2 _ _ _ g _ | .flg2 _ _ _ g _ | .fsin _ _ _ g _ | .fcos _ _ _ g _ | .fflr _ _ _ g _
  | .fceil _ _ _ g _ | .ftrnc _ _ _ g _ | .frint _ _ _ g _ | .fcls _ _ _ g _ | .hneg2 _ _ _ g _
  | .habs2 _ _ _ g _ | .hsqrt2 _ _ _ g _ | .hrcp2 _ _ _ g _ => g
  | .cvt _ _ _ _ g _ => g
  | .iaddi _ gp .. | .andi _ gp .. | .ori _ gp .. | .xori _ gp .. => gpOf gp
  | .shli gp .. | .shri gp .. | .sari gp .. | .lui gp .. => gpOf gp
  | .ldg _ _ _ _ g _ | .stg _ _ _ _ g _ | .lds _ _ _ _ g _ | .sts _ _ _ _ g _ => g
  | .atomg _ _ _ _ _ g _ | .atoms _ _ _ _ _ g _ => g
  | .ldm gp .. | .stm gp .. => gpOf gp
  | .hinit _ _ g _ | .hann _ _ g _ | .happ _ _ g _ | .hrun _ _ g _ | .hres _ _ g _ | .hpeek _ _ g _
  | .hpois _ _ g _ | .hclr _ g _ => g
  | .br g _ | .call g _ | .jmpi _ _ g => g
  | .nop g _ | .fence _ _ g _ | .waitc _ _ g _ | .awaitG _ g _ | .awaitSt _ g _ | .awaitPr _ g _ | .trap _ g
  | .eret g | .gets _ _ g _ | .sets _ _ g _ | .win _ g _ | .winReg _ g _ | .wgrow _ _ g _ | .tagrd _ _ g _
  | .bkpt _ g | .cntrd _ _ g _ | .time _ g _ => g
  | .hld gp .. | .hev gp .. | .hst gp .. | .hset gp .. | .hget gp .. | .wld gp .. | .wsw gp | .mma gp ..
  | .mmaReg gp .. | .mmaz gp .. | .mmazReg gp .. | .accz gp .. | .accst gp .. | .accstReg gp .. | .accld gp ..
  | .accldReg gp .. | .qnt gp .. | .mxstat gp .. | .topen gp .. | .tclose gp => gpOf gp
  | .cpy gp .. | .cpyg gp .. | .garm gp .. | .gadd gp .. | .gtst gp .. | .prclr gp .. | .prclrOwn gp ..
  | .prclrRel gp .. => gpOf gp
  | .spawn gp .. | .freeze gp | .stamp gp .. | .tstw gp .. | .exit gp | .yield gp | .yieldReg gp ..
  | .migr gp .. | .merge gp | .elect gp .. | .ballot gp .. | .redx gp .. => gpOf gp
  | .shfl _ gp .. => gpOf gp
  | .send gp .. | .rarm gp .. | .rack gp .. | .pxpush gp .. | .next gp .. | .launch gp .. | .fabw gp .. => gpOf gp
  | .movx _ _ _ g _ | .movxIndex _ _ g _ | .stx _ _ _ g _ | .ixset _ _ g _ | .ixadd _ _ g _ | .abset _ _ g _ => g
  | _ => Guard.always

/-- The chain bit (R74): the c field; 1 for LDG and LDS into zr; 0 for formats without one. -/
def Instr.chain : Instr → Bool
  | .iadd _ _ _ _ _ c | .isub _ _ _ _ _ c | .imul _ _ _ _ _ c | .imulw _ _ _ _ _ c | .and _ _ _ _ _ c
  | .or _ _ _ _ _ c | .xor _ _ _ _ _ c | .shl _ _ _ _ _ c | .shr _ _ _ _ _ c | .sar _ _ _ _ _ c
  | .imin _ _ _ _ _ c | .imax _ _ _ _ _ c | .sel _ _ _ _ _ c => c
  | .mov _ _ _ _ c | .not _ _ _ _ c | .neg _ _ _ _ c | .abs _ _ _ _ c | .popc _ _ _ _ c | .clz _ _ _ _ c
  | .ctz _ _ _ _ c | .brev _ _ _ _ c | .sxb _ _ _ _ c | .sxh _ _ _ _ c | .zxb _ _ _ _ c | .zxh _ _ _ _ c
  | .bswap _ _ _ _ c => c
  | .pand _ _ _ _ _ _ c | .por _ _ _ _ _ _ c | .pxor _ _ _ _ _ _ c | .movp _ _ _ _ c | .setp _ _ _ c
  | .p2w _ _ c | .w2p _ _ c => c
  | .fadd _ _ _ _ _ c | .fsub _ _ _ _ _ c | .fmul _ _ _ _ _ c | .ffma _ _ _ _ _ c | .ffms _ _ _ _ _ c
  | .fmin _ _ _ _ _ c | .fmax _ _ _ _ _ c | .hadd2 _ _ _ _ _ c | .hmul2 _ _ _ _ _ c | .hfma2 _ _ _ _ _ c
  | .hmin2 _ _ _ _ _ c | .hmax2 _ _ _ _ _ c => c
  | .fneg _ _ _ _ c | .fabs _ _ _ _ c | .fsqrt _ _ _ _ c | .frcp _ _ _ _ c | .frsq _ _ _ _ c
  | .fex2 _ _ _ _ c | .flg2 _ _ _ _ c | .fsin _ _ _ _ c | .fcos _ _ _ _ c | .fflr _ _ _ _ c
  | .fceil _ _ _ _ c | .ftrnc _ _ _ _ c | .frint _ _ _ _ c | .fcls _ _ _ _ c | .hneg2 _ _ _ _ c
  | .habs2 _ _ _ _ c | .hsqrt2 _ _ _ _ c | .hrcp2 _ _ _ _ c => c
  | .cvt _ _ _ _ _ c => c
  | .ldg _ d _ _ _ _ | .lds _ d _ _ _ _ => d = .zr
  | .hinit _ _ _ c | .hann _ _ _ c | .happ _ _ _ c | .hrun _ _ _ c | .hres _ _ _ c | .hpeek _ _ _ c
  | .hpois _ _ _ c | .hclr _ _ c => c
  | .nop _ c | .fence _ _ _ c | .waitc _ _ _ c | .awaitG _ _ c | .awaitSt _ _ c | .awaitPr _ _ c
  | .gets _ _ _ c | .sets _ _ _ c | .win _ _ c | .winReg _ _ c | .wgrow _ _ _ c | .tagrd _ _ _ c
  | .cntrd _ _ _ c | .time _ _ c => c
  | .movx _ _ _ _ c | .movxIndex _ _ _ c | .stx _ _ _ _ c | .ixset _ _ _ c | .ixadd _ _ _ c
  | .abset _ _ _ c => c
  | _ => false

/-- The registers a unit reads, in the order a, b, fourth operand, d (R31). -/
def Instr.srcs : Instr → List Rd
  | .iadd m _ a b _ _ | .isub m _ a b _ _ | .imul m _ a b _ _ | .and m _ a b _ _ | .or m _ a b _ _
  | .xor m _ a b _ _ | .imin m _ a b _ _ | .imax m _ a b _ _ =>
      [.f a (pairIf (Mode.wOf m)), .f b (pairIf (Mode.wOf m))]
  | .imulw _ _ a b _ _ | .sel _ _ a b _ _ => [.f a 1, .f b 1]
  | .shl m _ a b _ _ | .shr m _ a b _ _ | .sar m _ a b _ _ => [.f a (pairIf (Mode.wOf m)), .f b 1]
  | .mov m _ a _ _ | .not m _ a _ _ | .neg m _ a _ _ | .abs m _ a _ _ | .popc m _ a _ _ | .clz m _ a _ _
  | .ctz m _ a _ _ | .brev m _ a _ _ | .sxb m _ a _ _ | .sxh m _ a _ _ | .zxb m _ a _ _
  | .zxh m _ a _ _ | .bswap m _ a _ _ => [.f a (pairIf (Mode.wOf m))]
  | .w2p a _ _ => [.f a 1]
  | .cmp m _ _ a b _ _ => [.f a (pairIf (Mode.wOf m)), .f b (pairIf (Mode.wOf m))]
  | .fcmp _ _ _ a b _ _ | .hcmp _ _ _ a b _ _ => [.f a 1, .f b 1]
  | .cmpi _ _ m _ _ a _ _ => [.f a (pairIf (Mode.wOf m))]
  | .ffma _ d a b _ _ | .ffms _ d a b _ _ | .hfma2 _ d a b _ _ => [.f a 1, .f b 1, .f (Dst.toSrc d) 1]
  | .fadd _ _ a b _ _ | .fsub _ _ a b _ _ | .fmul _ _ a b _ _ | .fmin _ _ a b _ _ | .fmax _ _ a b _ _
  | .hadd2 _ _ a b _ _ | .hmul2 _ _ a b _ _ | .hmin2 _ _ a b _ _ | .hmax2 _ _ a b _ _ => [.f a 1, .f b 1]
  | .fneg _ _ a _ _ | .fabs _ _ a _ _ | .fsqrt _ _ a _ _ | .frcp _ _ a _ _ | .frsq _ _ a _ _
  | .fex2 _ _ a _ _ | .flg2 _ _ a _ _ | .fsin _ _ a _ _ | .fcos _ _ a _ _ | .fflr _ _ a _ _
  | .fceil _ _ a _ _ | .ftrnc _ _ a _ _ | .frint _ _ a _ _ | .fcls _ _ a _ _ | .hneg2 _ _ a _ _
  | .habs2 _ _ a _ _ | .hsqrt2 _ _ a _ _ | .hrcp2 _ _ a _ _ => [.f a 1]
  | .cvt _ _ a k _ _ =>
      match k with
      | .f16x2f32 | .bf16x2f32 | .e2m1sf32 => [.f a 2]
      | _ => [.f a 1]
  | .iaddi _ _ m _ a _ => [.f a (pairIf (Mode.wOf m))]
  | .andi _ _ _ a _ | .ori _ _ _ a _ | .xori _ _ _ a _ => [.f a 1]
  | .shli _ m _ a _ | .shri _ m _ a _ | .sari _ m _ a _ => [.f a (pairIf (Mode.wOf m))]
  | .ldg _ _ a _ _ _ | .lds _ _ a _ _ _ => [.f a 1]
  | .stg _ d a sz _ _ | .sts _ d a sz _ _ => [.f a 1, .f d (if sz = .b64 then 2 else 1)]
  | .atomg _ m d a op _ _ | .atoms _ m d a op _ _ =>
      [.f a 1, .f (Dst.toSrc d) (if op = .cas then 2 * pairIf (Mode.wOf m) else pairIf (Mode.wOf m))]
  | .ldm _ _ b _ _ _ => [.f b 1]
  | .stm _ f b n _ _ => [.f b 1, .run f.toNat (n.toNat + 1)]
  | .hinit d a _ _ => [.f a 1, .f d 2]
  | .hann _ a _ _ | .happ _ a _ _ | .hrun _ a _ _ | .hres _ a _ _ | .hpeek _ a _ _ | .hclr a _ _ => [.f a 1]
  | .hpois d a _ _ => [.f a 1, .f d 1]
  | .jmpi _ a _ => [.f a 1]
  | .awaitG a _ _ | .awaitPr a _ _ => [.f a 1]
  | .awaitSt a _ _ => [.f a 2]
  | .sets _ a _ _ | .winReg a _ _ | .wgrow _ a _ _ => [.f a 1]
  | .tagrd _ k _ _ => [.run k.toNat 1]
  | .hld _ x _ _ => [.f x 1]
  | .hset _ x y _ => [.run x.toNat 8, .f y 2]
  | .topen _ x y => [.f x 1, .f y 1]
  | .cpy _ x | .fabw _ x _ => [.f x 1]
  | .cpyg _ x y | .garm _ x y | .gadd _ x y | .prclr _ x y | .prclrOwn _ x y | .prclrRel _ x y =>
      [.f x 1, .f y 1]
  | .gtst _ _ y => [.f y 1]
  | .spawn _ _ y _ _ => [.f y 2]
  | .stamp _ x => [.f x 1]
  | .tstw _ x y sz _ => [.run x.toNat (if sz = .b64 then 2 else 1), .f y 2]
  | .yieldReg _ x => [.f x 1]
  | .migr _ _ y | .ballot _ _ y | .redx _ _ y _ => [.f y 1]
  | .shfl e _ _ y _ _ => .f y 1 :: (e.toList.map fun r => .f r 1)
  | .send _ _ y _ => [.f y 2]
  | .rarm _ x y | .next _ x y => [.f x 1, .f y 2]
  | .rack _ x y => [.f x 1, .f y 1]
  | .pxpush _ _ y | .launch _ _ y => [.f y 1]
  | .stx _ _ a _ _ | .ixset _ a _ _ | .ixadd _ a _ _ => [.f a 1]
  | .abset _ a _ _ => [.f a 2]
  | _ => []

/-- The registers a unit writes (R15, R16). WGROW's d is checked after its effect (R120). -/
def Instr.dsts : Instr → List Wr
  | .iadd m d _ _ _ _ | .isub m d _ _ _ _ | .imul m d _ _ _ _ | .and m d _ _ _ _ | .or m d _ _ _ _
  | .xor m d _ _ _ _ | .imin m d _ _ _ _ | .imax m d _ _ _ _ | .shl m d _ _ _ _ | .shr m d _ _ _ _
  | .sar m d _ _ _ _ => [.f d (pairIf (Mode.wOf m))]
  | .imulw _ d _ _ _ _ => [.f d 2]
  | .sel _ d _ _ _ _ => [.f d 1]
  | .mov m d _ _ _ | .not m d _ _ _ | .neg m d _ _ _ | .abs m d _ _ _ | .popc m d _ _ _ | .clz m d _ _ _
  | .ctz m d _ _ _ | .brev m d _ _ _ | .sxb m d _ _ _ | .sxh m d _ _ _ | .zxb m d _ _ _
  | .zxh m d _ _ _ | .bswap m d _ _ _ => [.f d (pairIf (Mode.wOf m))]
  | .p2w d _ _ => [.f d 1]
  | .fadd _ d _ _ _ _ | .fsub _ d _ _ _ _ | .fmul _ d _ _ _ _ | .ffma _ d _ _ _ _ | .ffms _ d _ _ _ _
  | .fmin _ d _ _ _ _ | .fmax _ d _ _ _ _ | .hadd2 _ d _ _ _ _ | .hmul2 _ d _ _ _ _ | .hfma2 _ d _ _ _ _
  | .hmin2 _ d _ _ _ _ | .hmax2 _ d _ _ _ _ => [.f d 1]
  | .fneg _ d _ _ _ | .fabs _ d _ _ _ | .fsqrt _ d _ _ _ | .frcp _ d _ _ _ | .frsq _ d _ _ _
  | .fex2 _ d _ _ _ | .flg2 _ d _ _ _ | .fsin _ d _ _ _ | .fcos _ d _ _ _ | .fflr _ d _ _ _
  | .fceil _ d _ _ _ | .ftrnc _ d _ _ _ | .frint _ d _ _ _ | .fcls _ d _ _ _ | .hneg2 _ d _ _ _
  | .habs2 _ d _ _ _ | .hsqrt2 _ d _ _ _ | .hrcp2 _ d _ _ _ => [.f d 1]
  | .cvt _ d _ k _ _ => [.f d (if k = .f32x2f16x2 then 2 else 1)]
  | .iaddi _ _ m d _ _ => [.f d (pairIf (Mode.wOf m))]
  | .andi _ _ d _ _ | .ori _ _ d _ _ | .xori _ _ d _ _ | .lui _ d _ => [.f d 1]
  | .shli _ m d _ _ | .shri _ m d _ _ | .sari _ m d _ _ => [.f d (pairIf (Mode.wOf m))]
  | .ldg _ d _ sz _ _ | .lds _ d _ sz _ _ => [.f d (if sz = .b64 then 2 else 1)]
  | .atomg _ m d _ _ _ _ | .atoms _ m d _ _ _ _ => [.f d (pairIf (Mode.wOf m))]
  | .ldm _ f _ n _ _ => [.run f.toNat (n.toNat + 1)]
  | .hann d _ _ _ | .happ d _ _ _ | .hrun d _ _ _ => [.f d 1]
  | .hres d _ _ _ | .hpeek d _ _ _ => [.f d 2]
  | .call _ _ => [.f (.w 0) 1]
  | .jmpi d _ _ => [.f d 1]
  | .gets d r _ _ => [.f d (if sysRegWide r then 2 else 1)]
  | .tagrd d _ _ _ => [.f d 1]
  | .cntrd d _ _ _ | .time d _ _ => [.f d 2]
  | .hget _ x y _ => [.run x.toNat 8, .f y 2]
  | .mxstat _ x => [.f x 2]
  | .gtst _ x _ => [.f x 1]
  | .spawn _ x _ _ _ => [.f x 1]
  | .migr _ x _ | .elect _ x | .ballot _ x _ | .redx _ x _ _ => [.f x 1]
  | .shfl _ _ x _ _ _ => [.f x 1]
  | .send _ x _ _ | .pxpush _ x _ | .launch _ x _ => [.f x 1]
  | .movx d _ _ _ _ | .movxIndex d _ _ _ => [.f d 1]
  | _ => []

/-- The engine class of an engine operation (R173). -/
def Instr.cls : Instr → Option EngClass
  | .wld .. | .wsw .. | .mma .. | .mmaReg .. | .mmaz .. | .mmazReg .. | .accz .. | .accst .. | .accstReg ..
  | .accld .. | .accldReg .. | .qnt .. => some .mx
  | .cpy .. => some .cp
  | .cpyg .. => some .ga
  | .send .. | .fabw .. | .next .. | .pxpush .. => some .co
  | _ => none

/-- E-format units (R171). -/
def Instr.isE : Instr → Bool
  | .hld .. | .hev .. | .hst .. | .hset .. | .hget .. | .wld .. | .wsw .. | .mma .. | .mmaReg .. | .mmaz ..
  | .mmazReg .. | .accz .. | .accst .. | .accstReg .. | .accld .. | .accldReg .. | .qnt .. | .mxstat ..
  | .topen .. | .tclose .. | .cpy .. | .cpyg .. | .garm .. | .gadd .. | .gtst .. | .prclr .. | .prclrOwn ..
  | .prclrRel .. | .spawn .. | .freeze .. | .stamp .. | .tstw .. | .exit .. | .yield .. | .yieldReg ..
  | .migr .. | .merge .. | .elect .. | .ballot .. | .shfl .. | .redx .. | .send .. | .rarm .. | .rack ..
  | .pxpush .. | .next .. | .launch .. | .fabw .. => true
  | _ => false

/-- HOB units (R158). -/
def Instr.isHob : Instr → Bool
  | .hinit .. | .hann .. | .happ .. | .hrun .. | .hres .. | .hpeek .. | .hpois .. | .hclr .. => true
  | _ => false

/-- ARR units (R151). -/
def Instr.isArr : Instr → Bool
  | .movx .. | .movxIndex .. | .stx .. | .ixset .. | .ixadd .. | .abset .. => true
  | _ => false

/-- SYS units other than NOP, GETS, TAGRD, CNTRD and TIME (R86, R305). -/
def Instr.isSysEffect : Instr → Bool
  | .fence .. | .waitc .. | .awaitG .. | .awaitSt .. | .awaitPr .. | .trap .. | .eret .. | .sets .. | .win ..
  | .winReg .. | .wgrow .. | .bkpt .. => true
  | _ => false

/-- Memory, atomic and block units (R305). -/
def Instr.isMem : Instr → Bool
  | .ldg .. | .stg .. | .lds .. | .sts .. | .atomg .. | .atoms .. | .ldm .. | .stm .. => true
  | _ => false

/-- Units that access global memory themselves and are charged for its bytes at issue (R296 item 0). -/
def Instr.isGlobal : Instr → Bool
  | .ldg .. | .stg .. | .atomg .. => true
  | .ldm _ _ _ _ sp _ | .stm _ _ _ _ sp _ | .hld _ _ _ sp => !sp
  | .hst .. | .hev .. | .pxpush .. | .launch .. => true
  | i => i.isHob

/-- Units that take home-slice steps of their own (R296 item 6). -/
def Instr.isStep : Instr → Bool
  | .atomg .. | .pxpush .. | .launch .. => true
  | .hres .. => false
  | i => i.isHob

/-- The synchronising instructions of record and replay (R361). -/
def Instr.isSync : Instr → Bool
  | .atomg .. | .atoms .. | .awaitG .. | .awaitSt .. | .awaitPr .. | .waitc .. | .fence .. | .spawn ..
  | .freeze .. | .stamp .. | .migr .. | .exit .. | .send .. | .rarm .. | .rack .. | .pxpush .. | .next ..
  | .launch .. | .fabw .. => true
  | i => i.isHob

/-- The event that counts a unit's lane operations: 42 FP32, 43 packed half (R353). -/
def Instr.laneEvent : Instr → Option Nat
  | .fadd .. | .fsub .. | .fmul .. | .ffma .. | .ffms .. | .fmin .. | .fmax .. | .fneg .. | .fabs .. | .fsqrt ..
  | .frcp .. | .frsq .. | .fex2 .. | .flg2 .. | .fsin .. | .fcos .. | .fflr .. | .fceil .. | .ftrnc .. | .frint ..
  | .fcls .. | .fcmp .. => some 42
  | .hadd2 .. | .hmul2 .. | .hfma2 .. | .hmin2 .. | .hmax2 .. | .hneg2 .. | .habs2 .. | .hsqrt2 .. | .hrcp2 ..
  | .hcmp .. => some 43
  | _ => none

/-- Whether checker k, of the adders 0, the multipliers 1 or the shifters 2, checks the unit: whether its result comes from
such a unit of the datapaths (R332, notes/assumptions/16). -/
def Instr.checkedBy (k : Nat) : Instr → Bool
  | .iadd .. | .isub .. | .iaddi .. | .imin .. | .imax .. | .neg .. | .abs .. | .popc .. | .cmp .. | .cmpi .. | .fmin ..
  | .fmax .. | .hmin2 .. | .hmax2 .. | .fcmp .. | .hcmp .. | .ixadd .. | .call .. | .jmpi .. => k == 0
  | .imul .. | .imulw .. => k == 1
  | .shl .. | .shr .. | .sar .. | .shli .. | .shri .. | .sari .. => k == 2
  | .fadd .. | .fsub .. | .hadd2 .. | .fflr .. | .fceil .. | .ftrnc .. | .frint .. | .cvt .. => k == 0 || k == 2
  | .fmul .. | .ffma .. | .ffms .. | .hmul2 .. | .hfma2 .. | .fsqrt .. | .frcp .. | .frsq .. | .fex2 .. | .flg2 .. | .fsin ..
  | .fcos .. | .hsqrt2 .. | .hrcp2 .. => decide (k < 3)
  | .redx _ _ _ o =>
    match o with | .add | .min | .max => k == 0 | .fadd => k == 0 || k == 2 | _ => false
  | _ => false

/-- Units that are release operations (R258, R259). -/
def Instr.releases : Instr → Bool
  | .hres .. => false
  | .spawn .. | .freeze .. | .stamp .. | .pxpush .. | .launch .. => true
  | i => i.isHob

/-- AWAIT, which completes on its met mark and clears it (R112). -/
def Instr.isAwait : Instr → Bool
  | .awaitG .. | .awaitSt .. | .awaitPr .. => true
  | _ => false

/-- The reads that consume poison: all but TAGRD's (R121, R334). -/
def Instr.consumed : Instr → List Rd
  | .tagrd .. => []
  | i => i.srcs

/-- Whether an ax field is read or written (R19, R305). -/
def Instr.usesAx (i : Instr) : Bool :=
  (i.srcs.any fun r => match r with | .f (.ax _) _ => true | _ => false) ||
  (i.dsts.any fun r => match r with | .f (.ax _) _ => true | _ => false)

/-- Units at which a thread with a deferred access stops whatever registers they name (R305). -/
def Instr.stopsDeferred (i : Instr) : Bool :=
  i.isMem || i.isHob || i.isArr || i.isE || i.usesAx || i.isSysEffect

/-- The element that MOVX reads or STX writes (R152). -/
def Instr.elem (i : Instr) : Option (Bool × BitVec 2) :=
  match i with | .movx _ n k _ _ | .stx n k _ _ _ => some (n, k) | _ => none

/-- Block transfers (R149). -/
def Instr.isBlk (i : Instr) : Bool := match i with | .ldm .. | .stm .. => true | _ => false

/-- Units that take more than one step of the agent for their object: a thread can stand between two of them (R162, R200). -/
def Instr.stepped (i : Instr) : Bool := match i with | .hrun .. | .pxpush .. | .launch .. => true | _ => false

/-- Units that read or write scratchpad by address, or that end the thread or take it away: a load still pending into an ax
element, a write to the scratchpad in its thread's program order, comes before them (R251, R271). -/
def Instr.afterAx (i : Instr) : Bool :=
  i.elem.isSome ||
  match i with
  | .ldg _ _ a .. => match a with | .ax _ => true | _ => false
  | .lds .. | .sts .. | .atoms .. | .hev .. | .hst .. | .wld .. | .mma .. | .mmaReg .. | .mmaz .. | .mmazReg .. | .accst ..
  | .accstReg .. | .accld .. | .accldReg .. | .qnt .. | .cpy .. | .cpyg .. | .garm .. | .gadd .. | .gtst .. | .prclr ..
  | .prclrOwn .. | .prclrRel .. | .send .. | .rarm .. | .rack .. | .next .. | .fabw .. | .awaitG .. | .awaitSt ..
  | .awaitPr .. | .exit .. | .stamp .. | .migr .. => true
  | .ldm _ _ _ _ sp _ | .stm _ _ _ _ sp _ | .hld _ _ _ sp => sp
  | i => i.usesAx

/-- The registers that a unit writes as it completes: not those of a load, whose data come later (R143, R353). -/
def Instr.written (i : Instr) : List Wr := match i with | .ldg .. | .lds .. | .ldm .. => [] | i => i.dsts

/-- Units that access memory of either space, or helped objects (R253). -/
def Instr.accesses (i : Instr) : Bool := i.isMem || i.isHob || i.isE || i.usesAx || i.elem.isSome

/-- Units whose own conditions come between those of R31 and their ax elements (R169). -/
def Instr.ordersAx (i : Instr) : Bool := i.isMem || i.isHob || i.elem.isSome

/-- The largest k of the latches bk a unit reads (R18); 0 when it reads none. -/
def Instr.maxLatch (i : Instr) : Nat :=
  i.srcs.foldl (fun m r => match r with | .f (.b k) _ => max m (k.toNat + 1) | _ => m) 0

/-- The latches bk a unit reads, k counted from 1. -/
def Instr.latches (i : Instr) : List Nat :=
  i.srcs.filterMap fun r => match r with | .f (.b k) _ => some (k.toNat + 1) | _ => none

end Sys2Proof
end

