-- ==== Sys2Proof/Machine/Flags.lean ====
section
/-! DEFINITION. Predicates and guards (R8, R22), width tags (R23) and the conditions of integer compares
(R101). -/

namespace Sys2Proof.Machine

/-- p[k]: p7 reads as true (R22). -/
def predGet (ps : BitVec 7) (k : BitVec 3) : Bool :=
  if k = 7 then true else ps.getLsbD k.toNat

/-- p[k] := v: a write to p7 is discarded (R22). -/
def predSet (ps : BitVec 7) (k : BitVec 3) (v : Bool) : BitVec 7 :=
  if k = 7 then ps
  else if v then ps ||| (1#7 <<< k.toNat) else ps &&& ~~~(1#7 <<< k.toNat)

/-- Whether a guard lets the instruction execute (R22). -/
def guardHolds (ps : BitVec 7) (g : Guard) : Bool := predGet ps g.p != g.neg

/-- p[pt] := t; p[pf] := NOT t (R101). -/
def predPair (ps : BitVec 7) (pt pf : BitVec 3) (t : Bool) : BitVec 7 :=
  predSet (predSet ps pt t) pf (!t)

/-- The width tag of a value (R23): the first code whose condition holds. -/
def widthTag (v : Word) : BitVec 2 :=
  if v.toNat < 2 ^ 8 then 0b11
  else if v.toNat < 2 ^ 16 then 0b01
  else if v.toNat ≥ 2 ^ 32 - 2 ^ 15 then 0b10
  else 0b00

/-- The condition of CMP and CMPI on n-bit patterns (R101). -/
def intCond (n : Nat) (unsigned : Bool) (cc : Cc) (x y : Nat) : Bool :=
  match cc with
  | .eq => x == y
  | .lt => readInt n unsigned x < readInt n unsigned y
  | .le => readInt n unsigned x ≤ readInt n unsigned y
  | .tst => Nat.land x y != 0

/-- The predicate word of P2W (R100): bits 6:0 the predicates, bit 7 set. -/
def predWord (ps : BitVec 7) : Word := BitVec.ofNat 32 (ps.toNat + 128)

end Sys2Proof.Machine
end

