-- ==== Sys2Proof/Machine/Tbl.lean ====
section
/-! DEFINITION. Sparse tables, and the byte stores (memory, scratchpad) in their canonical form: addresses
strictly rising, no entry equal to 0, which an unlisted address reads as (notes/assumptions/3). -/

namespace Sys2Proof.Machine

/-- The entry numbered k. -/
def tget? {α : Type} : Tbl α → Nat → Option α
  | [], _ => none
  | (i, v) :: t, k => if i = k then some v else tget? t k

/-- The entry numbered k, or what an unlisted one holds. -/
def tget {α : Type} (d : α) (t : Tbl α) (k : Nat) : α := (tget? t k).getD d

/-- Writes entry k. -/
def tset {α : Type} : Tbl α → Nat → α → Tbl α
  | [], k, v => [(k, v)]
  | (i, w) :: t, k, v =>
    if i = k then (k, v) :: t
    else if k < i then (k, v) :: (i, w) :: t
    else (i, w) :: tset t k v

/-- Removes entry k. -/
def tdel {α : Type} (t : Tbl α) (k : Nat) : Tbl α := t.filter fun e => e.1 != k

/-- Changes entry k where it is listed. -/
def tmod {α : Type} (t : Tbl α) (k : Nat) (f : α → α) : Tbl α :=
  match tget? t k with
  | some v => tset t k (f v)
  | none => t

/-- The lowest number that is not listed, from n upward, trying at most fuel numbers. -/
def tfree {α : Type} (t : Tbl α) : Nat → Nat → Nat
  | 0, n => n
  | fuel + 1, n => if (tget? t n).isSome then tfree t fuel (n + 1) else n

/-- The byte at address a of a byte store. -/
def cellGet : List Host.Cell → Nat → Byte
  | [], _ => 0
  | (i, b) :: m, a => if i = a then b else if a < i then 0 else cellGet m a

/-- Writes one byte, keeping the canonical form. -/
def cellSet : List Host.Cell → Nat → Byte → List Host.Cell
  | [], a, b => if b = 0 then [] else [(a, b)]
  | (i, c) :: m, a, b =>
    if i < a then (i, c) :: cellSet m a b
    else if i = a then (if b = 0 then m else (a, b) :: m)
    else if b = 0 then (i, c) :: m
    else (a, b) :: (i, c) :: m

/-- The n bytes from address a upward. -/
def cellsRead (m : List Host.Cell) : Nat → Nat → List Byte
  | _, 0 => []
  | a, n + 1 => cellGet m a :: cellsRead m (a + 1) n

/-- Writes bytes from address a upward. -/
def cellsWrite (m : List Host.Cell) : Nat → List Byte → List Host.Cell
  | _, [] => m
  | a, b :: bs => cellsWrite (cellSet m a b) (a + 1) bs

/-- The canonical form of a byte store. -/
def Memory.wf : List Host.Cell → Bool
  | [] => true
  | [(_, b)] => b != 0
  | (i, b) :: (j, c) :: m => b != 0 && decide (i < j) && Memory.wf ((j, c) :: m)

/-- An unsigned little-endian field of n bytes at byte offset o of a list of bytes. -/
def fieldAt (bs : List Byte) (o n : Nat) : Nat := ofBytes ((bs.drop o).take n)

end Sys2Proof.Machine
end

