-- ==== Sys2Proof/Machine/Ops.lean ====
section
/-! DEFINITION. The named operations over the parts of the state, registers and physical memory; fault
records (R308..R310); ending a thread; taking a trap or fault (R113) and returning from one (R116). -/

namespace Sys2Proof.Machine

/-! ### The parts of the state -/

def State.core (s : State) (c : Nat) : Core := tget Core.reset s.cores c
def State.setCore (s : State) (c : Nat) (k : Core) : State := { s with cores := tset s.cores c k }
def State.modCore (s : State) (c : Nat) (f : Core → Core) : State := s.setCore c (f (s.core c))

def State.die (s : State) (d : Nat) : Die := tget Die.reset s.dies d
def State.setDie (s : State) (d : Nat) (k : Die) : State := { s with dies := tset s.dies d k }

def State.ten (s : State) (t : Nat) : Tenancy := tget Tenancy.reset s.tens t
def State.setTen (s : State) (t : Nat) (k : Tenancy) : State := { s with tens := tset s.tens t k }
def State.modTen (s : State) (t : Nat) (f : Tenancy → Tenancy) : State := s.setTen t (f (s.ten t))

def State.modNode (s : State) (n : Nat) (f : Node → Node) : State := { s with nodes := tmod s.nodes n f }

def Core.part (k : Core) (p : Nat) : Part :=
  match p with | 0 => k.p0 | 1 => k.p1 | 2 => k.p2 | _ => k.p3

def Core.setPart (k : Core) (p : Nat) (v : Part) : Core :=
  match p with
  | 0 => { k with p0 := v } | 1 => { k with p1 := v } | 2 => { k with p2 := v } | _ => { k with p3 := v }

def State.part (s : State) (c p : Nat) : Part := (s.core c).part p
def State.modPart (s : State) (c p : Nat) (f : Part → Part) : State :=
  s.modCore c fun k => k.setPart p (f (k.part p))

/-- Partition, lane and slot of a position (R209). -/
def posPart (t : Nat) : Nat := t / 1024
def posLane (t : Nat) : Nat := t % 32
def posSlot (t : Nat) : Nat := t / 32 % 32
def posOf (p slot lane : Nat) : Nat := p * 1024 + slot * 32 + lane

def Core.thr? (k : Core) (t : Nat) : Option Thread := tget? k.threads t
def State.thr? (s : State) (c t : Nat) : Option Thread := (s.core c).thr? t
def Core.setThr (k : Core) (t : Nat) (th : Thread) : Core := { k with threads := tset k.threads t th }
def Core.modThr (k : Core) (t : Nat) (f : Thread → Thread) : Core := { k with threads := tmod k.threads t f }
def State.setThr (s : State) (c t : Nat) (th : Thread) : State := s.modCore c (·.setThr t th)
def State.modThr (s : State) (c t : Nat) (f : Thread → Thread) : State := s.modCore c (·.modThr t f)

/-- Die and cascade of a core (R26: die x 24 + enabled-core index; cascades of 8 cores). -/
def dieOf (c : Nat) : Nat := c / 24
def cascadeOf (c : Nat) : Nat := c / 8

/-- Whether the cascade of a core belongs to the tenancy of its context: a cascade that belongs to none runs nothing
(R293). -/
def State.coreOwned (s : State) (c : Nat) : Bool :=
  (s.core c).ctx.any fun x => bitOf (s.ten x.ten).ctl.toNat (cascadeOf c)

/-- The tenancy of the context on a core. -/
def Core.tenancy (k : Core) : Nat := match k.ctx with | some x => x.ten | none => 0

/-- The node of the context on a core. -/
def State.nodeOf (s : State) (c : Nat) : Option Node :=
  match (s.core c).ctx with | some x => tget? s.nodes x.node | none => none

def State.nodeNum (s : State) (c : Nat) : Nat :=
  match (s.core c).ctx with | some x => x.node | none => 0

/-- Whether a node's launch record has REPLAYABLE (bit 0), OVERLAP (1), NOFREEZE (2) set (R282). -/
def Node.flag (n : Node) (k : Nat) : Bool := bitOf n.flags k

def State.replayable (s : State) (c : Nat) : Bool := (s.nodeOf c).any (·.flag 0)

/-! ### Registers -/

/-- What an unwritten entry of an allocation holds. -/
def Base.ent (b : Base) (i : Nat) : Ent :=
  match b with
  | .zero => .own 0
  | .free seed => .own (Config.freeWord seed i)
  | .ref n => .ref n

def Window.ent (w : Window) (i : Nat) : Ent := tget (w.base.ent i) w.ents i

/-- The value and poison of an entry: its own, or the nearest enclosing template's (R24, R225). -/
def entValue (p : Part) : Nat → Window → Nat → Word × Bool
  | 0, _, _ => (0, false)
  | fuel + 1, w, i =>
    match w.ent i with
    | .own v => (v, false)
    | .poisoned v => (v, true)
    | .ref n =>
      match tget? p.tmpls n with
      | some t => entValue p fuel t.win i
      | none => (0, false)

/-- Template levels in force at once, and the thread itself (R224). -/
def entDepth : Nat := 4

/-- The value of allocation entry i of a thread (R17, R24). -/
def Core.entry (k : Core) (t i : Nat) : Word × Bool :=
  match k.thr? t with
  | some th => entValue (k.part (posPart t)) entDepth th.win i
  | none => (0, false)

/-- The value of window register w_k of a thread (R17): allocation entry $wbase + k. -/
def State.reg (s : State) (c t r : Nat) : Word :=
  match s.thr? c t with
  | some th => ((s.core c).entry t (th.win.wbase + r)).1
  | none => 0

def Window.setEnt (w : Window) (i : Nat) (v : Word) : Window := { w with ents := tset w.ents i (.own v) }

/-- Entry i of a window rewritten, poisoned or not (R334). -/
def Window.rewrite (w : Window) (i : Nat) (v : Nat) (poisoned : Bool) : Window :=
  { w with ents := tset w.ents i (if poisoned then .poisoned (.ofNat 32 v) else .own (.ofNat 32 v)) }

/-- Writes allocation entry i: the entry is private from then on (R24). -/
def State.setEnt (s : State) (c t i : Nat) (v : Word) : State :=
  s.modThr c t fun th => { th with win := th.win.setEnt i v }

/-- Writes window register w_r (R17). -/
def State.setReg (s : State) (c t r : Nat) (v : Word) : State :=
  s.modThr c t fun th => { th with win := th.win.setEnt (th.win.wbase + r) v }

/-- Whether an entry is private to its window (R24). -/
def Window.isOwn (w : Window) (i : Nat) : Bool :=
  match w.ent i with | .ref _ => false | _ => true

/-- The number of private entries among the first n. -/
def Window.owned (w : Window) : Nat → Nat
  | 0 => 0
  | n + 1 => (if w.isOwn n then 1 else 0) + w.owned n

/-- Private entries of a window: all of it when nothing is shared (R210). -/
def Window.held (w : Window) : Nat :=
  match w.base with
  | .ref _ => (w.ents.filter fun e => decide (e.1 < w.alloc) && match e.2 with | .ref _ => false | _ => true).length
  | _ => w.alloc - (w.ents.filter fun e => decide (e.1 < w.alloc) && match e.2 with | .ref _ => true | _ => false).length

def sumBy {α : Type} (f : α → Nat) (l : List α) : Nat := l.foldl (fun n a => n + f a) 0

/-- Entries that templates hold in a lane (R223): the whole window at level 0, the freezing thread's private
entries above it; none where they are evicted (R228). -/
def Part.tmplHeld (p : Part) (lane : Nat) : Nat :=
  sumBy (fun e => if e.2.evicted.contains lane then 0 else e.2.win.held) p.tmpls

/-- Free entries of a lane (R210): 2,048 less those of templates, threads, reserved bin positions and
allocations that outlive their thread. -/
def Core.freeEnts (k : Core) (p lane : Nat) : Nat :=
  Config.laneEntries
    - ((k.part p).tmplHeld lane
      + sumBy (fun e => if posPart e.1 = p ∧ posLane e.1 = lane ∧ ¬ e.2.saved then e.2.win.held else 0)
          k.threads
      + sumBy (fun g => if g.part = p ∧ g.lane = lane then g.n else 0) k.ghosts
      + sumBy (fun g => if g.lane = p * 32 + lane then g.n else 0) k.grants)

/-- A free slot of a lane: the lowest (R209). -/
def Core.freeSlot (k : Core) (p lane : Nat) : Option Nat :=
  (List.range Config.slots).find? fun sl => (k.thr? (posOf p sl lane)).isNone

/-- The templates a thread shares, innermost first: their numbers (R24, R224). -/
def Part.chain (p : Part) : Nat → Base → List Nat
  | 0, _ => []
  | fuel + 1, .ref n =>
    n :: match tget? p.tmpls n with | some t => p.chain fuel t.win.base | none => []
  | _ + 1, _ => []

/-- Entries of the evicted templates of a chain in a lane (R228). -/
def Part.evictedNeed (p : Part) (lane : Nat) (b : Base) : Nat :=
  sumBy (fun n => match tget? p.tmpls n with
    | some x => if x.evicted.contains lane then x.win.held else 0
    | none => 0) (p.chain entDepth b)

/-- Entries an evicted thread must be granted to run: its own, and those of its templates in its lane (R227, R228). -/
def Core.savedNeed (k : Core) (t : Nat) (th : Thread) : Nat :=
  (if th.saved then th.win.held else 0) + (k.part (posPart t)).evictedNeed (posLane t) th.win.base

/-- A waiter of a lane (R226): a thread, or a template whose stamping waits for its restoration (R228). -/
structure Claim where
  age  : Nat
  pos  : Nat                     -- position + 1; 0 for a template
  need : Nat
  tmpl : Option Nat
deriving DecidableEq, Repr

/-- The least element of a list under a strict order; the first of equals. -/
def leastBy {α : Type} (lt : α → α → Bool) : List α → Option α
  | [] => none
  | a :: l => match leastBy lt l with
    | none => some a
    | some b => if lt b a then some b else some a

/-- Whether a waiter is older (R209). -/
def Claim.older (a b : Claim) : Bool := decide (a.age < b.age) || (a.age == b.age && decide (a.pos < b.pos))

/-- Whether a thread is parked for registers and not granted yet. -/
def Thread.waitsRegs (th : Thread) : Bool :=
  th.st == .parked && th.wait.reason == 3 && !(th.wait.halted && th.wait.met && !th.wait.evicted)

/-- The needs of a FREEZE waiter by lane: those of its template, and what an eviction took from the thread (R226). -/
def Core.frzNeeds (k : Core) (t : Nat) (th : Thread) (ls : List (Nat × Nat)) : List (Nat × Nat) :=
  let own := posPart t * 32 + posLane t
  let n := k.savedNeed t th
  if n = 0 then ls
  else if ls.any (·.1 == own) then ls.map fun e => if e.1 = own then (own, e.2 + n) else e
  else (own, n) :: ls

/-- What a thread waits for in a lane (R226). -/
def Core.claimOf (k : Core) (p lane t : Nat) (th : Thread) : Option Claim :=
  if !th.waitsRegs then none
  else
    match th.frz with
    | some ls =>
      ((k.frzNeeds t th ls).find? (·.1 == p * 32 + lane)).map fun e =>
        { age := th.age, pos := t + 1, need := e.2, tmpl := none }
    | none =>
      if posPart t = p ∧ posLane t = lane then
        some { age := th.age, pos := t + 1, need := th.need + k.savedNeed t th, tmpl := none }
      else none

/-- Where a template's next item is placed: partition and lane (R192, R222); none when all are stamped. -/
def Template.nextPlace (t : Template) (p : Nat) : Option (Nat × Nat) :=
  if t.total ≤ t.next then none
  else if t.level = 0 then some (t.next / 32 % 4, t.next % 32)
  else some (p, t.next % 32)

/-- The waiters of a lane (R226, R228). -/
def Core.claims (k : Core) (p lane : Nat) : List Claim :=
  let q := k.part p
  let ts := q.tmpls.filterMap fun e =>
    let need := q.evictedNeed lane (.ref e.1)
    if e.2.nextPlace p = some (p, lane) ∧ need ≠ 0 ∧ (k.freeSlot p lane).isSome then
      some { age := e.2.frozen, pos := 0, need, tmpl := some e.1 }
    else none
  ts ++ k.threads.filterMap fun e => k.claimOf p lane e.1 e.2

/-- Whether an older thread of the lane waits for registers (R107, R120). -/
def Core.olderWaiter (k : Core) (t : Nat) (th : Thread) : Bool :=
  (k.claims (posPart t) (posLane t)).any fun c => c.older { age := th.age, pos := t + 1, need := 0, tmpl := none }

/-- The item index at the thread's innermost level (R20). -/
def Thread.it (th : Thread) : Word :=
  if th.item2 ≠ 0xFFFFFFFF then th.item2 else if th.item1 ≠ 0xFFFFFFFF then th.item1 else th.item0

/-! ### Physical memory (R301, R335..R337) -/

/-- The data-column value of data bit j of a sector (R335): the (j + 1)-th number from 3 upward that is not a
power of two. -/
def eccColumn (j : Nat) : Nat :=
  let rec go : Nat → Nat → Nat → Nat
    | 0, n, _ => n
    | fuel + 1, n, k =>
      if 2 ^ Nat.log2 n = n then go fuel (n + 1) k else if k = 0 then n else go fuel (n + 1) (k - 1)
  go 300 3 j

/-- The data bit of a column value. -/
def eccBit (v : Nat) : Option Nat := (List.range 256).find? fun j => eccColumn j == v

/-- What the syndrome and parity of a sector say (R336). -/
inductive Ecc where
  | clean
  | check
  | data (j : Nat)
  | bad
deriving DecidableEq, Repr

/-- Decodes the difference between a sector's stored and computed check bits (R336). -/
def eccDecode (delta : BitVec 10) : Ecc :=
  let s := delta.toNat % 512
  let q := popcount 10 delta.toNat % 2
  if q = 0 then (if s = 0 then .clean else .bad)
  else if s = 0 ∨ 2 ^ Nat.log2 s = s then .check
  else match eccBit s with | some j => .data j | none => .bad

/-- ce and ue counts of a stack (R345), saturating. -/
def State.countStack (s : State) (sec : Nat) (ue : Bool) : State :=
  let pa := sec * 32
  let stk := 2 * (pa / 2 ^ 37 % 8) + pa / 256 % 2
  let w := (tget 0 s.erstk stk).toNat
  let ce := w / 2 ^ 16
  let u := w / 256 % 256
  let ce' := if ue then ce else min 0xFFFF (ce + 1)
  let u' := if ue then min 0xFF (u + 1) else u
  let s := { s with erstk := tset s.erstk stk (BitVec.ofNat 32 (ce' * 2 ^ 16 + u' * 256)) }
  if ue then { s with ersadr := tset s.ersadr stk (BitVec.ofNat 64 pa) } else s

/-- A read of a sector by its controller: corrects it, or marks it with the poison marker (R336). -/
def State.sectorRead (s : State) (sec : Nat) : State :=
  match tget? s.check sec with
  | none => s
  | some d =>
    match eccDecode d with
    | .clean => { s with check := tdel s.check sec }
    | .check => { s with check := tdel s.check sec }.countStack sec false
    | .data j =>
      let a := sec * 32 + j / 8
      let b := cellGet s.mem a
      { s with check := tdel s.check sec, mem := cellSet s.mem a (b ^^^ (1#8 <<< (j % 8))) }.countStack sec false
    | .bad =>
      if s.poison.contains sec then s
      else { s with poison := sec :: s.poison, check := tset s.check sec 0x3FF }.countStack sec true

/-- Sectors that n bytes at pa touch. -/
def sectorsOf (pa n : Nat) : List Nat := (List.range ((pa + n - 1) / 32 + 1 - pa / 32)).map (pa / 32 + ·)

/-- Sectors that a write of n bytes at pa covers whole (R337). -/
def coveredSectors (pa n : Nat) : List Nat :=
  (sectorsOf pa n).filter fun k => decide (pa ≤ k * 32) && decide (k * 32 + 32 ≤ pa + n)

/-- A fill of n bytes from the stacks. -/
def State.fillSectors (s : State) (pa n : Nat) : State :=
  if s.check = [] then s else (sectorsOf pa n).foldl State.sectorRead s

/-- Whether any of n bytes at pa lies in a poisoned sector (R337). -/
def State.poisonedAt (s : State) (pa n : Nat) : Bool := (sectorsOf pa n).any s.poison.contains

/-- Memory as its controllers give it: every sector with a difference in its check bits corrected (R336). -/
def State.cleanMem (s : State) : List Host.Cell :=
  if s.check.isEmpty then s.mem else (s.check.foldl (fun s e => s.sectorRead e.1) s).mem

/-- Home bytes of memory. -/
def State.memRead (s : State) (pa n : Nat) : List Byte := cellsRead s.cleanMem pa n

/-- A scheduler is signalled (R375). -/
def State.signal (s : State) (ten : Nat) : State :=
  if s.signals.contains ten then s else { s with signals := ten :: s.signals }

/-- A queue that a refusal keeps from being considered. -/
def QueueHold.isRefused (h : QueueHold) : Bool := match h with | .refused => true | _ => false

/-- A write of n bytes at pa to a queue table: its scheduler considers its queues, the written entries' refused ones
and a refused table (hold 64) too (R374, R375). -/
def State.noteTable (s : State) (pa n : Nat) : State :=
  s.qwatch.foldl (fun s w =>
    let (line, ten, e0) := w
    let lo := max pa (line * 128)
    let hi := min (pa + n) (line * 128 + 128)
    if hi ≤ lo then s
    else
      let hit (e : Nat) : Bool :=
        decide (e0 + (lo - line * 128) / 16 ≤ e) && decide (e ≤ e0 + (hi - 1 - line * 128) / 16)
      (s.modTen ten fun x => { x with qholds := x.qholds.filter fun q => !((hit q.1 || q.1 == 64) && q.2.isRefused) }).signal ten) s

/-- Whether a line is local to a core: the slice of its die that serves it is the core's own cascade's (R256, R262). -/
def localLine (c line : Nat) : Bool := cascadeOf c == 3 * dieOf c + line % 3

/-- Before die d's slice applies a write of n bytes at pa, it invalidates the copies that L1s hold of its local lines
(R257). -/
def State.snoop (s : State) (d pa n : Nat) : State :=
  let hit (c line : Nat) : Bool :=
    dieOf c == d && localLine c line && decide (pa / 128 ≤ line) && decide (line ≤ (pa + n - 1) / 128)
  let one (e : Nat × Core) : Nat × Core :=
    if e.2.l1.isEmpty then e else (e.1, { e.2 with l1 := e.2.l1.filter fun l => !hit e.1 l.1 })
  if s.cores.any fun e => !e.2.l1.isEmpty then { s with cores := s.cores.map one } else s

/-- The die whose stacks hold a physical address (R262, R301). -/
def homeDie (pa : Nat) : Nat := pa / 2 ^ 37 % 8

/-- Writes home bytes: a write that covers a sector whole clears its poison (R337); a sector that it covers in part is read,
and corrected, first (R336). -/
def State.memWrite (s : State) (pa : Nat) (bytes : List Byte) : State :=
  let n := bytes.length
  let full := coveredSectors pa n
  let s := if s.check = [] then s else ((sectorsOf pa n).filter (!full.contains ·)).foldl State.sectorRead s
  let s : State := { s.snoop (homeDie pa) pa n with mem := cellsWrite s.mem pa bytes }
  let s := if s.qwatch.isEmpty then s else s.noteTable pa n
  if s.poison = [] ∧ s.check = [] then s
  else
    { s with poison := s.poison.filter fun k => !full.contains k
             check := s.check.filter fun e => !full.contains e.1 }

/-- A write by the device through a firmware base register. Above 2^40 there is no memory (R301). -/
def State.physWrite (s : State) (pa : Nat) (bytes : List Byte) : State :=
  if Config.memBytes < pa + bytes.length then { s with bad := some pa } else s.memWrite pa bytes

/-- A write of n bytes of 0 by the device through a firmware base register; pa and n are multiples of a sector's size. -/
def State.physZero (s : State) (pa n : Nat) : State :=
  if Config.memBytes < pa + n then { s with bad := some pa }
  else
    let out (a : Nat) : Bool := decide (a < pa) || decide (pa + n ≤ a)
    let s : State := s.snoop (homeDie pa) pa n
    { s.noteTable pa n with
      mem := s.mem.filter fun e => out e.1
      poison := s.poison.filter fun k => out (k * 32)
      check := s.check.filter fun e => out (e.1 * 32) }

def State.physRead (s : State) (pa n : Nat) : List Byte := s.memRead pa n

/-! ### The weir (R296..R298) and the counters (R352, R353) -/

/-- Whether a period has begun since the last boundary (R298). -/
def State.periodDue (s : State) (ten : Nat) : Bool :=
  let x := s.ten ten
  let p := x.wrper.toNat
  p != 0 && s.time.toNat / p != x.wrAt / p

/-- The use of an activity in the period that holds $time (R298): nothing is carried over its boundary. -/
def State.usedOf (s : State) (t k : Nat) : Nat := if s.periodDue t then 0 else tget 0 (s.ten t).used k

/-- Adds n to the use of an activity; the first charge of a period begins its WRUSE registers at 0. -/
def State.addUse (s : State) (t k n : Nat) : State :=
  let add (u : Tbl Nat) : Tbl Nat := tset u k ((tget 0 u k + n) % 2 ^ 64)
  if s.periodDue t then s.modTen t fun x => { x with used := add [], wrAt := s.time.toNat }
  else s.modTen t fun x => { x with used := add x.used }

/-- Whether the weir holds activity k of a tenancy (R298): used >= budget; all ones is unlimited. -/
def State.weirHolds (s : State) (t k : Nat) : Bool :=
  match tget? (s.ten t).budgets k with
  | none => false
  | some b => decide (b ≤ s.usedOf t k)

/-- Charges n to activity k of a tenancy. -/
def State.charge (s : State) (t k n : Nat) : State :=
  if n = 0 then s else s.addUse t k n

/-- What the fabric carries (R318): bulk traffic with its class. -/
inductive Traffic where
  | migr | credit | sweep | ptp | helped | ack
  | bulk (cls : Nat)
  | host | sample | tile
deriving DecidableEq, Repr

/-- The class that carries it (R318). -/
def Traffic.cls (x : Traffic) : Nat :=
  match x with
  | .migr | .credit | .sweep | .ptp => 0
  | .helped | .ack => 1
  | .bulk c => c
  | .host => 2
  | .sample => 6
  | .tile => 7

/-- The weir's activity of a traffic class: its group (R296, R318). -/
def groupOf (cls : Nat) : Nat := if cls ≤ 1 then 1 else if cls ≤ 5 then 2 else 3

/-- Whether the weir holds a tenancy's traffic (R296). -/
def State.trafficHeld (s : State) (ten : Nat) (x : Traffic) : Bool := s.weirHolds ten (groupOf x.cls)

/-- A tenancy sends n bytes (R296). -/
def State.sendBytes (s : State) (ten : Nat) (x : Traffic) (n : Nat) : State := s.charge ten (groupOf x.cls) n

/-- A tenancy sends a control message; its size is a constant of the device (notes/assumptions/59). -/
def State.sendControl (s : State) (ten : Nat) (x : Traffic) : State :=
  let kind := match x with | .migr => 0 | .credit => 1 | .sweep => 2 | .helped => 3 | _ => 4
  s.addUse ten (groupOf x.cls) (Config.messageBytes kind)

/-- Counts an event of a partition when it is being counted (R352). -/
def State.bump (s : State) (c p e n : Nat) : State :=
  if (s.part c p).counting.contains e then
    s.modPart c p fun q =>
      let (v, a) := tget (0, 0) q.counts e
      { q with counts := tset q.counts e ((v + n) % 2 ^ 48, a) }
  else s

/-- Bytes of a register that a read or write of a value does not access because of its width tag (R23). -/
def skipBytes (v : Word) : Nat :=
  match (widthTag v).toNat with | 0 => 0 | 3 => 3 | _ => 2

/-- Counts registers that are read or written with values (R353 event 44). -/
def State.countTags (s : State) (c p : Nat) (vs : List Word) : State := s.bump c p 44 (sumBy skipBytes vs)

/-- A further free value. -/
def State.draw (s : State) : Nat × State := (s.fresh, { s with fresh := s.fresh + 1 })

/-! ### Fault records (R308..R310), notifications (R344) -/

/-- The 64 bytes of a fault record (R308). -/
def Rec.bytes (r : Rec) : List Byte :=
  toBytes 1 r.cls ++ toBytes 1 r.kind ++ toBytes 1 r.status ++ toBytes 1 0 ++ toBytes 4 r.token.toNat
    ++ toBytes 8 r.time ++ toBytes 4 r.rpc.toNat ++ toBytes 4 r.ipc.toNat ++ toBytes 4 r.inst.toNat
    ++ toBytes 4 r.thread.toNat ++ toBytes 2 r.core ++ toBytes 2 0
    ++ (((r.info ++ [0, 0, 0, 0]).take 4).map fun (w : Word) => toBytes 4 w.toNat).flatten
    ++ toBytes 8 r.va ++ toBytes 4 0

/-- The next sequence number of a tenancy, never 0 (R308, R310). -/
def nextToken (n : Nat) : Nat := if (n + 1) % 2 ^ 32 = 0 then 1 else (n + 1) % 2 ^ 32

/-- Records the ring still has room for (R310). -/
def Tenancy.ringRoom (x : Tenancy) : Bool :=
  x.frEn && decide ((x.frTail.toNat + 2 ^ 16 - x.frHead.toNat) % 2 ^ 16 < 2 ^ x.frLsz.toNat)

/-- Writes one record at the ring's tail (R310). -/
def State.ringPut (s : State) (t : Nat) (r : Rec) : State :=
  let x := s.ten t
  let pa := x.frb.toNat + 64 * (x.frTail.toNat % 2 ^ x.frLsz.toNat)
  (s.physWrite pa r.bytes).modTen t fun x => { x with frTail := x.frTail + 1 }

/-- Class 2 kinds 1 and 2: held, never dropped (R310). -/
def Rec.holds (r : Rec) : Bool := r.cls == 2 && (r.kind == 1 || r.kind == 2)

/-- Makes a record: takes its token, then writes, holds or drops it (R310). Answers the token. -/
def State.sendRec (s : State) (t : Nat) (r : Rec) : Word × State :=
  let x := s.ten t
  let tok := nextToken x.token
  let r := { r with token := BitVec.ofNat 32 tok, time := s.time.toNat }
  let s := s.modTen t fun x => { x with token := tok }
  if x.ringRoom && x.frHeld.isEmpty && x.frOver.isNone then (r.token, s.ringPut t r)
  else if r.holds then (r.token, s.modTen t fun x => { x with frHeld := x.frHeld ++ [r] })
  else
    let s := s.modTen t fun x => { x with frLost := if x.frLost = 0xFFFF then 0xFFFF else x.frLost + 1 }
    if x.frOver.isSome then (r.token, s)
    else
      let tok2 := nextToken tok
      let o : Rec := { cls := 2, kind := 6, status := 0, token := BitVec.ofNat 32 tok2, time := s.time.toNat,
                       rpc := 0, ipc := 0, inst := 0, thread := 0xFFFFFFFF, core := 0xFFFF, info := [], va := 0 }
      (r.token, s.modTen t fun x => { x with token := tok2, frOver := some o })

/-- Writes held records while the ring has room, in the order they were made (R310). -/
def State.ringDrain (s : State) (t : Nat) : Nat → State
  | 0 => s
  | fuel + 1 =>
    let x := s.ten t
    if !x.ringRoom then s
    else
      match x.frOver, x.frHeld with
      | some o, [] => ((s.modTen t fun x => { x with frOver := none }).ringPut t o).ringDrain t fuel
      | some o, r :: rs =>
        if o.token.toNat < r.token.toNat then
          ((s.modTen t fun x => { x with frOver := none }).ringPut t o).ringDrain t fuel
        else ((s.modTen t fun x => { x with frHeld := rs }).ringPut t r).ringDrain t fuel
      | none, r :: rs => ((s.modTen t fun x => { x with frHeld := rs }).ringPut t r).ringDrain t fuel
      | none, [] => s

/-- Something leaves the device by its fabric ports: a device whose start has halted drives none (R365). -/
def State.drive (s : State) (o : Out) : State := if s.haltedAt = 0 then { s with out := o :: s.out } else s

/-- Notifies the tenancy's error handler of an event bit (R344). -/
def State.notify (s : State) (t bit : Nat) : State :=
  let s := s.modTen t fun x =>
    let n := x.note.toNat
    let cnt := min (2 ^ 32 - 1) (n / 2 ^ 32 + 1)
    let lo := n % 2 ^ 32
    let lo := if bitOf lo bit then lo else lo + 2 ^ bit
    { x with note := BitVec.ofNat 64 (cnt * 2 ^ 32 + lo) }
  s.drive (.interrupt t)

/-- A record with no thread: of an engine or the scheduler (R308). -/
def plainRec (cls kind : Nat) (info : List Word) (va : Nat) : Rec :=
  { cls, kind, status := 0, token := 0, time := 0, rpc := 0, ipc := 0, inst := 0, thread := 0xFFFFFFFF,
    core := 0xFFFF, info, va }

/-- A record of a thread of a core. -/
def thrRec (cls kind status : Nat) (th : Thread) (c t : Nat) (ipc inst : Word) (info : List Word) (va : Nat) : Rec :=
  { cls, kind, status, token := 0, time := 0, rpc := th.head, ipc, inst, thread := BitVec.ofNat 32 t,
    core := c, info, va }

/-! ### Parking, waking, ending -/

/-- Leaves the chain: the thread will resume at its chain head (R85). -/
def Thread.toHead (th : Thread) : Thread :=
  { th with pc := th.head, lats := [], retry := 0, rrChain := 0, prog := none }

/-- A wait entry of a reason (R217). -/
def Wait.of (reason : BitVec 4) (key : BitVec 64) (arg : Word) (akind : BitVec 2) : Wait :=
  { Wait.reset with reason, key, arg, akind }

/-- Whether an entry is an AWAIT's (R112, R234). -/
def Wait.awaits (w : Wait) : Bool := w.reason == 4 || (w.reason == 5 && w.akind == 2)

/-- The mark that a met entry leaves: an AWAIT's own; any other leaves the thread's as it is (R112). -/
def Thread.markOf (th : Thread) (met : Bool) : Option Mark :=
  if met && th.wait.awaits then some { head := th.head, kind := th.wait.akind, key := th.wait.key, arg := th.wait.arg }
  else th.mark

/-- Parks a thread in its own entry of the wait table (R218). -/
def Thread.park (th : Thread) (w : Wait) : Thread := { th.toHead with st := .parked, wait := w }

/-- Parks a thread with HALT: the mark of a met AWAIT stays (R112, R218). -/
def Thread.parkHalt (th : Thread) : Thread :=
  th.park { Wait.of 1 0 0 (match th.mark with | some m => m.kind | none => 0) with met := th.mark.isSome }

/-- The condition of a parked thread's entry is met: the thread wakes at its chain head (R218). met keeps the mark of
an AWAIT (R112). While its partition is halted it wakes at the release; an evicted thread parks again for registers
(R227). -/
def State.wakeThr (s : State) (c t : Nat) (met : Bool) : State :=
  match s.thr? c t with
  | none => s
  | some th =>
    let w := th.wait
    if w.halted then
      if met || !w.awaits then s.setThr c t { th with wait := { w with met := true } } else s
    else if w.evicted then
      let need := (s.core c).savedNeed t th + th.need
      s.setThr c t { th with
        mark := th.markOf met
        wait := { Wait.of 3 0 (BitVec.ofNat 32 need) 0 with evicted := true, met := met, akind := w.akind } }
    else
      s.setThr c t { th with
        st := .ready, readyAt := s.cycle, need := 0, grow := none, copyNew := [], frz := none
        mark := th.markOf met, wait := Wait.reset }

/-- The thread with a uid, and its position. -/
def Core.byUid (k : Core) (uid : Nat) : Option (Nat × Thread) := k.threads.find? fun e => e.2.uid == uid

/-- Whether an engine operation of the thread is outstanding (R25). -/
def Thread.busy (th : Thread) : Bool := th.ocCp + th.ocMx + th.ocGa + th.ocCo != 0

/-- The 64 bytes of a tile record, the time of its writing left 0 (R181). Where nothing was copied or multiplied the
durations are 0; owait is a free value (notes/assumptions/7). -/
def Bracket.bytes (b : Bracket) (core ten seed : Nat) : List Byte :=
  let span (start : Option Nat) (stop : Nat) : List Byte :=
    toBytes 4 (match start with | some t => stop - t | none => 0)
  toBytes 8 b.topen ++ toBytes 8 0 ++ span b.cinAt b.cinEnd ++ toBytes 4 (Config.freeNs seed 0).toNat
    ++ span b.mmaAt b.mmaEnd ++ span b.coutAt b.last ++ toBytes 4 b.bin ++ toBytes 4 b.bout ++ toBytes 4 b.nmma
    ++ toBytes 4 b.units ++ toBytes 4 b.tag.toNat ++ toBytes 2 core ++ toBytes 1 ten ++ toBytes 1 0
    ++ toBytes 4 b.pc.toNat ++ toBytes 4 b.tid

/-- The record of a bracket whose operations have all retired waits to be written. -/
def State.emitTileRec (s : State) (c : Nat) (b : Bracket) : State :=
  let ten := (s.core c).tenancy
  let (seed, s) := s.draw
  { s with
      tileRecs := s.tileRecs ++ [{ ten, node := s.nodeNum c, core := c, va := b.addr, bytes := b.bytes c ten seed
                                   held := none, uid := b.uid, tag := seed }] }

/-- Closes a bracket: its record is written once its operations have retired (R181). -/
def State.closeBracket (s : State) (c : Nat) (b : Bracket) : State :=
  if b.ops.isEmpty then s.emitTileRec c b else s.modCore c fun k => { k with closing := k.closing ++ [b] }

/-- Whether a collective operation counts in $oc.co: a push does once it has returned OK (R200). -/
def Coll.counts (x : Coll) : Bool := match x.op with | .pxpush _ _ _ _ counted => counted | _ => true

/-- A core cleared of its context: what the context does not own stays (R28, R232, R294). -/
def Core.clear (k : Core) : Core :=
  let p (q : Part) : Part :=
    { Part.reset with counts := q.counts, counting := q.counting, rot := q.rot, rotAt := q.rotAt, dbgdump := q.dbgdump
                      smpPos := q.smpPos, smpNext := q.smpNext, nextId := q.nextId }
  { Core.reset with
    crdone := k.crdone, crsave := k.crsave, ercore := k.ercore, skew := k.skew, nextUid := k.nextUid, nextOp := k.nextOp
    ended := k.ended, p0 := p k.p0, p1 := p k.p1, p2 := p k.p2, p3 := p k.p3 }

/-- Every thread of a core ends with status KILLED; engine operations are discarded (R294, R341, R342). -/
def Core.killAll (k : Core) : Core := { k.clear with ended := k.threads.map (fun e => (e.1, 3)) ++ k.ended }

/-- Whether a message belongs to the context on a core: it is lost when the context ends (R198, R202, R229, R294). -/
def Msg.of (m : Msg) (device c : Nat) : Bool :=
  match m with
  | .credit core _ _ => core == c
  | .migr src dst .. => src == c || dst == c
  | .fabw dev core .. => dev == device && core == c
  | _ => false

/-- The NEXT operations of a core whose ADD is still to be applied: it is applied once although their context is gone
(R201, R205). -/
def Core.orphaned (k : Core) (c : Nat) : List (Nat × Nat × Nat × Nat) :=
  k.colls.filterMap fun x =>
    match x.op with
    | .next _ obj _ none key => if x.err.isSome then none else some (k.tenancy, c, key, obj)
    | _ => none

/-- The context on a core ends by force: its threads with KILLED, its engine operations discarded (R294, R341), but for the
ADD of a NEXT (R201). -/
def State.killCore (s : State) (c : Nat) : State :=
  { s.modCore c Core.killAll with
    msgs := s.msgs.filter fun m => !m.of s.device.toNat c
    orphans := s.orphans ++ (s.core c).orphaned c }

/-- Counts a restarted chain that succeeds among the corrected events of ERCORE (R345). -/
def ercoreCorr (w : Word) : Word :=
  if w.toNat % 2 ^ 16 = 0xFFFF then w else w + 1

/-- A chain of a thread comes to its end: a restarted one has succeeded (R332, R345). -/
def Core.countRetry (k : Core) (th : Thread) : Core :=
  if th.retry = 0 then k else { k with ercore := ercoreCorr k.ercore }

/-- Ends a thread with a status (R113, R194): its slot is free at once; its allocation returns when its
counters reach 0; an open bracket closes (R181); an unstamped template is freed (R223). Its loads into ax elements
that are outstanding go on without it (R251, notes/assumptions/64). -/
def State.endThread (s : State) (c t status : Nat) : State :=
  match s.thr? c t with
  | none => s
  | some th =>
    let s := match th.bracket with | some b => s.closeBracket c b | none => s
    s.modCore c fun k =>
      let k := if status = 0 then k.countRetry th else k
      let k := { k with threads := tdel k.threads t, ended := (t, status) :: k.ended
                        grants := k.grants.filter (·.uid != th.uid)
                        axLoads := k.axLoads ++ (th.pend.filter fun p => p.ax.isSome && p.engine != 3).map fun p =>
                          { uid := th.uid, pos := t, pend := p, owing := th.owing }
                        colls := k.colls.filter fun x => x.uid != th.uid || x.counts }
      let k :=
        if th.busy then
          { k with ghosts := { uid := th.uid, part := posPart t, lane := posLane t, n := th.win.held
                               win := th.win, oc := [th.ocCp, th.ocMx, th.ocGa, th.ocCo], owing := th.owing } :: k.ghosts }
        else k
      match th.held with
      | some n => k.setPart (posPart t) { k.part (posPart t) with tmpls := tdel (k.part (posPart t)).tmpls n }
      | none => k

/-- Whether a debug step lets the thread run the rest of its chain (R355). -/
def Part.stepping (p : Part) (uid : Nat) : Bool := match p.step with | some us => us.contains uid | none => false

/-! ### Taking a trap or fault (R113) and returning from it (R116) -/

/-- Taking a trap or fault of a class and kind: the record's fields go into the frame registers and the thread
enters handler mode at $evec; with no handler the thread ends with FAULT, and inside a handler with DOUBLE, and the
record goes to the fault ring (R113). rpc is the restart PC: the chain head, or the next unit for TRAP and BKPT. A chain
that is to restart at its head counts (R85, R353). -/
def State.takeTrap (s : State) (c t cls kind : Nat) (info : List Word) (rpc ipc inst : Word) : State :=
  match s.thr? c t with
  | none => s
  | some th =>
    let ten := (s.core c).tenancy
    if th.handler ∨ th.evec = 0 then
      let status := if th.handler then 2 else 1
      let r := { thrRec cls kind status th c t ipc inst info 0 with rpc := rpc }
      let s := (s.sendRec ten r).2
      let s := if th.handler then s.notify ten 1 else s
      s.endThread c t status
    else
      let th' :=
        { th with
          st := .ready, readyAt := s.cycle, handler := true, epc := rpc
          ecause := BitVec.ofNat 16 (cls * 256 + kind)
          einfo := (info ++ [0, 0, 0, 0]).take 4
          einst := inst, pc := th.evec, head := th.evec, lats := [], retry := 0, rrChain := 0, prog := none
          log := match th.log with | some l => if l.kind = 3 then none else some l | none => none
          pend := th.pend.filter fun p => p.engine != 1 }
      let s := if rpc = th.head then s.bump c (posPart t) 14 1 else s
      s.setThr c t (if (s.part c (posPart t)).stepping th.uid then th'.parkHalt else th')

/-- Returning from a handler: handler mode is left; the unit that calls this sets PC := $epc (R116). -/
def Thread.eret (th : Thread) : Thread := { th with handler := false }

end Sys2Proof.Machine
end

