-- ==== Sys2Proof/Machine/Count.lean ====
section
/-! DEFINITION. The counters' periods: which events a partition counts, and what follows the end of a period (R352, R353). -/

namespace Sys2Proof.Machine

/-- The tenancy a core belongs to: its context's, or the one that owns its cascade. -/
def State.ownerOf (s : State) (c : Nat) : Option Nat :=
  match (s.core c).ctx with
  | some x => some x.ten
  | none => (List.range 16).find? fun t => bitOf (s.ten t).ctl.toNat (cascadeOf c)

/-- Events whose counts follow from cycle-level timing: a free amount in each period (notes/assumptions/7). -/
def timedEvent (e : Nat) : Bool := e == 0 || (decide (4 ≤ e) && decide (e ≤ 13)) || [27, 36, 37, 41].contains e

/-- The events enabled on a core's partitions, in ascending order. -/
def State.eventsOn (s : State) (c : Nat) : List Nat :=
  match s.ownerOf c with
  | none => []
  | some t =>
    let x := s.ten t
    if bitOf x.ctl.toNat 24 then (List.range 45).filter (bitOf x.cev.toNat ·) else []

/-- The events counted next: all when there are 8 or fewer, else the next 8 from number rot upward, cyclically; and the number
after the last of them (R352). -/
def nextEvents (es : List Nat) (rot : Nat) : List Nat × Nat :=
  let now := if es.length ≤ 8 then es else (es.filter (rot ≤ ·) ++ es.filter (· < rot)).take 8
  (now, match now.getLast? with | some e => e + 1 | none => rot)

/-- Whether a counting period of a partition has ended. -/
def State.rotationDue (s : State) (c p : Nat) : Bool :=
  let q := s.part c p
  (!(q.counting.isEmpty) || !(s.eventsOn c).isEmpty) && decide (q.rotAt < s.time.toNat / 1000)

/-- A period of one partition ends: the accumulators advance, and the next events are counted (R352). -/
def State.rotate (s : State) (c p : Nat) : State :=
  let (seed, s) := s.draw
  let es := s.eventsOn c
  s.modPart c p fun q =>
    let counts := q.counting.foldl (fun t e =>
      let (v, a) := tget (0, 0) t e
      tset t e ((v + if timedEvent e then Config.freeCount e seed else 0) % 2 ^ 48, a + 1)) q.counts
    let (counting, rot) := nextEvents es q.rot
    { q with counts, counting, rot, rotAt := if q.counting.isEmpty then s.time.toNat / 1000 else q.rotAt + 1 }

/-- The periods that have ended end before anything else happens in the cycle: what is counted, or read, in it belongs to the
next period (R352, R362). -/
def State.rotateAll (s : State) : State :=
  s.cores.foldl (fun s e => (List.range 4).foldl (fun s p => if s.rotationDue e.1 p then s.rotate e.1 p else s) s) s

/-- COUNTER_ROTATION (R352): the period's end of one partition. -/
def execCounterRotation (core part : Nat) (s : State) : Host.Outcome State Fault Refusal :=
  .next (if s.rotationDue core part then s.rotate core part else s)

end Sys2Proof.Machine
end

