-- ==== Sys2Proof/Decode.lean ====
section
/-! DEFINITION. The decoder of Caerian units (R72..R83, R87) and, after it, the encoder of a
well-formed unit, written from the same encoding tables. -/

namespace Sys2Proof

open Sys2Proof.Machine (bits bitOf b2n)

/-- A source field code (R15). -/
def srcOf (c : Nat) : Src :=
  if c < 120 then .w (BitVec.ofNat 7 c)
  else if c < 124 then .b (BitVec.ofNat 2 (c - 120))
  else if c = 124 then .zr
  else if c = 125 then .it
  else .ax (c == 127)

/-- A destination field code; b1..b4 and it are illegal there (R15). -/
def dstOf (c : Nat) : Option Dst :=
  if c < 120 then some (.w (BitVec.ofNat 7 c))
  else if c = 124 then some .zr
  else if c = 126 then some (.ax false)
  else if c = 127 then some (.ax true)
  else none

/-- A guard field: 0bnppp (R8). -/
def guardOf (n : Nat) : Guard := ⟨bitOf n 3, BitVec.ofNat 3 n⟩

/-- The guard of a format without a g field: p7 (R74). -/
def guardTrue : Guard := ⟨false, 7⟩

/-- A MODE payload (R41). -/
def modeOf (p : BitVec 24) : Mode :=
  let n := p.toNat
  ⟨BitVec.ofNat 3 (n / 2 ^ 21), bitOf n 20, bitOf n 19, bitOf n 18, bitOf n 17, bitOf n 16⟩

def ccOf (n : Nat) : Cc := match n with | 0 => .eq | 1 => .lt | 2 => .le | _ => .tst
def fccOf (n : Nat) : Fcc := match n with | 0 => .eq | 1 => .lt | 2 => .le | _ => .un

/-- The CVT minors (R50). -/
def cvtTable : List Cvt :=
  [.f32i32, .f32n32, .i32f32, .n32f32, .f32f16, .f16f32, .f32bf16, .bf16f32, .f32e4m3, .e4m3f32,
   .f32e5m2, .e5m2f32, .f32e2m1, .e2m1f32, .f32e2m1s, .f32i8, .f32n8, .i8f32, .n8f32, .f32i4, .f32n4,
   .i4f32, .n4f32, .f16x2f32, .bf16x2f32, .f32x2f16x2, .e2m1sf32]

def ldSzOf : Nat → Option LdSz
  | 0 => some .b8 | 1 => some .s8 | 2 => some .b16 | 3 => some .s16 | 4 => some .b32 | 5 => some .b64
  | _ => none

def stSzOf : Nat → Option StSz
  | 0 => some .b8 | 2 => some .b16 | 4 => some .b32 | 5 => some .b64
  | _ => none

def atomOpOf (n : Nat) : AtomOp :=
  match n with
  | 0 => .add | 1 => .and | 2 => .or | 3 => .xor | 4 => .min | 5 => .max | 6 => .exch | _ => .cas

def fenceKindOf : Nat → Option FenceKind
  | 0 => some .full | 1 => some .acq | 2 => some .rel | _ => none

def scopeOf : Nat → Option Scope
  | 0 => some .t | 1 => some .c | 2 => some .s | 3 => some .d | 4 => some .x | 5 => some .f | _ => none

def engClassOf : Nat → Option EngClass
  | 0 => some .cp | 1 => some .mx | 2 => some .ga | 3 => some .co | _ => none

def shflOf (n : Nat) : ShflKind := match n with | 0 => .idx | 1 => .up | 2 => .down | _ => .xor

def redOf : Nat → Option RedOp
  | 0 => some .add | 1 => some .min | 2 => some .max | 3 => some .and | 4 => some .or | 5 => some .xor
  | 6 => some .fadd | _ => none

def tstwSzOf : Nat → Option StSz
  | 0 => some .b8 | 1 => some .b16 | 2 => some .b32 | 3 => some .b64 | _ => none

/-- The prefixes of a unit: at most one payload of each kind (R80, R82). -/
structure Pfx where
  ext  : Option (BitVec 24) := none
  grd  : Option (BitVec 24) := none
  mode : Option (BitVec 24) := none
deriving DecidableEq, Repr

namespace Pfx

def g (p : Pfx) : Option Guard := p.grd.map fun x => guardOf (x.toNat % 16)
def m (p : Pfx) : Option Mode := p.mode.map modeOf
def i (p : Pfx) : Option (BitVec 20) := p.ext.map fun x => BitVec.ofNat 20 x.toNat
def k (p : Pfx) : Option (BitVec 21) := p.ext.map fun x => BitVec.ofNat 21 x.toNat
def e (p : Pfx) : Option Src := p.ext.map fun x => srcOf (x.toNat % 128)

end Pfx

/-- Majors of the three-register instructions with a MODE prefix (R76, R94, R127, R132). -/
def t3Op : Nat → Option (Option Mode → Dst → Src → Src → Guard → Bool → Instr)
  | 0x01 => some .iadd
  | 0x02 => some .isub
  | 0x03 => some .imul
  | 0x04 => some .imulw
  | 0x05 => some .and
  | 0x06 => some .or
  | 0x07 => some .xor
  | 0x08 => some .shl
  | 0x09 => some .shr
  | 0x0A => some .sar
  | 0x0B => some .imin
  | 0x0C => some .imax
  | 0x14 => some .fadd
  | 0x15 => some .fsub
  | 0x16 => some .fmul
  | 0x17 => some .ffma
  | 0x18 => some .ffms
  | 0x19 => some .fmin
  | 0x1A => some .fmax
  | 0x1C => some .hadd2
  | 0x1D => some .hmul2
  | 0x1E => some .hfma2
  | 0x1F => some .hmin2
  | 0x20 => some .hmax2
  | _ => none

/-- UNI minors (R77, R99). -/
def uniOp : Nat → Option (Option Mode → Dst → Src → Guard → Bool → Instr)
  | 0 => some .mov
  | 1 => some .not
  | 2 => some .neg
  | 3 => some .abs
  | 4 => some .popc
  | 5 => some .clz
  | 6 => some .ctz
  | 7 => some .brev
  | 8 => some .sxb
  | 9 => some .sxh
  | 10 => some .zxb
  | 11 => some .zxh
  | 12 => some .bswap
  | _ => none

/-- UNF minors (R77, R130). -/
def unfOp : Nat → Option (Option Mode → Dst → Src → Guard → Bool → Instr)
  | 0 => some .fneg
  | 1 => some .fabs
  | 2 => some .fsqrt
  | 3 => some .frcp
  | 4 => some .frsq
  | 5 => some .fex2
  | 6 => some .flg2
  | 7 => some .fsin
  | 8 => some .fcos
  | 9 => some .fflr
  | 10 => some .fceil
  | 11 => some .ftrnc
  | 12 => some .frint
  | 13 => some .fcls
  | 16 => some .hneg2
  | 17 => some .habs2
  | 18 => some .hsqrt2
  | 19 => some .hrcp2
  | _ => none

/-- The PRED group (R77, R78, R100), Q format. -/
def decodePred (w : Nat) : Option Instr :=
  let pd := BitVec.ofNat 3 (bits w 25 23)
  let pa := BitVec.ofNat 3 (bits w 18 16)
  let pb := BitVec.ofNat 3 (bits w 14 12)
  let na := bitOf w 15
  let nb := bitOf w 11
  let g := guardOf (bits w 4 1)
  let c := bitOf w 0
  if bits w 10 5 ≠ 0 then none else
  match bits w 22 19 with
  | 0 => some (.pand pd pa na pb nb g c)
  | 1 => some (.por pd pa na pb nb g c)
  | 2 => some (.pxor pd pa na pb nb g c)
  | 3 => if bits w 14 11 = 0 then some (.movp pd pa na g c) else none
  | 4 => if bits w 14 11 = 0 ∧ bits w 18 16 = 0 then some (.setp pd na g c) else none
  | 5 => if bits w 25 23 = 0 ∧ bits w 11 11 = 0 then (dstOf (bits w 18 12)).map (.p2w · g c) else none
  | 6 => if bits w 25 23 = 0 ∧ bits w 11 11 = 0 then some (.w2p (srcOf (bits w 18 12)) g c) else none
  | _ => none

/-- The HOB group (R77, R158), G format. -/
def decodeHob (w : Nat) : Option Instr :=
  let d := bits w 25 19
  let a := srcOf (bits w 18 12)
  let g := guardOf (bits w 4 1)
  let c := bitOf w 0
  match bits w 11 5 with
  | 0 => some (.hinit (srcOf d) a g c)
  | 1 => (dstOf d).map (.hann · a g c)
  | 2 => (dstOf d).map (.happ · a g c)
  | 3 => (dstOf d).map (.hrun · a g c)
  | 4 => (dstOf d).map (.hres · a g c)
  | 5 => (dstOf d).map (.hpeek · a g c)
  | 6 => some (.hpois (srcOf d) a g c)
  | 7 => if d = 0 then some (.hclr a g c) else none
  | _ => none

/-- The SYS group (R77, R109), G format. -/
def decodeSys (w : Nat) : Option Instr :=
  let d := bits w 25 19
  let a := bits w 18 12
  let g := guardOf (bits w 4 1)
  let c := bitOf w 0
  match bits w 11 5 with
  | 0 => if d = 0 ∧ a = 0 then some (.nop g c) else none
  | 1 => (fenceKindOf d).bind fun k => (scopeOf a).map fun s => .fence k s g c
  | 2 => (engClassOf d).map fun k => .waitc k (BitVec.ofNat 7 a) g c
  | 3 => match d with
    | 0 => some (.awaitG (srcOf a) g c)
    | 1 => some (.awaitSt (srcOf a) g c)
    | 2 => some (.awaitPr (srcOf a) g c)
    | _ => none
  | 4 => if d = 0 ∧ c = false then some (.trap (BitVec.ofNat 7 a) g) else none
  | 5 => if d = 0 ∧ a = 0 ∧ c = false then some (.eret g) else none
  | 6 => (dstOf d).map (.gets · (BitVec.ofNat 7 a) g c)
  | 7 => some (.sets (BitVec.ofNat 7 d) (srcOf a) g c)
  | 8 => match d with
    | 0 => if a < 32 then some (.win (BitVec.ofNat 5 a) g c) else none
    | 1 => some (.winReg (srcOf a) g c)
    | _ => none
  | 9 => (dstOf d).map (.wgrow · (srcOf a) g c)
  | 10 => (dstOf d).map (.tagrd · (BitVec.ofNat 7 a) g c)
  | 11 => if d = 0 ∧ c = false then some (.bkpt (BitVec.ofNat 7 a) g) else none
  | 12 => if a < 64 then (dstOf d).map (.cntrd · (BitVec.ofNat 6 a) g c) else none
  | 13 => if a = 0 then (dstOf d).map (.time · g c) else none
  | _ => none

/-- The ARR group (R77, R151), G format. -/
def decodeArr (w : Nat) : Option Instr :=
  let d := bits w 25 19
  let a := bits w 18 12
  let g := guardOf (bits w 4 1)
  let c := bitOf w 0
  match bits w 11 5 with
  | 0 =>
      if a < 8 then (dstOf d).map (.movx · (bitOf a 2) (BitVec.ofNat 2 a) g c)
      else if 64 ≤ a ∧ a < 68 then (dstOf d).map (.movxIndex · (BitVec.ofNat 2 a) g c)
      else none
  | 1 => if d < 8 then some (.stx (bitOf d 2) (BitVec.ofNat 2 d) (srcOf a) g c) else none
  | 2 => if d < 4 then some (.ixset (BitVec.ofNat 2 d) (srcOf a) g c) else none
  | 3 => if d < 4 then some (.ixadd (BitVec.ofNat 2 d) (srcOf a) g c) else none
  | 4 => if d < 2 then some (.abset (bitOf d 0) (srcOf a) g c) else none
  | _ => none

/-- The MXG group (R77, R174..R181), E format. -/
def decodeMxg (p : Pfx) (w : Nat) : Option Instr :=
  let x := bits w 20 14
  let y := bits w 13 7
  let hn := bits w 6 2
  let h := BitVec.ofNat 5 hn
  let f := bits w 1 0
  let yh := BitVec.ofNat 5 y
  let x7 := BitVec.ofNat 7 x
  match bits w 25 21 with
  | 0 => if y = 0 ∧ f < 2 then some (.hld p.g (srcOf x) h (bitOf f 0)) else none
  | 1 => if x = 0 ∧ y = 0 ∧ f = 0 then some (.hev p.g h) else none
  | 2 => if x = 0 ∧ y = 0 ∧ f = 0 then some (.hst p.g h) else none
  | 3 => if f = 0 then some (.hset p.g x7 (srcOf y) h) else none
  | 4 => if f = 0 then (dstOf y).map (.hget p.g x7 · h) else none
  | 5 => if x = 0 ∧ y = 0 ∧ f = 0 then some (.wld p.g h) else none
  | 6 => if x = 0 ∧ y = 0 ∧ hn = 0 ∧ f = 0 then some (.wsw p.g) else none
  | 7 =>
      if 32 ≤ y then none
      else if f = 0 ∧ x = 0 then some (.mma p.g p.m yh h)
      else if f = 1 then some (.mmaReg p.g p.m x7 yh h) else none
  | 8 =>
      if 32 ≤ y then none
      else if f = 0 ∧ x = 0 then some (.mmaz p.g p.m yh h)
      else if f = 1 then some (.mmazReg p.g p.m x7 yh h) else none
  | 9 => if x = 0 ∧ y = 0 ∧ f = 0 then some (.accz p.g h) else none
  | 10 =>
      if 32 ≤ y then none
      else if f = 0 ∧ x = 0 then some (.accst p.g p.m yh h)
      else if f = 1 then some (.accstReg p.g p.m x7 yh h) else none
  | 11 =>
      if 32 ≤ y then none
      else if f = 0 ∧ x = 0 then some (.accld p.g yh h)
      else if f = 1 then some (.accldReg p.g x7 yh h) else none
  | 12 => if x = 0 ∧ y < 32 ∧ f = 0 then some (.qnt p.g p.m yh h) else none
  | 13 => if y = 0 ∧ hn = 0 ∧ f = 0 then (dstOf x).map (.mxstat p.g ·) else none
  | 14 => if hn = 0 ∧ f = 0 then some (.topen p.g (srcOf x) (srcOf y)) else none
  | 15 => if x = 0 ∧ y = 0 ∧ hn = 0 ∧ f = 0 then some (.tclose p.g) else none
  | _ => none

/-- The CPG group (R77, R184..R189), E format. -/
def decodeCpg (p : Pfx) (w : Nat) : Option Instr :=
  let x := bits w 20 14
  let y := bits w 13 7
  let f := bits w 1 0
  if bits w 6 2 ≠ 0 then none else
  match bits w 25 21 with
  | 0 => if y = 0 ∧ f = 0 then some (.cpy p.g (srcOf x)) else none
  | 1 => if f = 0 then some (.cpyg p.g (srcOf x) (srcOf y)) else none
  | 2 => if f = 0 then some (.garm p.g (srcOf x) (srcOf y)) else none
  | 3 => if f = 0 then some (.gadd p.g (srcOf x) (srcOf y)) else none
  | 4 => if f = 0 then (dstOf x).map (.gtst p.g · (srcOf y)) else none
  | 5 => match f with
    | 0 => some (.prclr p.g (srcOf x) (srcOf y))
    | 1 => some (.prclrOwn p.g (srcOf x) (srcOf y))
    | 2 => some (.prclrRel p.g (srcOf x) (srcOf y))
    | _ => none
  | _ => none

/-- The THG group (R77, R190..R197), E format. -/
def decodeThg (p : Pfx) (w : Nat) : Option Instr :=
  let x := bits w 20 14
  let y := bits w 13 7
  let hn := bits w 6 2
  let h := BitVec.ofNat 5 hn
  let f := bits w 1 0
  match bits w 25 21 with
  | 0 => (dstOf x).map (.spawn p.g · (srcOf y) h (BitVec.ofNat 2 f))
  | 1 => if x = 0 ∧ y = 0 ∧ hn = 0 ∧ f = 0 then some (.freeze p.g) else none
  | 2 => if y = 0 ∧ hn = 0 ∧ f = 0 then some (.stamp p.g (srcOf x)) else none
  | 3 => if f < 2 then (tstwSzOf hn).map fun s => .tstw p.g (BitVec.ofNat 7 x) (srcOf y) s (bitOf f 0)
         else none
  | 4 => if x = 0 ∧ y = 0 ∧ hn = 0 ∧ f = 0 then some (.exit p.g) else none
  | 5 =>
      if y ≠ 0 ∨ hn ≠ 0 then none
      else if f = 0 ∧ x = 0 then some (.yield p.g)
      else if f = 1 then some (.yieldReg p.g (srcOf x)) else none
  | 6 => if hn = 0 ∧ f = 0 then (dstOf x).map (.migr p.g · (srcOf y)) else none
  | 7 => if x = 0 ∧ y = 0 ∧ hn = 0 ∧ f = 0 then some (.merge p.g) else none
  | 8 => if y = 0 ∧ hn = 0 ∧ f = 0 then (dstOf x).map (.elect p.g ·) else none
  | 9 => if hn = 0 ∧ f = 0 then (dstOf x).map (.ballot p.g · (srcOf y)) else none
  | 10 => (dstOf x).map (.shfl p.e p.g · (srcOf y) h (shflOf f))
  | 11 => if f = 0 then (dstOf x).bind fun d => (redOf hn).map fun o => .redx p.g d (srcOf y) o else none
  | _ => none

/-- The NXG group (R77, R198..R202), E format; SEND and FABW hold a bulk class 2..5 in h. -/
def decodeNxg (p : Pfx) (w : Nat) : Option Instr :=
  let x := bits w 20 14
  let y := bits w 13 7
  let hn := bits w 6 2
  let tc := BitVec.ofNat 2 (hn - 2)
  if bits w 1 0 ≠ 0 then none else
  match bits w 25 21 with
  | 0 => if 2 ≤ hn ∧ hn < 6 then (dstOf x).map (.send p.g · (srcOf y) tc) else none
  | 1 => if hn = 0 then some (.rarm p.g (srcOf x) (srcOf y)) else none
  | 2 => if hn = 0 then some (.rack p.g (srcOf x) (srcOf y)) else none
  | 3 => if hn = 0 then (dstOf x).map (.pxpush p.g · (srcOf y)) else none
  | 4 => if hn = 0 then some (.next p.g (srcOf x) (srcOf y)) else none
  | 5 => if hn = 0 then (dstOf x).map (.launch p.g · (srcOf y)) else none
  | 6 => if y = 0 ∧ 2 ≤ hn ∧ hn < 6 then some (.fabw p.g (srcOf x) tc) else none
  | _ => none

/-- Instruction words of the formats T, G, C, K, I, U, M, L, B by major (R73, R76). -/
def decodeWord (p : Pfx) (w : Nat) : Option Instr :=
  let mj := bits w 31 26
  let d := bits w 25 19
  let a := srcOf (bits w 18 12)
  let b := srcOf (bits w 11 5)
  let mn := bits w 11 5
  let g := guardOf (bits w 4 1)
  let c := bitOf w 0
  match mj with
  | 0x0D => (dstOf d).map (.sel p.g · a b g c)
  | 0x0E => (uniOp mn).bind fun op => (dstOf d).map (op p.m · a g c)
  | 0x0F => decodePred w
  | 0x10 => some (.cmp p.m (BitVec.ofNat 3 (bits w 25 23)) (BitVec.ofNat 3 (bits w 22 20))
      (srcOf (bits w 19 13)) (srcOf (bits w 12 6)) (guardOf (bits w 5 2)) (ccOf (bits w 1 0)))
  | 0x11 => some (.fcmp p.m (BitVec.ofNat 3 (bits w 25 23)) (BitVec.ofNat 3 (bits w 22 20))
      (srcOf (bits w 19 13)) (srcOf (bits w 12 6)) (guardOf (bits w 5 2)) (fccOf (bits w 1 0)))
  | 0x12 => some (.hcmp p.m (BitVec.ofNat 3 (bits w 25 23)) (BitVec.ofNat 3 (bits w 22 20))
      (srcOf (bits w 19 13)) (srcOf (bits w 12 6)) (guardOf (bits w 5 2)) (fccOf (bits w 1 0)))
  | 0x13 => some (.cmpi p.k p.g p.m (BitVec.ofNat 3 (bits w 25 23)) (BitVec.ofNat 3 (bits w 22 20))
      (srcOf (bits w 19 13)) (ccOf (bits w 12 11)) (BitVec.ofNat 11 (bits w 10 0)))
  | 0x1B => (unfOp mn).bind fun op => (dstOf d).map (op p.m · a g c)
  | 0x21 => (cvtTable[mn]?).bind fun k => (dstOf d).map (.cvt p.m · a k g c)
  | 0x22 => (dstOf d).map (.iaddi p.i p.g p.m · a (BitVec.ofNat 12 (bits w 11 0)))
  | 0x23 => (dstOf d).map (.andi p.i p.g · a (BitVec.ofNat 12 (bits w 11 0)))
  | 0x24 => (dstOf d).map (.ori p.i p.g · a (BitVec.ofNat 12 (bits w 11 0)))
  | 0x25 => (dstOf d).map (.xori p.i p.g · a (BitVec.ofNat 12 (bits w 11 0)))
  | 0x26 =>
      if bits w 11 8 ≠ 0 then none else
      let n := BitVec.ofNat 6 (bits w 5 0)
      match bits w 7 6 with
      | 0 => (dstOf d).map (.shli p.g p.m · a n)
      | 1 => (dstOf d).map (.shri p.g p.m · a n)
      | 2 => (dstOf d).map (.sari p.g p.m · a n)
      | _ => none
  | 0x27 => (dstOf d).map (.lui p.g · (BitVec.ofNat 19 (bits w 18 0)))
  | 0x28 => (ldSzOf (bits w 11 9)).bind fun s => (dstOf d).map fun d =>
      .ldg p.ext d a s (guardOf (bits w 8 5)) (BitVec.ofNat 5 (bits w 4 0))
  | 0x29 => (stSzOf (bits w 11 9)).map fun s =>
      .stg p.ext (srcOf d) a s (guardOf (bits w 8 5)) (BitVec.ofNat 5 (bits w 4 0))
  | 0x2A => (ldSzOf (bits w 11 9)).bind fun s => (dstOf d).map fun d =>
      .lds p.ext d a s (guardOf (bits w 8 5)) (BitVec.ofNat 5 (bits w 4 0))
  | 0x2B => (stSzOf (bits w 11 9)).map fun s =>
      .sts p.ext (srcOf d) a s (guardOf (bits w 8 5)) (BitVec.ofNat 5 (bits w 4 0))
  | 0x2C => (dstOf d).map fun d => .atomg p.ext p.m d a (atomOpOf (bits w 11 9)) (guardOf (bits w 8 5))
      (BitVec.ofNat 5 (bits w 4 0))
  | 0x2D => (dstOf d).map fun d => .atoms p.ext p.m d a (atomOpOf (bits w 11 9)) (guardOf (bits w 8 5))
      (BitVec.ofNat 5 (bits w 4 0))
  | 0x2E =>
      let first := BitVec.ofNat 7 (bits w 24 18)
      let base := srcOf (bits w 17 11)
      let n := BitVec.ofNat 6 (bits w 10 5)
      let off := BitVec.ofNat 4 (bits w 3 0)
      if bitOf w 25 then some (.stm p.g first base n (bitOf w 4) off)
      else some (.ldm p.g first base n (bitOf w 4) off)
  | 0x2F => decodeHob w
  | 0x30 => some (.br (guardOf (bits w 25 22)) (BitVec.ofNat 22 (bits w 21 0)))
  | 0x31 => some (.call (guardOf (bits w 25 22)) (BitVec.ofNat 22 (bits w 21 0)))
  | 0x32 => if mn = 0 ∧ c = false then (dstOf d).map (.jmpi · a g) else none
  | 0x33 => decodeSys w
  | 0x34 => decodeMxg p w
  | 0x35 => decodeCpg p w
  | 0x36 => decodeThg p w
  | 0x37 => decodeNxg p w
  | 0x38 => decodeArr w
  | _ => (t3Op mj).bind fun op => (dstOf d).map (op p.m · a b g c)

/-- Which prefixes a major accepts (R76): EXT, GRD, MODE. -/
def accepts (w : Nat) : Bool × Bool × Bool :=
  let mn5 := bits w 25 21
  match bits w 31 26 with
  | 0x0D => (false, true, false)
  | 0x0F => (false, false, false)
  | 0x13 | 0x22 => (true, true, true)
  | 0x23 | 0x24 | 0x25 => (true, true, false)
  | 0x26 => (false, true, true)
  | 0x27 => (false, true, false)
  | 0x28 | 0x29 | 0x2A | 0x2B => (true, false, false)
  | 0x2C | 0x2D => (true, false, true)
  | 0x2E => (false, true, false)
  | 0x2F | 0x30 | 0x31 | 0x32 | 0x33 | 0x38 => (false, false, false)
  | 0x34 => (false, true, mn5 == 7 || mn5 == 8 || mn5 == 10 || mn5 == 12)
  | 0x35 | 0x37 => (false, true, false)
  | 0x36 => (mn5 == 10, true, false)
  | _ => (false, false, true)

/-- The reserved bits of an EXT payload under the layout the instruction word selects (R80). -/
def extReserved (w payload : Nat) : Bool :=
  match bits w 31 26 with
  | 0x22 | 0x23 | 0x24 | 0x25 => bits payload 23 20 != 0
  | 0x13 => bits payload 23 21 != 0
  | 0x36 => bits w 25 21 == 10 && bits payload 23 7 != 0
  | _ => false

/-- The two traps of decoding (R79, R81). -/
inductive DecTrap where
  | illegalInstruction
  | illegalPrefix
deriving DecidableEq, Repr

/-- What decoding a unit answers: the unit and its number of words, or a trap with the index of
the word it is reported at and the instruction word (R87). -/
inductive Decoded where
  | ok (i : Instr) (n : Nat)
  | trap (k : DecTrap) (at_ : Nat) (word : Word)
deriving DecidableEq, Repr

/-- A word of major 0x3E is a prefix (R72). -/
def isPrefix (w : Word) : Bool := bits w.toNat 31 26 == 0x3E

def pfxKind (w : Word) : Nat := bits w.toNat 25 24
def pfxPayload (w : Word) : BitVec 24 := BitVec.ofNat 24 w.toNat

/-- A prefix word malformed by itself, given the kinds before it and the instruction word
(R87 item 2). -/
def pfxMalformed (before : List Nat) (inst p : Word) : Bool :=
  let n := p.toNat % 2 ^ 24
  before.contains (pfxKind p) ||
  match pfxKind p with
  | 0 => extReserved inst.toNat n
  | 1 => bits n 23 4 != 0
  | 2 => bits n 15 0 != 0 || !(modeOf (pfxPayload p)).rmOk
  | _ => true

/-- The index of the first malformed prefix word (R87 item 2). -/
def firstMalformed (inst : Word) : List Nat → Nat → List Word → Option Nat
  | _, _, [] => none
  | before, k, p :: ps =>
      if pfxMalformed before inst p then some k else firstMalformed inst (pfxKind p :: before) (k + 1) ps

/-- The payloads of well-formed prefix words. -/
def pfxOf : List Word → Pfx
  | [] => {}
  | p :: ps =>
      match pfxKind p with
      | 0 => { pfxOf ps with ext := some (pfxPayload p) }
      | 1 => { pfxOf ps with grd := some (pfxPayload p) }
      | _ => { pfxOf ps with mode := some (pfxPayload p) }

/-- The index of the first prefix the instruction does not accept or forbids (R87 item 4). -/
def firstRefused (i : Instr) (w : Word) : Nat → List Word → Option Nat
  | _, [] => none
  | k, p :: ps =>
      let acc := accepts w.toNat
      let bad := match pfxKind p with
        | 0 => !acc.1 || !i.extOk
        | 1 => !acc.2.1
        | _ => !acc.2.2 || !i.modeOk
      if bad then some k else firstRefused i w (k + 1) ps

/-- GETS and SETS of 0x48..0x7F are illegal at decode in handler mode (R27, R87 item 3). -/
def Instr.handlerIllegal : Instr → Bool
  | .gets _ r _ _ => 0x48 ≤ r.toNat
  | .sets r _ _ _ => 0x48 ≤ r.toNat
  | _ => false

/-- Decodes a unit: its prefix words ps and its instruction word w, in the order of R87 items 2..4.
hm is the thread's handler mode. -/
def decodeParts (hm : Bool) (ps : List Word) (w : Word) : Decoded :=
  match firstMalformed w [] 0 ps with
  | some k => .trap .illegalPrefix k w
  | none =>
    match decodeWord (pfxOf ps) w.toNat with
    | none => .trap .illegalInstruction ps.length w
    | some i =>
      if !i.fieldsOk || (hm && i.handlerIllegal) then .trap .illegalInstruction ps.length w
      else match firstRefused i w 0 ps with
        | some k => .trap .illegalPrefix k w
        | none => .ok i (ps.length + 1)

/-- Splits the words of a unit into its prefixes and its instruction word; a fourth prefix in a row
stands in the place of the instruction word (R82). -/
def splitUnit : Nat → List Word → List Word × Option Word
  | _, [] => ([], none)
  | 0, w :: _ => ([], some w)
  | n + 1, w :: ws =>
      if isPrefix w then
        let r := splitUnit n ws
        (w :: r.1, r.2)
      else ([], some w)

/-- Decodes the unit at the head of a list of words (R72, R82, R87). A fourth prefix word is always
the second of its kind, or of kind 0b11; it stands for the instruction word in the record of such a unit (DESIGN CHOICE,
notes/assumptions/69). -/
def decodeUnit (hm : Bool) (ws : List Word) : Decoded :=
  match splitUnit 3 ws with
  | (ps, none) => .trap .illegalInstruction ps.length 0
  | (ps, some w) =>
    if isPrefix w then
      match firstMalformed w [] 0 (ps ++ [w]) with
      | some k => .trap .illegalPrefix k w
      | none => .trap .illegalPrefix ps.length w
    else decodeParts hm ps w

/-- The words of a little-endian byte string (R72). -/
def wordsOf : List Byte → List Word
  | a :: b :: c :: d :: bs => BitVec.ofNat 32 (Machine.ofBytes [a, b, c, d]) :: wordsOf bs
  | _ => []

/-- Decodes the unit at the head of a byte string. -/
def decodeBytes (hm : Bool) (bs : List Byte) : Decoded := decodeUnit hm (wordsOf bs)

/-- The instruction the decoder reads from a word numbered as the opcode table numbers it. -/
def decodeTableWord (nbits w : Nat) : Option Instr :=
  match decodeBytes false (Machine.toBytes (max 4 (nbits / 8)) w) with
  | .ok i _ => some i
  | .trap .. => none

/-! ### The encoder -/

def Src.code : Src → Nat
  | .w n => n.toNat
  | .b k => 120 + k.toNat
  | .zr => 124
  | .it => 125
  | .ax n => 126 + b2n n

def Dst.code : Dst → Nat
  | .w n => n.toNat
  | .zr => 124
  | .ax n => 126 + b2n n

def Guard.code (g : Guard) : Nat := g.p.toNat + 8 * b2n g.neg

def Mode.payload (m : Mode) : Nat :=
  m.rm.toNat * 2 ^ 21 + b2n m.fzi * 2 ^ 20 + b2n m.fzo * 2 ^ 19 + b2n m.sat * 2 ^ 18
    + b2n m.n * 2 ^ 17 + b2n m.w * 2 ^ 16

def Cc.code : Cc → Nat | .eq => 0 | .lt => 1 | .le => 2 | .tst => 3
def Fcc.code : Fcc → Nat | .eq => 0 | .lt => 1 | .le => 2 | .un => 3

def Cvt.code : Cvt → Nat
  | .f32i32 => 0 | .f32n32 => 1 | .i32f32 => 2 | .n32f32 => 3 | .f32f16 => 4 | .f16f32 => 5
  | .f32bf16 => 6 | .bf16f32 => 7 | .f32e4m3 => 8 | .e4m3f32 => 9 | .f32e5m2 => 10 | .e5m2f32 => 11
  | .f32e2m1 => 12 | .e2m1f32 => 13 | .f32e2m1s => 14 | .f32i8 => 15 | .f32n8 => 16 | .i8f32 => 17
  | .n8f32 => 18 | .f32i4 => 19 | .f32n4 => 20 | .i4f32 => 21 | .n4f32 => 22 | .f16x2f32 => 23
  | .bf16x2f32 => 24 | .f32x2f16x2 => 25 | .e2m1sf32 => 26

def LdSz.code : LdSz → Nat | .b8 => 0 | .s8 => 1 | .b16 => 2 | .s16 => 3 | .b32 => 4 | .b64 => 5
def StSz.code : StSz → Nat | .b8 => 0 | .b16 => 2 | .b32 => 4 | .b64 => 5
def StSz.tstwCode : StSz → Nat | .b8 => 0 | .b16 => 1 | .b32 => 2 | .b64 => 3

def AtomOp.code : AtomOp → Nat
  | .add => 0 | .and => 1 | .or => 2 | .xor => 3 | .min => 4 | .max => 5 | .exch => 6 | .cas => 7

def FenceKind.code : FenceKind → Nat | .full => 0 | .acq => 1 | .rel => 2
def Scope.code : Scope → Nat | .t => 0 | .c => 1 | .s => 2 | .d => 3 | .x => 4 | .f => 5
def EngClass.code : EngClass → Nat | .cp => 0 | .mx => 1 | .ga => 2 | .co => 3
def ShflKind.code : ShflKind → Nat | .idx => 0 | .up => 1 | .down => 2 | .xor => 3

def RedOp.code : RedOp → Nat
  | .add => 0 | .min => 1 | .max => 2 | .and => 3 | .or => 4 | .xor => 5 | .fadd => 6

/-- A T or G word (R73): d, a, and b or the minor. -/
def tWord (mj d a b : Nat) (g : Guard) (c : Bool) : Nat :=
  mj * 2 ^ 26 + d * 2 ^ 19 + a * 2 ^ 12 + b * 2 ^ 5 + g.code * 2 + b2n c

/-- A Q word (R73). -/
def qWord (op pd r : Nat) (nb : Bool) (g : Guard) (c : Bool) : Nat :=
  0x0F * 2 ^ 26 + pd * 2 ^ 23 + op * 2 ^ 19 + r * 2 ^ 12 + b2n nb * 2 ^ 11 + g.code * 2 + b2n c

/-- The pa, na, pb part of a Q word. -/
def qSel (pa : BitVec 3) (na : Bool) (pb : BitVec 3) : Nat := pa.toNat * 16 + b2n na * 8 + pb.toNat

/-- A C word (R73). -/
def cWord (mj : Nat) (pt pf : BitVec 3) (a b : Src) (g : Guard) (cc : Nat) : Nat :=
  mj * 2 ^ 26 + pt.toNat * 2 ^ 23 + pf.toNat * 2 ^ 20 + a.code * 2 ^ 13 + b.code * 2 ^ 6
    + g.code * 2 ^ 2 + cc

/-- An I word (R73). -/
def iWord (mj d a imm : Nat) : Nat := mj * 2 ^ 26 + d * 2 ^ 19 + a * 2 ^ 12 + imm

/-- An M word (R73). -/
def mWord (mj d a sz : Nat) (g : Guard) (off : BitVec 5) : Nat :=
  mj * 2 ^ 26 + d * 2 ^ 19 + a * 2 ^ 12 + sz * 2 ^ 9 + g.code * 2 ^ 5 + off.toNat

/-- An L word (R73). -/
def lWord (op : Nat) (first : BitVec 7) (base : Src) (n : BitVec 6) (sp : Bool) (off : BitVec 4) : Nat :=
  0x2E * 2 ^ 26 + op * 2 ^ 25 + first.toNat * 2 ^ 18 + base.code * 2 ^ 11 + n.toNat * 2 ^ 5
    + b2n sp * 2 ^ 4 + off.toNat

/-- An E word (R73). -/
def eWord (mj mn x y h f : Nat) : Nat :=
  mj * 2 ^ 26 + mn * 2 ^ 21 + x * 2 ^ 14 + y * 2 ^ 7 + h * 2 ^ 2 + f

/-- The instruction word of a unit; 0 for the steps of other agents. -/
def encodeWord : Instr → Nat
  | .iadd _ d a b g c => tWord 0x01 d.code a.code b.code g c
  | .isub _ d a b g c => tWord 0x02 d.code a.code b.code g c
  | .imul _ d a b g c => tWord 0x03 d.code a.code b.code g c
  | .imulw _ d a b g c => tWord 0x04 d.code a.code b.code g c
  | .and _ d a b g c => tWord 0x05 d.code a.code b.code g c
  | .or _ d a b g c => tWord 0x06 d.code a.code b.code g c
  | .xor _ d a b g c => tWord 0x07 d.code a.code b.code g c
  | .shl _ d a b g c => tWord 0x08 d.code a.code b.code g c
  | .shr _ d a b g c => tWord 0x09 d.code a.code b.code g c
  | .sar _ d a b g c => tWord 0x0A d.code a.code b.code g c
  | .imin _ d a b g c => tWord 0x0B d.code a.code b.code g c
  | .imax _ d a b g c => tWord 0x0C d.code a.code b.code g c
  | .fadd _ d a b g c => tWord 0x14 d.code a.code b.code g c
  | .fsub _ d a b g c => tWord 0x15 d.code a.code b.code g c
  | .fmul _ d a b g c => tWord 0x16 d.code a.code b.code g c
  | .ffma _ d a b g c => tWord 0x17 d.code a.code b.code g c
  | .ffms _ d a b g c => tWord 0x18 d.code a.code b.code g c
  | .fmin _ d a b g c => tWord 0x19 d.code a.code b.code g c
  | .fmax _ d a b g c => tWord 0x1A d.code a.code b.code g c
  | .hadd2 _ d a b g c => tWord 0x1C d.code a.code b.code g c
  | .hmul2 _ d a b g c => tWord 0x1D d.code a.code b.code g c
  | .hfma2 _ d a b g c => tWord 0x1E d.code a.code b.code g c
  | .hmin2 _ d a b g c => tWord 0x1F d.code a.code b.code g c
  | .hmax2 _ d a b g c => tWord 0x20 d.code a.code b.code g c
  | .mov _ d a g c => tWord 0x0E d.code a.code 0 g c
  | .not _ d a g c => tWord 0x0E d.code a.code 1 g c
  | .neg _ d a g c => tWord 0x0E d.code a.code 2 g c
  | .abs _ d a g c => tWord 0x0E d.code a.code 3 g c
  | .popc _ d a g c => tWord 0x0E d.code a.code 4 g c
  | .clz _ d a g c => tWord 0x0E d.code a.code 5 g c
  | .ctz _ d a g c => tWord 0x0E d.code a.code 6 g c
  | .brev _ d a g c => tWord 0x0E d.code a.code 7 g c
  | .sxb _ d a g c => tWord 0x0E d.code a.code 8 g c
  | .sxh _ d a g c => tWord 0x0E d.code a.code 9 g c
  | .zxb _ d a g c => tWord 0x0E d.code a.code 10 g c
  | .zxh _ d a g c => tWord 0x0E d.code a.code 11 g c
  | .bswap _ d a g c => tWord 0x0E d.code a.code 12 g c
  | .fneg _ d a g c => tWord 0x1B d.code a.code 0 g c
  | .fabs _ d a g c => tWord 0x1B d.code a.code 1 g c
  | .fsqrt _ d a g c => tWord 0x1B d.code a.code 2 g c
  | .frcp _ d a g c => tWord 0x1B d.code a.code 3 g c
  | .frsq _ d a g c => tWord 0x1B d.code a.code 4 g c
  | .fex2 _ d a g c => tWord 0x1B d.code a.code 5 g c
  | .flg2 _ d a g c => tWord 0x1B d.code a.code 6 g c
  | .fsin _ d a g c => tWord 0x1B d.code a.code 7 g c
  | .fcos _ d a g c => tWord 0x1B d.code a.code 8 g c
  | .fflr _ d a g c => tWord 0x1B d.code a.code 9 g c
  | .fceil _ d a g c => tWord 0x1B d.code a.code 10 g c
  | .ftrnc _ d a g c => tWord 0x1B d.code a.code 11 g c
  | .frint _ d a g c => tWord 0x1B d.code a.code 12 g c
  | .fcls _ d a g c => tWord 0x1B d.code a.code 13 g c
  | .hneg2 _ d a g c => tWord 0x1B d.code a.code 16 g c
  | .habs2 _ d a g c => tWord 0x1B d.code a.code 17 g c
  | .hsqrt2 _ d a g c => tWord 0x1B d.code a.code 18 g c
  | .hrcp2 _ d a g c => tWord 0x1B d.code a.code 19 g c
  | .sel _ d a b s c => tWord 0x0D d.code a.code b.code s c
  | .pand pd pa na pb nb g c => qWord 0 pd.toNat (qSel pa na pb) nb g c
  | .por pd pa na pb nb g c => qWord 1 pd.toNat (qSel pa na pb) nb g c
  | .pxor pd pa na pb nb g c => qWord 2 pd.toNat (qSel pa na pb) nb g c
  | .movp pd pa na g c => qWord 3 pd.toNat (qSel pa na 0) false g c
  | .setp pd v g c => qWord 4 pd.toNat (qSel 0 v 0) false g c
  | .p2w d g c => qWord 5 0 d.code false g c
  | .w2p a g c => qWord 6 0 a.code false g c
  | .cmp _ pt pf a b g cc => cWord 0x10 pt pf a b g cc.code
  | .fcmp _ pt pf a b g cc => cWord 0x11 pt pf a b g cc.code
  | .hcmp _ pt pf a b g cc => cWord 0x12 pt pf a b g cc.code
  | .cmpi _ _ _ pt pf a cc imm =>
      0x13 * 2 ^ 26 + pt.toNat * 2 ^ 23 + pf.toNat * 2 ^ 20 + a.code * 2 ^ 13 + cc.code * 2 ^ 11 + imm.toNat
  | .cvt _ d a k g c => tWord 0x21 d.code a.code k.code g c
  | .iaddi _ _ _ d a imm => iWord 0x22 d.code a.code imm.toNat
  | .andi _ _ d a imm => iWord 0x23 d.code a.code imm.toNat
  | .ori _ _ d a imm => iWord 0x24 d.code a.code imm.toNat
  | .xori _ _ d a imm => iWord 0x25 d.code a.code imm.toNat
  | .shli _ _ d a n => iWord 0x26 d.code a.code n.toNat
  | .shri _ _ d a n => iWord 0x26 d.code a.code (0x40 + n.toNat)
  | .sari _ _ d a n => iWord 0x26 d.code a.code (0x80 + n.toNat)
  | .lui _ d imm => 0x27 * 2 ^ 26 + d.code * 2 ^ 19 + imm.toNat
  | .ldg _ d a sz g off => mWord 0x28 d.code a.code sz.code g off
  | .stg _ d a sz g off => mWord 0x29 d.code a.code sz.code g off
  | .lds _ d a sz g off => mWord 0x2A d.code a.code sz.code g off
  | .sts _ d a sz g off => mWord 0x2B d.code a.code sz.code g off
  | .atomg _ _ d a op g off => mWord 0x2C d.code a.code op.code g off
  | .atoms _ _ d a op g off => mWord 0x2D d.code a.code op.code g off
  | .ldm _ f b n sp off => lWord 0 f b n sp off
  | .stm _ f b n sp off => lWord 1 f b n sp off
  | .hinit d a g c => tWord 0x2F d.code a.code 0 g c
  | .hann d a g c => tWord 0x2F d.code a.code 1 g c
  | .happ d a g c => tWord 0x2F d.code a.code 2 g c
  | .hrun d a g c => tWord 0x2F d.code a.code 3 g c
  | .hres d a g c => tWord 0x2F d.code a.code 4 g c
  | .hpeek d a g c => tWord 0x2F d.code a.code 5 g c
  | .hpois d a g c => tWord 0x2F d.code a.code 6 g c
  | .hclr a g c => tWord 0x2F 0 a.code 7 g c
  | .br g off => 0x30 * 2 ^ 26 + g.code * 2 ^ 22 + off.toNat
  | .call g off => 0x31 * 2 ^ 26 + g.code * 2 ^ 22 + off.toNat
  | .jmpi d a g => tWord 0x32 d.code a.code 0 g false
  | .nop g c => tWord 0x33 0 0 0 g c
  | .fence k s g c => tWord 0x33 k.code s.code 1 g c
  | .waitc k n g c => tWord 0x33 k.code n.toNat 2 g c
  | .awaitG a g c => tWord 0x33 0 a.code 3 g c
  | .awaitSt a g c => tWord 0x33 1 a.code 3 g c
  | .awaitPr a g c => tWord 0x33 2 a.code 3 g c
  | .trap n g => tWord 0x33 0 n.toNat 4 g false
  | .eret g => tWord 0x33 0 0 5 g false
  | .gets d r g c => tWord 0x33 d.code r.toNat 6 g c
  | .sets r a g c => tWord 0x33 r.toNat a.code 7 g c
  | .win m8 g c => tWord 0x33 0 m8.toNat 8 g c
  | .winReg a g c => tWord 0x33 1 a.code 8 g c
  | .wgrow d a g c => tWord 0x33 d.code a.code 9 g c
  | .tagrd d k g c => tWord 0x33 d.code k.toNat 10 g c
  | .bkpt n g => tWord 0x33 0 n.toNat 11 g false
  | .cntrd d e g c => tWord 0x33 d.code e.toNat 12 g c
  | .time d g c => tWord 0x33 d.code 0 13 g c
  | .hld _ x h sp => eWord 0x34 0 x.code 0 h.toNat (b2n sp)
  | .hev _ h => eWord 0x34 1 0 0 h.toNat 0
  | .hst _ h => eWord 0x34 2 0 0 h.toNat 0
  | .hset _ x y h => eWord 0x34 3 x.toNat y.code h.toNat 0
  | .hget _ x y h => eWord 0x34 4 x.toNat y.code h.toNat 0
  | .wld _ h => eWord 0x34 5 0 0 h.toNat 0
  | .wsw _ => eWord 0x34 6 0 0 0 0
  | .mma _ _ y h => eWord 0x34 7 0 y.toNat h.toNat 0
  | .mmaReg _ _ x y h => eWord 0x34 7 x.toNat y.toNat h.toNat 1
  | .mmaz _ _ y h => eWord 0x34 8 0 y.toNat h.toNat 0
  | .mmazReg _ _ x y h => eWord 0x34 8 x.toNat y.toNat h.toNat 1
  | .accz _ h => eWord 0x34 9 0 0 h.toNat 0
  | .accst _ _ y h => eWord 0x34 10 0 y.toNat h.toNat 0
  | .accstReg _ _ x y h => eWord 0x34 10 x.toNat y.toNat h.toNat 1
  | .accld _ y h => eWord 0x34 11 0 y.toNat h.toNat 0
  | .accldReg _ x y h => eWord 0x34 11 x.toNat y.toNat h.toNat 1
  | .qnt _ _ y h => eWord 0x34 12 0 y.toNat h.toNat 0
  | .mxstat _ x => eWord 0x34 13 x.code 0 0 0
  | .topen _ x y => eWord 0x34 14 x.code y.code 0 0
  | .tclose _ => eWord 0x34 15 0 0 0 0
  | .cpy _ x => eWord 0x35 0 x.code 0 0 0
  | .cpyg _ x y => eWord 0x35 1 x.code y.code 0 0
  | .garm _ x y => eWord 0x35 2 x.code y.code 0 0
  | .gadd _ x y => eWord 0x35 3 x.code y.code 0 0
  | .gtst _ x y => eWord 0x35 4 x.code y.code 0 0
  | .prclr _ x y => eWord 0x35 5 x.code y.code 0 0
  | .prclrOwn _ x y => eWord 0x35 5 x.code y.code 0 1
  | .prclrRel _ x y => eWord 0x35 5 x.code y.code 0 2
  | .spawn _ x y n t => eWord 0x36 0 x.code y.code n.toNat t.toNat
  | .freeze _ => eWord 0x36 1 0 0 0 0
  | .stamp _ x => eWord 0x36 2 x.code 0 0 0
  | .tstw _ x y sz sp => eWord 0x36 3 x.toNat y.code sz.tstwCode (b2n sp)
  | .exit _ => eWord 0x36 4 0 0 0 0
  | .yield _ => eWord 0x36 5 0 0 0 0
  | .yieldReg _ x => eWord 0x36 5 x.code 0 0 1
  | .migr _ x y => eWord 0x36 6 x.code y.code 0 0
  | .merge _ => eWord 0x36 7 0 0 0 0
  | .elect _ x => eWord 0x36 8 x.code 0 0 0
  | .ballot _ x y => eWord 0x36 9 x.code y.code 0 0
  | .shfl _ _ x y n k => eWord 0x36 10 x.code y.code n.toNat k.code
  | .redx _ x y o => eWord 0x36 11 x.code y.code o.code 0
  | .send _ x y tc => eWord 0x37 0 x.code y.code (2 + tc.toNat) 0
  | .rarm _ x y => eWord 0x37 1 x.code y.code 0 0
  | .rack _ x y => eWord 0x37 2 x.code y.code 0 0
  | .pxpush _ x y => eWord 0x37 3 x.code y.code 0 0
  | .next _ x y => eWord 0x37 4 x.code y.code 0 0
  | .launch _ x y => eWord 0x37 5 x.code y.code 0 0
  | .fabw _ x tc => eWord 0x37 6 x.code 0 (2 + tc.toNat) 0
  | .movx d n k g c => tWord 0x38 d.code (b2n n * 4 + k.toNat) 0 g c
  | .movxIndex d k g c => tWord 0x38 d.code (64 + k.toNat) 0 g c
  | .stx n k a g c => tWord 0x38 (b2n n * 4 + k.toNat) a.code 1 g c
  | .ixset k a g c => tWord 0x38 k.toNat a.code 2 g c
  | .ixadd k a g c => tWord 0x38 k.toNat a.code 3 g c
  | .abset n a g c => tWord 0x38 (b2n n) a.code 4 g c
  | _ => 0

/-- The EXT payload of a unit, where it has one. -/
def Instr.extPayload : Instr → Option Nat
  | .iaddi x .. | .andi x .. | .ori x .. | .xori x .. => x.map (·.toNat)
  | .cmpi x .. => x.map (·.toNat)
  | .ldg x .. | .stg x .. | .lds x .. | .sts x .. => x.map (·.toNat)
  | .atomg x .. | .atoms x .. => x.map (·.toNat)
  | .shfl e .. => e.map (·.code)
  | _ => none

/-- The GRD guard of a unit, where it has one. -/
def Instr.grd? : Instr → Option Guard
  | .sel g .. | .andi _ g .. | .ori _ g .. | .xori _ g .. | .iaddi _ g .. | .cmpi _ g .. | .shli g ..
  | .shri g .. | .sari g .. | .lui g .. | .ldm g .. | .stm g .. | .hld g .. | .hev g .. | .hst g ..
  | .hset g .. | .hget g .. | .wld g .. | .wsw g | .mma g .. | .mmaReg g .. | .mmaz g .. | .mmazReg g ..
  | .accz g .. | .accst g .. | .accstReg g .. | .accld g .. | .accldReg g .. | .qnt g .. | .mxstat g ..
  | .topen g .. | .tclose g | .cpy g .. | .cpyg g .. | .garm g .. | .gadd g .. | .gtst g .. | .prclr g ..
  | .prclrOwn g .. | .prclrRel g .. | .spawn g .. | .freeze g | .stamp g .. | .tstw g .. | .exit g
  | .yield g | .yieldReg g .. | .migr g .. | .merge g | .elect g .. | .ballot g .. | .shfl _ g ..
  | .redx g .. | .send g .. | .rarm g .. | .rack g .. | .pxpush g .. | .next g .. | .launch g ..
  | .fabw g .. => g
  | _ => none

/-- A prefix word (R73, R80). -/
def pWord (kind payload : Nat) : Word := BitVec.ofNat 32 (0x3E * 2 ^ 26 + kind * 2 ^ 24 + payload)

/-- The prefix words of a unit, in the order EXT, GRD, MODE (R89). -/
def Instr.prefixes (i : Instr) : List Word :=
  (i.extPayload.toList.map (pWord 0)) ++ (i.grd?.toList.map fun g => pWord 1 g.code)
    ++ (i.mode?.toList.map fun m => pWord 2 m.payload)

/-- The words of a well-formed unit. -/
def encode (i : Instr) : List Word := i.prefixes ++ [BitVec.ofNat 32 (encodeWord i)]

end Sys2Proof
end

