-- ==== Sys2Proof/Machine/Xlate.lean ====
section
/-! DEFINITION. Translation: table walks, the core TLB, the lanes' last-page registers (R301..R304). -/

namespace Sys2Proof.Machine

/-- What an access does (R168, R303): the kinds of the access fault. -/
inductive Acc where
  | load | store | atomic | helped | fetch
deriving DecidableEq, Repr

/-- The kind field of an access fault for an access the leaf forbids (R168, R303). -/
def Acc.kind : Acc → Nat
  | .load => 0 | .store => 1 | .atomic => 2 | .helped => 3 | .fetch => 5

/-- Whether the access needs W (R303). -/
def Acc.needsW : Acc → Bool
  | .store | .atomic | .helped => true
  | _ => false

/-- A TLB entry's bytes: 64 KiB, 2 MiB or 1 GiB (R302). -/
def pageBits (psz : Nat) : Nat := match psz with | 0 => 16 | 1 => 21 | _ => 30

/-- The index bits of a level and the bits of the page a leaf there maps (R302). -/
def levelBits (lvl : Nat) : Nat × Nat :=
  match lvl with | 3 => (56, 39) | 2 => (38, 30) | 1 => (29, 21) | _ => (20, 16)

/-- What the entry e that a walk reads at level lvl says (R302, R303): the walk's end, or the next table. -/
def walkEntry (va lvl e : Nat) : Walk ⊕ Nat :=
  let lo := (levelBits lvl).2
  let leaf := bitOf e 1
  let pa := bits e 51 12 * 4096
  if !bitOf e 0 then .inl .page
  else if bits e 63 52 ≠ 0 ∨ bits e 11 6 ≠ 0 then .inl (.access 6)
  else if bits e 5 4 = 3 then .inl (.access 6)
  else if (leaf && lvl == 3) || (!leaf && lvl == 0) then .inl (.access 6)
  else if leaf ∧ pa % 2 ^ lo ≠ 0 then .inl (.access 6)
  else if Config.memBytes ≤ pa then .inl (.access 6)
  else if ¬leaf ∧ bits e 5 2 ≠ 0 then .inl (.access 6)
  else if leaf then
    .inl (.ok { vpn := va / 2 ^ lo * 2 ^ (lo - 16), psz := lvl, ppn := pa / 2 ^ 16
                attr := BitVec.ofNat 2 (bits e 5 4), w := bitOf e 2, x := bitOf e 3 })
  else .inr pa

/-- The address of the entry for va of a table of level lvl (R302). -/
def walkAt (va lvl table : Nat) : Nat := table + 8 * bits va (levelBits lvl).1 (levelBits lvl).2

/-- A walk from a table down, lvl + 1 levels to go (R302, R303). -/
def walkFrom (mem : List Host.Cell) (va : Nat) : Nat → Nat → Walk
  | lvl, table =>
    let at_ := walkAt va lvl table
    if Config.memBytes < at_ + 8 then .off at_
    else
      match walkEntry va lvl (ofBytes (cellsRead mem at_ 8)), lvl with
      | .inl w, _ => w
      | .inr _, 0 => .access 6
      | .inr pa, l + 1 => walkFrom mem va l pa

/-- The addresses of the entries that the walk reads. -/
def walkReads (mem : List Host.Cell) (va : Nat) : Nat → Nat → List Nat
  | lvl, table =>
    let at_ := walkAt va lvl table
    if Config.memBytes < at_ + 8 then []
    else
      match walkEntry va lvl (ofBytes (cellsRead mem at_ 8)), lvl with
      | .inr pa, l + 1 => at_ :: walkReads mem va l pa
      | _, _ => [at_]

/-- A tenancy's root table (R302). -/
def State.rootTable (s : State) (ten : Nat) : Nat := bits (s.ten ten).root.toNat 51 21 * 2 ^ 21

/-- A walk under a tenancy's root (R302). -/
def State.walk (s : State) (ten va : Nat) : Walk := walkFrom s.cleanMem va 3 (s.rootTable ten)

/-- The sectors that the walk reads are corrected, or marked, by their controllers (R336). -/
def State.walkFill (s : State) (ten va : Nat) : State :=
  if s.check = [] then s
  else (walkReads s.cleanMem va 3 (s.rootTable ten)).foldl (fun s a => s.sectorRead (a / 32)) s

/-- The physical address an entry gives for va. -/
def TlbEntry.pa (e : TlbEntry) (va : Nat) : Nat := e.ppn * 2 ^ 16 + va % 2 ^ pageBits e.psz

def TlbEntry.covers (e : TlbEntry) (va : Nat) : Bool := va / 2 ^ pageBits e.psz == e.vpn * 2 ^ 16 / 2 ^ pageBits e.psz

/-- The attribute of a physical page (R301). -/
def State.attrOf (s : State) (pa : Nat) : BitVec 2 := tget 0 s.attr (pa / 2 ^ 16)

/-- What an entry allows (R303): the forbidden access first, then the attribute mismatch. -/
def State.checkEntry (s : State) (e : TlbEntry) (va : Nat) (acc : Acc) : Walk :=
  if acc.needsW && !e.w then .access acc.kind
  else if acc = .fetch ∧ e.x = false then .access 5
  else if s.attrOf (e.pa va) ≠ e.attr then .access 4
  else .ok e

/-- Walks and checks the access. -/
def State.walkFor (s : State) (ten va : Nat) (acc : Acc) : Walk :=
  match s.walk ten va with
  | .ok e => s.checkEntry e va acc
  | r => r

/-- What a read of n bytes at va by the device makes the controllers correct, or mark (R336): the entries of the walk, and the
bytes. -/
def State.viewFill (s : State) (ten va n : Nat) : State :=
  if s.check = [] then s
  else
    let s := s.walkFill ten va
    match s.walkFor ten va .load with | .ok e => s.fillSectors (e.pa va) n | _ => s

/-- A cached translation: the lane's last-page register, then the core TLB (R304). -/
def State.cached (s : State) (c lane va : Nat) : Option TlbEntry :=
  let k := s.core c
  match (tget? k.lastPage lane).filter (·.covers va) with
  | some e => some e
  | none => k.tlb.find? (·.covers va)

/-- The 64 KiB page of an entry, as a last-page register holds it (R304). -/
def TlbEntry.page64 (e : TlbEntry) (va : Nat) : TlbEntry :=
  { e with vpn := va / 2 ^ 16, psz := 0, ppn := e.pa va / 2 ^ 16 }

/-- An entry that a walk has found is loaded into the core TLB; the oldest entry is replaced (R304). -/
def State.learnTlb (s : State) (c : Nat) (e : TlbEntry) : State :=
  s.modCore c fun k => { k with tlb := if k.tlb.contains e then k.tlb else (e :: k.tlb).take Config.tlbEntries }

/-- The page that an access of a lane used is loaded into its last-page register (R304). -/
def State.learnPage (s : State) (c lane va : Nat) (e : TlbEntry) : State :=
  s.modCore c fun k => { k with lastPage := tset k.lastPage lane (e.page64 va) }

/-- A lane's access has used the entry that its walk has found (R304). -/
def State.learn (s : State) (c lane va : Nat) (e : TlbEntry) : State := (s.learnTlb c e).learnPage c lane va e

/-- The lane of a position in the core's table of last-page registers. -/
def laneOf (t : Nat) : Nat := t / 1024 * 32 + t % 32

/-- Translates an access of the thread at position t: from the lane's register and the core TLB, else by a walk (R304).
Answers the walk's end and the state with the entry learnt. -/
def State.translate (s : State) (c t va : Nat) (acc : Acc) : Walk × State :=
  match s.cached c (laneOf t) va with
  | some e =>
    match s.checkEntry e va acc with
    | .ok e => (.ok e, s.learnPage c (laneOf t) va e)
    | r => (r, s)
  | none =>
    let s := s.walkFill (s.core c).tenancy va
    match s.walkFor (s.core c).tenancy va acc with
    | .ok e => (.ok e, s.learn c (laneOf t) va e)
    | r => (r, s)

/-- Translates a fetch: a lane's register holds the page of its accesses, so a fetch uses the core TLB alone. -/
def State.translateFetch (s : State) (c va : Nat) : Walk × State :=
  match (s.core c).tlb.find? (·.covers va) with
  | some e => (s.checkEntry e va .fetch, s)
  | none =>
    let s := s.walkFill (s.core c).tenancy va
    match s.walkFor (s.core c).tenancy va .fetch with
    | .ok e => (.ok e, s.learnTlb c e)
    | r => (r, s)

end Sys2Proof.Machine
end

