-- ==== Sys2Proof/Machine/Global.lean ====
section
/-! DEFINITION. Global memory as the dies and cores see it: CAUSAL, ATOMIC and REPL lines, guest copies,
vector clocks, L1 lines, staged writes (R252, R256, R257, R262..R270, R339). -/

namespace Sys2Proof.Machine

/-! ### Clocks and keys (R263, R264) -/

/-- Entries are compared modulo 2^32, as differences below 2^31 (R263). -/
def clockGe (a b : Word) : Bool := decide ((a - b).toNat < 2 ^ 31)

/-- V covers U (R263). -/
def covers (v u : List Word) : Bool := (v.zip u).all fun e => clockGe e.1 e.2

/-- V covers U, entry d ignored (R267). -/
def coversBut (d : Nat) (v u : List Word) : Bool :=
  (List.range 8).all fun k => k == d || clockGe (v.getD k 0) (u.getD k 0)

def clockSum (v : List Word) : Nat := v.foldl (fun n w => n + w.toNat) 0

/-- Keys are compared first by the sum and then by the die number (R264). -/
def keyLt (a b : Key) : Bool := decide (a.1 < b.1) || (a.1 == b.1 && decide (a.2 < b.2))

/-- The line of a physical address: 128 bytes (R256). -/
def lineOf (pa : Nat) : Nat := pa / 128

def State.vc (s : State) (d : Nat) : List Word := (s.die d).vc

/-! ### Reads -/

/-- Of the sectors that n bytes of one line at pa touch, those that the line's poison bits mark (R337). -/
def markedSectors (poison : List Bool) (pa n : Nat) : List Nat :=
  (sectorsOf pa n).filter fun k => poison.getD (k % 4) false

/-- What die d's slice holds of n bytes of one line at pa, with the poisoned sectors that they touch: none when it holds no
copy (R262, R267, R268, R337). -/
def State.sliceRead (s : State) (d pa : Nat) (attr : BitVec 2) (n : Nat) : Option (List Byte × List Nat) :=
  let bad := (sectorsOf pa n).filter s.poison.contains
  if attr = 0 ∧ d ≠ homeDie pa then
    (tget? (s.die d).guests (lineOf pa)).map fun g => ((g.data.drop (pa % 128)).take n, markedSectors g.poison pa n)
  else if attr = 2 ∧ d ≠ homeDie pa then
    let m := (s.die d).repl
    some ((List.range n).map fun j =>
        match tget? m (pa + j) with | some b => b | none => cellGet s.cleanMem (pa + j),
      (sectorsOf pa n).filter fun k => bad.contains k || (s.die d).replPoison.contains k)
  else some (s.memRead pa n, bad)

/-- Overlays the node's staged bytes (R339). -/
def State.overlay (s : State) (c pa : Nat) (bytes : List Byte) : List Byte :=
  match s.nodeOf c with
  | none => bytes
  | some nd =>
    if nd.staged.isEmpty then bytes
    else
      (List.range bytes.length).map fun j =>
        match tget? nd.staged (lineOf (pa + j)) with
        | some l => ((l.getD ((pa + j) % 128) none)).getD (bytes.getD j 0)
        | none => bytes.getD j 0

/-- Whether every one of n bytes at pa is staged, so that the memory below is not read. -/
def State.allStaged (s : State) (c pa n : Nat) : Bool :=
  match s.nodeOf c with
  | none => false
  | some nd =>
    !nd.staged.isEmpty && (List.range n).all fun j =>
      match tget? nd.staged (lineOf (pa + j)) with
      | some l => (l.getD ((pa + j) % 128) none).isSome
      | none => false

/-- Whether a read of n bytes at pa consumes the poison of one of the sectors ks: some byte that it touches there is not
staged (R338, R339). -/
def State.consumes (s : State) (c pa n : Nat) (ks : List Nat) : Bool :=
  ks.any fun k =>
    let lo := max pa (k * 32)
    !s.allStaged c lo (min (pa + n) (k * 32 + 32) - lo)

/-- Whether the loading die's clock covers the clocks of the ATOMIC stores of n bytes (R267). -/
def State.atomicBound (s : State) (d pa n : Nat) : Bool :=
  s.aclk.isEmpty || (List.range n).all fun j =>
    match tget? s.aclk (pa + j) with
    | some v => covers (s.vc d) v
    | none => true

/-- The home's value and keys of a line, as a fill carries them (R265). -/
def State.homeLine (s : State) (line : Nat) : GuestLine :=
  { data := s.memRead (line * 128) 128
    keys := (List.range 128).map fun j => tget (0, 0) s.keys (line * 128 + j)
    poison := (List.range 4).map fun j => s.poison.contains (line * 4 + j) }

/-- Requests a guest fill (R265); one that is outstanding and not served yet takes the clock of the later request too. -/
def State.requestFill (s : State) (d line : Nat) : State :=
  let k := s.die d
  if k.fills.any (·.line == line) then
    s.setDie d { k with fills := k.fills.map fun f =>
      if f.line = line ∧ f.served.isNone then { f with clock := k.vc } else f }
  else s.setDie d { k with fills := k.fills ++ [{ line, clock := k.vc, served := none, late := [] }] }

/-- Installs a guest copy (R265); a slice that is full replaces one of its guest copies (notes/assumptions/55). -/
def State.installGuest (s : State) (d line : Nat) (g : GuestLine) : State :=
  let k := s.die d
  let mine := (k.guests.map (·.1)).filter (· % 3 == line % 3)
  let old := if Config.sliceLines ≤ mine.length ∧ (tget? k.guests line).isNone
    then mine[Config.victim s.cycle line % mine.length]? else none
  let guests := match old with | some l => tdel k.guests l | none => k.guests
  (s.setDie d { k with guests := tset guests line g, fills := k.fills.filter (·.line != line) }).snoop d (line * 128) 128

/-- A fill of a line served and installed at once, where R265's clock conditions already hold. -/
def State.fillNow (s : State) (d line : Nat) : Option State :=
  let h := homeDie (line * 128)
  if covers (s.vc h) (s.vc d) && covers (s.vc d) (s.vc h) then
    let s := s.fillSectors (line * 128) 128
    some (s.installGuest d line (s.homeLine line))
  else none

/-- How a read that must complete now ends: bytes with their poison, or it must wait for a fill or a clock. -/
inductive Got where
  | bytes (bs : List Byte) (poison : Bool) (s : State)
  | wait (s : State)

/-- A read of n bytes of one line by core c, served by its die's slice now (R252, R262, R265, R267). -/
def State.readNow (s : State) (c pa : Nat) (attr : BitVec 2) (n : Nat) : Got :=
  let d := dieOf c
  let s := s.fillSectors pa n
  if attr = 1 && !s.atomicBound d pa n then .wait s
  else
    match s.sliceRead d pa attr n with
    | some (bs, ks) => .bytes (s.overlay c pa bs) (s.consumes c pa n ks) s
    | none =>
      match s.fillNow d (lineOf pa) with
      | none => .wait (s.requestFill d (lineOf pa))
      | some s =>
        match s.sliceRead d pa attr n with
        | some (bs, ks) => .bytes (s.overlay c pa bs) (s.consumes c pa n ks) s
        | none => .wait s

/-- The pieces of n bytes at pa that lie in one line each. -/
def linePieces (fuel pa n : Nat) : List (Nat × Nat) :=
  match fuel with
  | 0 => []
  | f + 1 =>
    if n = 0 then []
    else
      let k := min n (128 - pa % 128)
      (pa, k) :: linePieces f (pa + k) (n - k)

/-! ### L1 (R257) -/

/-- An L1 hit: n bytes of one line at pa, with the poisoned sectors that they touch. -/
def State.l1Hit (s : State) (c pa : Nat) (attr : BitVec 2) (n : Nat) : Option (List Byte × List Nat) :=
  if attr = 1 then none
  else
    (tget? (s.core c).l1 (lineOf pa)).map fun l => ((l.data.drop (pa % 128)).take n, markedSectors l.poison pa n)

/-- Puts a line into L1; one that is full replaces a line (notes/assumptions/55). -/
def Core.l1Put (k : Core) (cycle line : Nat) (l : L1Line) : Core :=
  let full := decide (Config.l1Lines ≤ k.l1.length) && (tget? k.l1 line).isNone
  { k with l1 := tset (if full then k.l1.eraseIdx (Config.victim cycle line % k.l1.length) else k.l1) line l }

/-- Installs a line in the core's L1 as the slice holds it now. -/
def State.l1Fill (s : State) (c pa : Nat) (attr : BitVec 2) : State :=
  if attr = 1 then s
  else
    let a := lineOf pa * 128
    match s.sliceRead (dieOf c) a attr 128 with
    | some (bs, ks) =>
      let p := (List.range 4).map fun j => ks.contains (lineOf pa * 4 + j)
      s.modCore c (·.l1Put s.cycle (lineOf pa) { data := bs, poison := p })
    | none => s

def setBytes (l : List Byte) (o : Nat) (bs : List Byte) : List Byte :=
  l.take o ++ bs ++ l.drop (o + bs.length)

/-- The storing core's copy of the line, as it stood before the store, is updated in the same step (R252). -/
def State.l1Update (s : State) (old : Option L1Line) (c pa : Nat) (bytes : List Byte) : State :=
  match old with
  | none => s
  | some l =>
    let o := pa % 128
    let p := (List.range 4).map fun j =>
      l.poison.getD j false && !(decide (o ≤ j * 32) && decide (j * 32 + 32 ≤ o + bytes.length))
    s.modCore c fun k =>
      { k with l1 := tset k.l1 (lineOf pa) { data := setBytes l.data o bytes, poison := p } }

/-- The core's copy of the line of a physical address. -/
def State.l1Copy (s : State) (c pa : Nat) : Option L1Line := tget? (s.core c).l1 (lineOf pa)

/-- The invalidation of every L1 line of the core that is not local (R253); fills in flight are not installed (R257). -/
def State.l1Drop (s : State) (c : Nat) : State :=
  s.modCore c fun k => { k with l1 := k.l1.filter (fun e => localLine c e.1), acqs := k.acqs + 1 }

/-! ### Stores -/

/-- Applies a write to a guest copy of its line at offset o, byte by byte where its key is higher (R264). -/
def GuestLine.put (g : GuestLine) (o : Nat) (bytes : List Byte) (key : Key) : GuestLine :=
  let upd (j : Nat) : Bool := decide (o ≤ j) && decide (j < o + bytes.length) && keyLt (g.keys.getD j (0, 0)) key
  { data := (List.range 128).map fun j => if upd j then bytes.getD (j - o) 0 else g.data.getD j 0
    keys := (List.range 128).map fun j => if upd j then key else g.keys.getD j (0, 0)
    poison := (List.range 4).map fun j =>
      g.poison.getD j false && !(decide (o ≤ j * 32) && decide (j * 32 + 32 ≤ o + bytes.length)) }

/-- Applies a CAUSAL write at die e: at home, or in a guest copy it holds, only where the write's key exceeds the
key of the value held (R264). A copy that a fill is bringing counts as held: the write is kept for it
(notes/assumptions/15). -/
def State.applyCausal (s : State) (e pa : Nat) (bytes : List Byte) (key : Key) : State :=
  if e = homeDie pa then
    let take := (List.range bytes.length).map fun j => keyLt (tget (0, 0) s.keys (pa + j)) key
    let s' := if take.all id then s.memWrite pa bytes
      else (List.range bytes.length).foldl (fun s j =>
        if take.getD j false then s.memWrite (pa + j) [bytes.getD j 0] else s) s
    { s' with keys := (List.range bytes.length).foldl (fun t j =>
        if take.getD j false then tset t (pa + j) key else t) s'.keys }
  else
    let k := s.die e
    let g := match tget? k.guests (lineOf pa) with
      | some g => tset k.guests (lineOf pa) (g.put (pa % 128) bytes key)
      | none => k.guests
    let fs := if k.fills.isEmpty then [] else k.fills.map fun (f : Fill) =>
      if f.line = lineOf pa then { f with late := f.late ++ [(pa % 128, bytes, key)] } else f
    (s.setDie e { k with guests := g, fills := fs }).snoop e pa bytes.length

/-- A CAUSAL store performed by die d: applied there, then sent to the seven other dies (R264). -/
def State.storeCausal (s : State) (d pa : Nat) (bytes : List Byte) : State :=
  let v := (s.vc d).set d ((s.vc d).getD d 0 + 1)
  let key : Key := (clockSum v, d)
  let s := s.setDie d { s.die d with vc := v }
  let s := s.applyCausal d pa bytes key
  (List.range Config.dies).foldl (fun s e =>
    if e = d then s
    else s.setDie e { s.die e with
      inbound := (s.die e).inbound ++ [{ src := d, clock := v, pa, bytes, key }] }) s

/-- Whether a waiting write can be delivered (R264). -/
def State.deliverable (s : State) (e : Nat) (w : Inbound) : Bool :=
  w.clock.getD w.src 0 == (s.vc e).getD w.src 0 + 1 && coversBut w.src (s.vc e) w.clock

/-- Delivers one waiting write to die e: the clock advances and the data is applied where a copy is held. -/
def State.deliver (s : State) (e k : Nat) : State :=
  match (s.die e).inbound[k]? with
  | none => s
  | some w =>
    if !s.deliverable e w then s
    else
      let s := s.setDie e { s.die e with
        inbound := (s.die e).inbound.eraseIdx k
        vc := (s.vc e).set w.src (w.clock.getD w.src 0) }
      s.applyCausal e w.pa w.bytes w.key

/-- Delivers to die e whatever has become deliverable, at most fuel writes. -/
def State.deliverAll (s : State) (e : Nat) : Nat → State
  | 0 => s
  | fuel + 1 =>
    match (s.die e).inbound.findIdx? (s.deliverable e) with
    | some k => (s.deliver e k).deliverAll e fuel
    | none => s

/-- A REPL store: applied at home, then forwarded to the copies of the other dies (R268). -/
def State.storeRepl (s : State) (pa : Nat) (bytes : List Byte) (tag : Nat) : State :=
  let h := homeDie pa
  let old := s.memRead pa bytes.length
  let bad := (coveredSectors pa bytes.length).filter s.poison.contains
  let s := (List.range Config.dies).foldl (fun s e =>
    if e = h then s
    else
      let k := s.die e
      let m := (List.range bytes.length).foldl (fun m j =>
        if (tget? m (pa + j)).isSome then m else tset m (pa + j) (old.getD j 0)) k.repl
      { s.setDie e { k with repl := m, replPoison := k.replPoison ++ bad.filter (!k.replPoison.contains ·) } with
        fwds := s.fwds ++ [{ die := e, pa, bytes, tag }] }) s
  s.memWrite pa bytes

/-- Applies forward k: the stores of one location reach one die in home order (R268). -/
def State.forward (s : State) (k : Nat) : State :=
  match s.fwds[k]? with
  | none => s
  | some f =>
    let earlier := (s.fwds.take k).any fun g =>
      g.die == f.die && decide (g.pa < f.pa + f.bytes.length) && decide (f.pa < g.pa + g.bytes.length)
    if earlier then s
    else
      let rest := s.fwds.eraseIdx k
      let m := (List.range f.bytes.length).foldl (fun m j =>
        let a := f.pa + j
        let more := rest.any fun g => g.die == f.die && decide (g.pa ≤ a) && decide (a < g.pa + g.bytes.length)
        if more then tset m a (f.bytes.getD j 0) else tdel m a) (s.die f.die).repl
      let full := coveredSectors f.pa f.bytes.length
      let bad := (s.die f.die).replPoison.filter fun k => !full.contains k
      { (s.setDie f.die { s.die f.die with repl := m, replPoison := bad }).snoop f.die f.pa f.bytes.length with
        fwds := rest }

/-- The forwards of die e are applied, in home order. -/
def State.forwardAll (s : State) (e : Nat) : Nat → State
  | 0 => s
  | fuel + 1 =>
    match s.fwds.findIdx? (·.die == e) with
    | some k => (s.forward k).forwardAll e fuel
    | none => s

/-- Die e delivers every write that waits for it and applies every forward to it: what a waiting write follows has been
sent before it, so R264 lets each be delivered. -/
def State.syncDie (s : State) (e : Nat) : State :=
  let n := (s.die e).inbound.length
  let s := if n = 0 then s else s.deliverAll e n
  if s.fwds.isEmpty then s else s.forwardAll e s.fwds.length

/-- Every other die delivers what waits for it: the stores of die d stand at their homes (R269, R270). -/
def State.syncHomes (s : State) (d : Nat) : State :=
  (List.range Config.dies).foldl (fun s e => if e = d then s else s.syncDie e) s

/-- The threads of core c observe what has been applied (R259, R273): its die delivers, and its L1 lines that are not local
go (notes/assumptions/51). -/
def State.observe (s : State) (c : Nat) : State := (s.syncDie (dieOf c)).l1Drop c

/-- Whether an ATOMIC store of die d may be applied at its home now (R267). -/
def State.atomicReady (s : State) (d pa : Nat) : Bool :=
  let h := homeDie pa
  d == h || coversBut d (s.vc h) (s.vc d)

/-- A store to an ATOMIC location, with the clock V of the writer's die (R267). -/
def State.storeAtomic (s : State) (v : List Word) (pa : Nat) (bytes : List Byte) : State :=
  let s := s.memWrite pa bytes
  { s with aclk := (List.range bytes.length).foldl (fun t j => tset t (pa + j) v) s.aclk }

/-- A store performed by die d under the page's attribute (R264, R267, R268, R272). An ATOMIC store needs
atomicReady. -/
def State.dieStore (s : State) (d pa : Nat) (attr : BitVec 2) (bytes : List Byte) (tag : Nat) : State :=
  if attr = 0 then s.storeCausal d pa bytes
  else if attr = 1 then s.storeAtomic (s.vc d) pa bytes
  else s.storeRepl pa bytes tag

/-- Whether a replayable node's staged lines have room for stores that are made together (R339). -/
def Node.stageRoom (nd : Node) (rs : List (Nat × Nat)) : Bool :=
  let new := ((rs.flatMap fun r => linePieces (r.2 / 128 + 2) r.1 r.2).map (lineOf ·.1)).eraseDups.filter fun l =>
    (tget? nd.staged l).isNone
  decide (nd.staged.length + new.length ≤ Config.stagingLines)

/-- Stages bytes of a replayable node (R339). -/
def Node.stage (nd : Node) (pa : Nat) (bytes : List Byte) : Node :=
  { nd with staged := (List.range bytes.length).foldl (fun t j =>
      let a := pa + j
      let l := tget (List.replicate 128 none) t (lineOf a)
      tset t (lineOf a) (l.set (a % 128) (some (bytes.getD j 0)))) nd.staged }

/-- A store of core c to one line: staged in a replayable node, else applied, with the core's L1 copy (R252,
R339). The tag names the store among the REPL forwards. -/
def State.coreStore (s : State) (c pa : Nat) (attr : BitVec 2) (bytes : List Byte) (tag : Nat) : State :=
  let s := s.fillSectors pa bytes.length
  if s.replayable c then s.modNode (s.nodeNum c) (·.stage pa bytes)
  else (s.dieStore (dieOf c) pa attr bytes tag).l1Update (s.l1Copy c pa) c pa bytes

/-- A read-modify-write at the home slice (R148, R267): the state after the home has applied the new value, an ATOMIC one
with the clock of the writer's die, and, for CAUSAL lines, sent it. The writer's die then takes delivery of what it can. -/
def State.homeStore (s : State) (c pa : Nat) (attr : BitVec 2) (bytes : List Byte) (tag : Nat) : State :=
  let h := homeDie pa
  let old := s.l1Copy c pa
  let s := if attr = 1 then s.storeAtomic (s.vc (dieOf c)) pa bytes else s.dieStore h pa attr bytes tag
  let s := s.l1Update old c pa bytes
  if attr = 0 ∧ dieOf c ≠ h then s.deliverAll (dieOf c) 64 else s

/-- Whether a step at pa's home by die d finds the clocks it needs: the home has delivered what d has seen, and d
what the home has (R258, R266, R269). -/
def State.stepReady (s : State) (d pa : Nat) : Bool :=
  let h := homeDie pa
  d == h || (covers (s.vc h) (s.vc d) && covers (s.vc d) (s.vc h))

end Sys2Proof.Machine
end

