-- ==== Sys2Proof/Machine/Unit.lean ====
section
/-! DEFINITION. Fetching a unit (R72, R83, R87), the access checks every unit shares (R31, R169), completing
a unit (R84, R85), and running it for the threads of a spray (R171, R172, R213). -/

namespace Sys2Proof.Machine

/-! ### Fetch -/

/-- How a fetch ends. -/
inductive Fetched where
  | unit (d : Decoded) (words : List Word)
  | page (va : Nat)
  | access (va kind : Nat)
  | wait
  | off (pa : Nat)
deriving DecidableEq, Repr

/-- A virtual address of the thread's region (R104, R139). -/
def regionVa (region : BitVec 25) (ea : Word) : Nat := region.toNat * 2 ^ 32 + ea.toNat

/-- One word fetched: the word or how the fetch ends, and the state. At an address that is no multiple of 4 these are the four
bytes from there on (DESIGN CHOICE, notes/assumptions/69). -/
def State.fetchWord (s : State) (c va : Nat) : (Word ⊕ Fetched) × State :=
  match s.translateFetch c va with
  | (.page, s) => (.inr (.page va), s)
  | (.access k, s) => (.inr (.access va k), s)
  | (.off pa, s) => (.inr (.off pa), s)
  | (.ok e, s) =>
    match s.readNow c (e.pa va) e.attr 4 with
    | .wait s => (.inr .wait, s)
    | .bytes bs _ s => (.inl (BitVec.ofNat 32 (ofBytes bs)), s)

/-- The words of the unit at pc: prefixes up to the instruction word, at most four words (R72, R82). -/
def State.fetchWords (s : State) (c : Nat) (region : BitVec 25) (pc : Word) : Nat → List Word ⊕ Fetched × State
  | 0 => .inl []
  | fuel + 1 =>
    match s.fetchWord c (regionVa region pc) with
    | (.inr f, s) => .inr (f, s)
    | (.inl w, s) =>
      if isPrefix w && fuel != 0 then
        match State.fetchWords s c region (pc + 4) fuel with
        | .inl ws => .inl (w :: ws)
        | .inr r => .inr r
      else .inl [w]

/-- The translations a fetch of one word learns. -/
def State.fetchLearn (s : State) (c : Nat) (region : BitVec 25) (pc : Word) (n : Nat) : State :=
  (List.range n).foldl (fun s k => (s.fetchWord c (regionVa region (pc + BitVec.ofNat 32 (4 * k)))).2) s

/-- The unit at the thread's PC (R87 items 1..4). -/
def State.fetchUnit (s : State) (c : Nat) (th : Thread) : Fetched × State :=
  match s.fetchWords c th.region th.pc 4 with
  | .inr (f, s) => (f, s)
  | .inl ws => (.unit (decodeUnit th.handler ws) ws, s.fetchLearn c th.region th.pc ws.length)

/-! ### How a unit can stop a thread -/

/-- Why a unit does not complete for a thread. -/
inductive Stop where
  | trap (cls kind : Nat) (info : List Word) (after : Bool)   -- after: restart PC is the next unit (R115)
  | page (va : Nat)                                           -- page fault: parks (R146)
  | presence (ea : Nat)                                       -- parks: the first byte of the absent line (R144)
  | grant (need : Nat) (grow : Option Nat) (ents : List Nat)  -- parks with REGGRANT (R24, R107, R194)
  | await (kind : BitVec 2) (o : Nat) (target : Word)         -- parks with AWAIT (R112)
  | hold                                                      -- does not issue now (PIPE, BUDGET)
  | off (pa : Nat)                                            -- a table outside memory (R301)
deriving DecidableEq, Repr

/-- How a unit that completes leaves the thread: at the next unit with its latch, at a target, or gone from the
spray by its own effect. -/
inductive Done where
  | go (l : Latch)
  | jump (pc : Word)
  | gone
deriving DecidableEq, Repr

abbrev Res := Except Stop (State × Done)

/-- A fault of class 1 (R309). -/
def flt {α : Type} (kind : Nat) (info : List Word) : Except Stop α := .error (.trap 1 kind info false)

/-- A trap of class 0 (R309). -/
def trp {α : Type} (kind : Nat) (info : List Word) (after : Bool) : Except Stop α := .error (.trap 0 kind info after)

def wd (n : Nat) : Word := BitVec.ofNat 32 n

/-- The latch of a 32-bit result (R18). -/
def latch (v : Word) : Done := .go (.val (v.setWidth 64))

/-- The latch of a 64-bit result (R18). -/
def latch64 (v : DWord) : Done := .go (.val v)

/-- The latch of a unit without a result (R18). -/
def noLatch : Done := .go (.val 0)

/-- The latch of a predicate result (R18). -/
def latchBit (b : Bool) : Done := .go (.val (if b then 1 else 0))

/-! ### The access conditions (R31) -/

def Thread.ix (th : Thread) (k : Nat) : BitVec 16 :=
  match k with | 0 => th.win.ix0 | 1 => th.win.ix1 | 2 => th.win.ix2 | _ => th.win.ix3

def Thread.ar (th : Thread) (n : Bool) : ArrPair := if n then th.win.ar1 else th.win.ar0

/-- Scratchpad offset of element ix of an array pair (R21). -/
def arrElem (a : ArrPair) (ix : BitVec 16) : Nat := (a.base.toNat + 4 * ix.toNat) % 2 ^ 32

/-- Scratchpad offset of axN's element (R21). -/
def Thread.axElem (th : Thread) (n : Bool) : Nat := arrElem (th.ar n) (th.ix (if n then 1 else 0))

/-- The window fault of a field that names n registers from code (R17). -/
def windowFault (w : Window) (code n : Nat) : Except Stop Unit :=
  match (List.range n).find? fun j => decide (w.alloc ≤ w.wbase + code + j) with
  | some j => flt 1 [wd code, wd (w.wbase + code + j)]
  | none => .ok ()

/-- R31 item 3 over the fields in their order. -/
def checkWindow (w : Window) (rs : List Rd) (ds : List Wr) : Except Stop Unit := do
  rs.forM fun r => match r with
    | .f (.w k) n => windowFault w k.toNat n
    | .run k n => windowFault w k n
    | _ => .ok ()
  ds.forM fun r => match r with
    | .f (.w k) n => windowFault w k.toNat n
    | .run k n => windowFault w k n
    | _ => .ok ()

/-- The index-bounds fault of axN (R21). -/
def boundsFault (th : Thread) (n : Bool) : Except Stop Unit :=
  let ix := th.ix (if n then 1 else 0)
  if (th.ar n).lim.toNat ≤ ix.toNat then flt 2 [wd n.toNat, wd ix.toNat, wd (th.ar n).lim.toNat] else .ok ()

/-- R31 item 4: sources before the destination. -/
def checkBounds (th : Thread) (rs : List Rd) (ds : List Wr) : Except Stop Unit := do
  rs.forM fun r => match r with | .f (.ax n) _ => boundsFault th n | _ => .ok ()
  ds.forM fun r => match r with | .f (.ax n) _ => boundsFault th n | _ => .ok ()

/-- The index-bounds fault of an ARR element (R152): a source for MOVX, a destination for STX. -/
def checkElemBounds (th : Thread) (i : Instr) : Except Stop Unit :=
  match i.elem with
  | none => .ok ()
  | some (n, k) =>
    let ix := th.ix k.toNat
    let ar := th.ar n
    if ar.lim.toNat ≤ ix.toNat then flt 2 [wd n.toNat, wd k.toNat, wd ix.toNat, wd ar.lim.toNat] else .ok ()

/-- The allocation entries a list of reads touches. -/
def readEnts (w : Window) (rs : List Rd) : List Nat :=
  rs.flatMap fun r => match r with
    | .f (.w k) n => (List.range n).map (w.wbase + k.toNat + ·)
    | .run k n => (List.range n).map (w.wbase + k + ·)
    | _ => []

/-- The allocation entries a list of writes touches. -/
def writeEnts (w : Window) (ds : List Wr) : List Nat :=
  ds.flatMap fun r => match r with
    | .f (.w k) n => (List.range n).map (w.wbase + k.toNat + ·)
    | .run k n => (List.range n).map (w.wbase + k + ·)
    | _ => []

/-- R31 item 7: the register copy fault (R24). Entries freed while an older thread of the lane waits are held for
it (R226). -/
def checkCopy (k : Core) (t : Nat) (th : Thread) (es : List Nat) : Except Stop Unit :=
  let need := es.filter fun e => !th.win.isOwn e
  if need.isEmpty then .ok ()
  else if k.freeEnts (posPart t) (posLane t) < need.length ∨ k.olderWaiter t th then
    .error (.grant need.length none need)
  else .ok ()

/-- A poisoned register is consumed by the unit that reads it (R334, R338). -/
def checkPoison (k : Core) (t : Nat) (th : Thread) (es : List Nat) : Except Stop Unit :=
  match es.find? fun e => (k.entry t e).2 with
  | some e => if th.win.alloc ≤ e then .ok () else flt 29 [2, wd e, 0]
  | none => .ok ()

/-! ### Scratchpad lines and elements (R144, R233..R235) -/

def Core.lineAttr (k : Core) (line : Nat) : LineAttr := tget .reset k.attrs line

/-- Lines that n bytes at offset o touch (R231). -/
def linesOf (o n : Nat) : List Nat :=
  if n = 0 then [] else (List.range ((o + n - 1) / 128 + 1 - o / 128)).map (o / 128 + ·)

/-- Presence of the lines of a program access (R144, R234): parks while a copy is in flight, else the presence
fault. -/
def checkPresent (k : Core) (o n : Nat) : Except Stop Unit :=
  match (linesOf o n).find? fun l => !(k.lineAttr l).pres with
  | none => .ok ()
  | some l => if (k.lineAttr l).pend = 0 then flt 22 [wd o] else .error (.presence (max o (l * 128)))

/-- A program store to an engine-owned line (R144, R235). -/
def checkOwned (k : Core) (o n : Nat) : Except Stop Unit :=
  if (linesOf o n).any fun l => (k.lineAttr l).own then flt 13 [wd o] else .ok ()

/-- A poisoned scratchpad word is consumed by a load (R338). -/
def checkSpPoison (k : Core) (o n : Nat) : Except Stop Unit :=
  match (List.range n).find? fun j => k.spPoison.contains ((o + j) / 4) with
  | some j => flt 29 [1, wd (o + j), 0]
  | none => .ok ()

/-- Reads n bytes of scratchpad (R251). -/
def Core.spRead (k : Core) (o n : Nat) : List Byte := cellsRead k.sp o n

/-- Words of the scratchpad that a write of n bytes at o covers whole: their poison clears (R334). -/
def wordsCovered (o n : Nat) (w : Nat) : Bool := decide (o ≤ w * 4) && decide (w * 4 + 4 ≤ o + n)

/-- Writes scratchpad bytes, with no change of attributes. -/
def Core.spPut (k : Core) (o : Nat) (bs : List Byte) : Core :=
  { k with sp := cellsWrite k.sp o bs
           spPoison := if k.spPoison.isEmpty then [] else k.spPoison.filter fun w => !wordsCovered o bs.length w }

/-- A program store: bytes written at once, tag 0 and sw set on each line, and copies in flight into the line note it
(R67, R144, R233). -/
def Core.spStore (k : Core) (o : Nat) (bs : List Byte) : Core :=
  let k := k.spPut o bs
  let ls := linesOf o bs.length
  { k with attrs := ls.foldl (fun t l => tset t l { tget LineAttr.reset t l with tag := 0, sw := true }) k.attrs
           copies := k.copies.map fun cp =>
             if cp.dstSp then { cp with stored := ls.filter cp.lines.contains ++ cp.stored } else cp }

/-- The ax elements a unit writes must not be engine-owned (R144). -/
def checkAxOwned (k : Core) (th : Thread) (ds : List Wr) : Except Stop Unit :=
  ds.forM fun r => match r with | .f (.ax n) _ => checkOwned k (th.axElem n) 4 | _ => .ok ()

/-- The ax elements a unit reads must be present, and not poisoned (R21, R338). -/
def checkAxPresent (k : Core) (th : Thread) (rs : List Rd) : Except Stop Unit :=
  rs.forM fun r => match r with
    | .f (.ax n) _ => do checkPresent k (th.axElem n) 4; checkSpPoison k (th.axElem n) 4
    | _ => .ok ()

/-- The ax elements that a unit writes and reads (R21, R144). -/
def checkElems (k : Core) (th : Thread) (rs : List Rd) (ds : List Wr) : Except Stop Unit := do
  checkAxOwned k th ds
  checkAxPresent k th rs

/-- A unit's own ax destination, as its body checks it after its alignment and bounds (R169 item 3). -/
def State.dstOwned (s : State) (c t : Nat) (d : Dst) : Except Stop Unit :=
  match s.thr? c t with | some th => checkAxOwned (s.core c) th [.f d 1] | none => .ok ()

/-- A unit's own ax sources, as its body checks them after every condition of R169. -/
def State.srcsPresent (s : State) (c t : Nat) (fs : List Src) : Except Stop Unit :=
  match s.thr? c t with | some th => checkAxPresent (s.core c) th (fs.map (.f · 1)) | none => .ok ()

/-! ### Operand values -/

/-- The value of latch bk (R18). -/
def Thread.latchVal (th : Thread) (k : Nat) : DWord :=
  match th.lats[k]? with
  | some (.val v) => v
  | _ => 0

/-- Src(f), 32 bits (R15, R88). -/
def State.src (s : State) (c t : Nat) (f : Src) : Word :=
  match s.thr? c t with
  | none => 0
  | some th =>
    match f with
    | .w k => ((s.core c).entry t (th.win.wbase + k.toNat)).1
    | .b k => (th.latchVal k.toNat).setWidth 32
    | .zr => 0
    | .it => th.it
    | .ax n => BitVec.ofNat 32 (ofBytes ((s.core c).spRead (th.axElem n) 4))

/-- Joins a pair of registers, low half first (R16). -/
def pair (lo hi : Word) : DWord := hi ++ lo

/-- Src(f), a pair of 64 bits (R16). -/
def State.src64 (s : State) (c t : Nat) (f : Src) : DWord :=
  match f with
  | .w k => pair (s.reg c t k.toNat) (s.reg c t (k.toNat + 1))
  | .b k => match s.thr? c t with | some th => th.latchVal k.toNat | none => 0
  | _ => 0

/-- Src(f), as a number of n = 32 or 64 bits. -/
def State.srcN (s : State) (c t : Nat) (w : Bool) (f : Src) : Nat :=
  if w then (s.src64 c t f).toNat else (s.src c t f).toNat

/-- Dst(f, v), 32 bits (R15, R88): a register, an ax element (a program store), or the latch only. -/
def State.dst (s : State) (c t : Nat) (d : Dst) (v : Word) : State :=
  match d with
  | .zr => s
  | .w k => s.setReg c t k.toNat v
  | .ax n =>
    match s.thr? c t with
    | some th => s.modCore c fun k => k.spStore (th.axElem n) (toBytes 4 v.toNat)
    | none => s

/-- Dst(f, v), a pair of 64 bits (R16). -/
def State.dst64 (s : State) (c t : Nat) (d : Dst) (v : DWord) : State :=
  match d with
  | .w k => (s.setReg c t k.toNat (v.setWidth 32)).setReg c t (k.toNat + 1) ((v >>> 32).setWidth 32)
  | _ => s

/-! ### Completing and stopping -/

/-- The PC after the unit that executes. -/
def State.nextPc (s : State) (th : Thread) : Word := th.pc + BitVec.ofNat 32 (4 * s.cur.len)

/-- The end of a chain: latches are discarded and the thread goes back to the PC table at pc (R85, R213); the mark of an
AWAIT of the chain that was not reissued goes. A partition in a debug step halts the thread again (R355). -/
def State.chainEnd (s : State) (c t : Nat) (th : Thread) (pc : Word) : State :=
  let s := if th.retry = 0 then s else s.modCore c (·.countRetry th)
  let th := { th with pc := pc, head := pc, lats := [], retry := 0, prog := none
                      mark := th.mark.filter fun m => m.head != th.head
                      rrCount := th.rrCount + th.rrChain + 1, rrChain := 0 }
  if (s.part c (posPart t)).stepping th.uid then s.setThr c t th.parkHalt
  else s.setThr c t { th with st := .ready, readyAt := s.cycle }

/-- The thread without the log of a block transfer and without the registers of its later beats (R150). -/
def Thread.dropBlock (th : Thread) : Thread :=
  match th.log with
  | some l => if l.kind = 3 then { th with log := none, pend := th.pend.filter (·.engine != 1) } else th
  | none => th

/-- A unit completes for a thread: with chain bit 1, and fewer than 16 units so far, the next unit belongs to its
chain and finds the latch (R84); otherwise the chain ends (R85). -/
def State.complete (s : State) (c t : Nat) (i : Instr) (l : Latch) : State :=
  match s.thr? c t with
  | none => s
  | some th =>
    let th := if i.isSync && !th.rrStop && guardHolds th.win.preds i.guard then { th with rrIndex := th.rrIndex + 1 } else th
    let th := if i.isBlk then th.dropBlock else th
    let th := { th with released := false }
    if i.chain && decide (th.lats.length < 15) then
      s.setThr c t { th with pc := s.nextPc th, lats := l :: th.lats, rrChain := th.rrChain + 1, prog := none }
    else s.chainEnd c t th (s.nextPc th)

/-- A taken branch: pc heads a new chain (R84). -/
def State.jumpTo (s : State) (c t : Nat) (pc : Word) : State :=
  match s.thr? c t with
  | none => s
  | some th => s.chainEnd c t { th with released := false } pc

/-- Rolls a replayable node back when one of its threads or engines consumes poison (R341): its contexts end, its staged
lines and commit list are discarded; the scheduler then writes its record (failed), unless firmware kills the node in that
cycle (R347). -/
def State.rollback (s : State) (n : Nat) (info : List Word) : State :=
  match tget? s.nodes n with
  | none => s
  | some nd =>
    let s := (s.sendRec nd.ten (plainRec 2 7 (wd nd.attempts :: info) nd.record)).2
    let s := s.notify nd.ten 4
    let on (s : State) (c : Nat) : Bool := (s.core c).ctx.any (·.node == n)
    let fell := (s.cycle, nd.cores.filter (on s))
    let s := nd.cores.foldl (fun s c => if on s c then s.killCore c else s) s
    { s.modNode n fun nd =>
        { nd with staged := [], commits := [], cores := [], placing := false, placed := false, failed := true, fell } with
      tileRecs := s.tileRecs.filter (·.node != n)
      signals := if s.signals.contains nd.ten then s.signals else nd.ten :: s.signals }

/-- A page fault of a thread: the record, and the FAULT entry with its token (R146, R217, R308). -/
def State.pageFault (s : State) (c t : Nat) (th : Thread) (va : Nat) (ipc : Word) : State :=
  let (tok, s) := s.sendRec (s.core c).tenancy (thrRec 2 1 0 th c t ipc 0 [] va)
  let s := s.bump c (posPart t) 30 1
  s.setThr c t (th.park (Wait.of 2 (BitVec.ofNat 64 (va / 2 ^ 16)) tok 0))

/-- A thread with a logged access that has found no mapping stops at this unit (R305): parks with FAULT; with an
access fault or poison to raise, takes it here (R306). -/
def State.stopDeferred (s : State) (c t : Nat) (th : Thread) (l : OpLog) : State :=
  match l.phase with
  | .walking => s
  | .paged tok =>
    (s.bump c (posPart t) 14 1).setThr c t (th.park (Wait.of 2 (BitVec.ofNat 64 (regionVa th.region l.ea / 2 ^ 16)) tok 0))
  | .failed kind info =>
    let th := { th with log := none, pend := th.pend.filter fun p => p.engine != 3 }
    (s.setThr c t th).takeTrap c t 1 kind info th.head l.pc l.inst

/-- Counts a chain that will restart at its head (R85, R353). -/
def State.countRestart (s : State) (c t : Nat) (e : Stop) : State :=
  match e with
  | .page _ | .presence _ | .grant .. | .await .. => s.bump c (posPart t) 14 1
  | _ => s

/-- A chain that a TRAP has ended: it is whole (R115, R345, R361). -/
def State.trapEnds (s : State) (c t : Nat) (th : Thread) : State :=
  (s.modCore c (·.countRetry th)).setThr c t { th with rrCount := th.rrCount + th.rrChain + 1, rrChain := 0 }

/-- A unit that does not complete for a thread (R85, R113, R144, R146, R218). -/
def State.stopAt (s : State) (c t : Nat) (e : Stop) : State :=
  let s := s.countRestart c t e
  match s.thr? c t with
  | none => s
  | some th =>
    match e with
    | .hold => s
    | .off pa => { s with bad := some pa }
    | .trap cls kind info after =>
      match th.log with
      | some l =>
        if l.kind ≠ 3 then s.stopDeferred c t th l
        else if after then (s.trapEnds c t th).takeTrap c t cls kind info (s.nextPc th) th.pc s.cur.word
        else if cls = 1 ∧ kind = 29 ∧ s.replayable c then s.rollback (s.nodeNum c) info
        else s.takeTrap c t cls kind info th.head th.pc s.cur.word
      | none =>
        if after then (s.trapEnds c t th).takeTrap c t cls kind info (s.nextPc th) th.pc s.cur.word
        else if cls = 1 ∧ kind = 29 ∧ s.replayable c then s.rollback (s.nodeNum c) info
        else s.takeTrap c t cls kind info th.head th.pc s.cur.word
    | .page va => s.pageFault c t th va th.pc
    | .presence ea => s.setThr c t (th.park (Wait.of 5 (BitVec.ofNat 64 ea) 0 0))
    | .grant need grow ents =>
      let s := if ents.isEmpty then s else s.bump c (posPart t) 16 1
      s.setThr c t { th.park (Wait.of 3 0 (wd need) 0) with need := need, grow := grow, copyNew := ents }
    | .await kind o target =>
      s.setThr c t (th.park (Wait.of (if kind = 2 then 5 else 4) (BitVec.ofNat 64 o) target kind))

/-- A checker mismatch in the unit (R332): the first restarts the chain, the second raises the pipeline-error
trap. -/
def State.residue (s : State) (c t : Nat) (checker : Nat) : State :=
  match s.thr? c t with
  | none => s
  | some th =>
    if th.retry = 0 then
      let th := { th.toHead with st := .ready, readyAt := s.cycle, retry := 1 }
      ((s.bump c (posPart t) 15 1).bump c (posPart t) 14 1).setThr c t
        (if (s.part c (posPart t)).stepping th.uid then th.parkHalt else th)
    else
      let s := s.modCore c fun k =>
        { k with ercore := if k.ercore.toNat / 2 ^ 16 % 256 = 0xFF then k.ercore else k.ercore + 0x10000 }
      s.takeTrap c t 0 7 [wd checker, th.pc] th.head th.pc s.cur.word

/-! ### Record and replay (R360, R361) -/

/-- The log entry's address of synchronising unit j of a stamped item; none when it is not logged. -/
def State.rrEntry (s : State) (c : Nat) (th : Thread) : Option Nat :=
  let rr := (s.ten (s.core c).tenancy).rr.toNat
  let le := min 12 (bits rr 61 58)
  let b1 := min 16 (bits rr 57 53)
  let b2 := min 16 (bits rr 52 48)
  let lvl := fun (w : Word) => if w = 0xFFFFFFFF then 0 else w.toNat
  match th.tmpl, s.nodeOf c with
  | some _, some nd =>
    if th.rrStop ∨ 2 ^ le ≤ th.rrIndex then none
    else
      let key := ((lvl th.item0 - nd.first.toNat) * 2 ^ (b1 + b2)).lor ((lvl th.item1 * 2 ^ b2).lor (lvl th.item2))
      some (bits rr 39 0 * 4096 + key * 8 * 2 ^ le + 8 * th.rrIndex)
  | _, _ => none

/-- At issue of a synchronising unit: record mode writes entry j; compare mode raises the divergence trap on a
mismatch, and the thread then stops comparing (R361). -/
def State.rrIssue (s : State) (c t : Nat) (th : Thread) (i : Instr) : Except (Nat × Nat × State) State :=
  let mode := bits (s.ten (s.core c).tenancy).rr.toNat 63 62
  if !i.isSync || mode == 0 || mode == 3 then .ok s
  else
    match s.rrEntry c th with
    | none => .ok s
    | some pa =>
      let n := th.rrCount + th.rrChain + 1
      if mode = 1 then .ok (s.physWrite pa (toBytes 4 n ++ toBytes 4 th.pc.toNat))
      else
        let s := s.fillSectors pa 4
        let r := ofBytes (s.physRead pa 4)
        if r = n % 2 ^ 32 then .ok s
        else .error (r, n, s.setThr c t { th with rrStop := true })

/-! ### Running a unit -/

/-- The checks every unit shares before its own effect, in the order of R31: window, bounds, the unit's own header
and privilege conditions (pre), register copy fault, then the ax elements; a unit of the memory groups checks these in its
own body (R169). The copy fault of a call's link register comes before the budget rule (DESIGN CHOICE,
notes/assumptions/69). -/
def checkUnit (i : Instr) (pre : State → Nat → Nat → Except Stop Unit) (s : State) (c t : Nat) (th : Thread) :
    Except Stop Unit := do
  checkWindow th.win i.srcs i.dsts
  checkBounds th i.srcs []
  checkElemBounds th i
  checkBounds th [] i.dsts
  pre s c t
  checkCopy (s.core c) t th (writeEnts th.win i.dsts)
  if i.ordersAx then .ok () else checkElems (s.core c) th i.srcs i.dsts
  checkPoison (s.core c) t th (readEnts th.win i.consumed)

/-- The checks of a unit that begins; a unit between two of its steps has passed them (R162, R200). -/
def startUnit (i : Instr) (pre : State → Nat → Nat → Except Stop Unit) (s : State) (c t : Nat) (th : Thread) :
    Except Stop Unit :=
  if i.stepped && th.prog.isSome then .ok () else checkUnit i pre s c t th

/-- No condition of a unit's own between R31 items 4 and 7. -/
def noPre (_ : State) (_ _ : Nat) : Except Stop Unit := .ok ()

/-- Whether the unit reads or writes a register that a listed load has pending (R143). WGROW's d counts as written. -/
def Thread.touches (th : Thread) (i : Instr) (ps : List Pend) : Bool :=
  let ds := match i with | .wgrow d _ _ _ => [Wr.f d 1] | _ => i.dsts
  let es := readEnts th.win i.srcs ++ writeEnts th.win ds
  ps.any fun p => p.ents.any es.contains

/-- The logged access of a thread that stops it at this unit: by its group; or, once the walk has found no mapping, by a
register pending on the deferred load (R305). -/
def Thread.stopsAt (th : Thread) (i : Instr) : Option OpLog :=
  th.log.filter fun l => l.kind != 3 &&
    (i.stopsDeferred || (l.phase != .walking && th.touches i (th.pend.filter (·.engine == 3))))

/-- Counts a unit's lane operation (R353). -/
def State.countLane (s : State) (c t : Nat) (i : Instr) : State :=
  match i.laneEvent with | some e => s.bump c (posPart t) e 1 | none => s

/-- A thread operation, for one member of the spray (R171, R172). -/
def runOne (i : Instr) (pre : State → Nat → Nat → Except Stop Unit) (body : State → Nat → Nat → Res)
    (s : State) (t : Nat) : State :=
  let c := s.cur.core
  match s.thr? c t with
  | none => s
  | some th =>
    if !guardHolds th.win.preds i.guard then s.complete c t i (.val 0)
    else
      match th.stopsAt i with
      | some l => s.stopDeferred c t th l
      | none =>
        match s.cur.upset.filter (·.2 == t) with
        | some chk => s.residue c t chk.1
        | none =>
          match startUnit i pre s c t th with
          | .error e => s.stopAt c t e
          | .ok _ =>
            match s.rrIssue c t th i with
            | .error (r, n, s) => s.stopAt c t (.trap 0 8 [wd r, wd n, wd th.rrIndex] false)
            | .ok s =>
              match body s c t with
              | .error e => s.stopAt c t e
              | .ok (s, .go l) => (s.countLane c t i).complete c t i l
              | .ok (s, .jump pc) => s.jumpTo c t pc
              | .ok (s, .gone) => s

/-- A unit run for every member of the spray, in ascending lane order (R172). -/
def runThreads (i : Instr) (pre : State → Nat → Nat → Except Stop Unit) (body : State → Nat → Nat → Res)
    (s : State) : Host.Outcome State Fault Refusal :=
  .next (s.cur.members.foldl (runOne i pre body) s)

/-- One member's part in a spray operation before it is performed: whether it takes part. -/
def joinSpray (i : Instr) (pre : State → Nat → Nat → Except Stop Unit) (acc : State × List Nat) (t : Nat) :
    State × List Nat :=
  let (s, ps) := acc
  let c := s.cur.core
  match s.thr? c t with
  | none => (s, ps)
  | some th =>
    if !guardHolds th.win.preds i.guard then (s.complete c t i (.val 0), ps)
    else
      match th.stopsAt i with
      | some l => (s.stopDeferred c t th l, ps)
      | none =>
        match s.cur.upset.filter (·.2 == t) with
        | some chk => (s.residue c t chk.1, ps)
        | none =>
          match checkUnit i pre s c t th with
          | .error e => (s.stopAt c t e, ps)
          | .ok _ =>
            match s.rrIssue c t th i with
            | .error (r, n, s) => (s.stopAt c t (.trap 0 8 [wd r, wd n, wd th.rrIndex] false), ps)
            | .ok s => (s, ps ++ [t])

/-- How one participant of a spray operation completes. -/
def finishSpray (i : Instr) (f : Nat → Done) (s : State) (t : Nat) : State :=
  match f t with
  | .go l => s.complete s.cur.core t i l
  | .jump pc => s.jumpTo s.cur.core t pc
  | .gone => s

/-- A spray operation: performed once for the members whose guard is true (R172). What stops it stops every
participant. -/
def runSpray (i : Instr) (pre : State → Nat → Nat → Except Stop Unit)
    (body : State → Nat → List Nat → Except Stop (State × (Nat → Done))) (s : State) :
    Host.Outcome State Fault Refusal :=
  let (s, ps) := s.cur.members.foldl (joinSpray i pre) (s, [])
  if ps.isEmpty then .next s
  else
    match body s s.cur.core ps with
    | .error e => .next (ps.foldl (fun s t => s.stopAt s.cur.core t e) s)
    | .ok (s, f) => .next (ps.foldl (finishSpray i f) s)

end Sys2Proof.Machine
end

