-- ==== Sys2Proof/Machine/Access.lean ====
section
/-! DEFINITION. Program accesses to memory: effective addresses, alignment and bounds, translation, loads pending on
the scoreboard and their binding, stores (R139..R146, R249, R252, R305). -/

namespace Sys2Proof.Machine

/-! ### Sizes and addresses -/

/-- Bytes of a load size (R78). -/
def ldBytes (sz : LdSz) : Nat :=
  match sz with | .b8 | .s8 => 1 | .b16 | .s16 => 2 | .b32 => 4 | .b64 => 8

/-- Bytes of a store size (R78). -/
def stBytes (sz : StSz) : Nat := match sz with | .b8 => 1 | .b16 => 2 | .b32 => 4 | .b64 => 8

/-- Size codes of R78. -/
def ldCode (sz : LdSz) : Nat :=
  match sz with | .b8 => 0 | .s8 => 1 | .b16 => 2 | .s16 => 3 | .b32 => 4 | .b64 => 5
def stCode (sz : StSz) : Nat := match sz with | .b8 => 0 | .b16 => 2 | .b32 => 4 | .b64 => 5
def stOfCode (n : Nat) : Nat := match n with | 0 => 1 | 2 => 2 | 4 => 4 | _ => 8

/-- A loaded value, extended (R142). -/
def ldExtend (sz : LdSz) (v : Nat) : DWord :=
  match sz with
  | .s8 => BitVec.ofNat 64 (modInt 32 (sxInt v 8))
  | .s16 => BitVec.ofNat 64 (modInt 32 (sxInt v 16))
  | _ => BitVec.ofNat 64 v

/-- off := SX(EXT payload, 24) if EXT, else off5 x s (R142, R147). -/
def memOff (x : Option (BitVec 24)) (off : BitVec 5) (n : Nat) : Word :=
  match x with
  | some p => p.signExtend 32
  | none => BitVec.ofNat 32 (off.toNat * n)

/-- ea := (Src(a) + off) mod 2^32 (R142). -/
def State.effAddr (s : State) (c t : Nat) (a : Src) (off : Word) : Nat := (s.src c t a + off).toNat

/-- The misaligned-access fault (R141). -/
def checkAligned (ea n : Nat) : Except Stop Unit := if ea % n = 0 then .ok () else flt 10 [wd ea, wd n]

/-- The misaligned-access fault of an access of n bytes at ea, which an EXT offset that is no multiple of n meets as well
(R80, R141). -/
def checkAccess (x : Option (BitVec 24)) (ea n : Nat) : Except Stop Unit :=
  if x.any fun p => decide (p.toNat % n ≠ 0) then flt 10 [wd ea, wd n] else checkAligned ea n

/-- The scratchpad-bounds fault (R140). -/
def checkSpBounds (ea n : Nat) : Except Stop Unit :=
  if Config.spBytes < ea + n then flt 11 [wd ea, wd n] else .ok ()

/-- The access fault (R146, R168). -/
def accessFault {α : Type} (va kind : Nat) : Except Stop α := flt 12 [wd va, wd (va / 2 ^ 32), wd kind]

/-- The poison-consumed fault for global memory (R338). -/
def poisonInfo (va : Nat) : List Word := [0, wd va, wd (va / 2 ^ 32)]

/-- Translation of an access that cannot be deferred (R146, R305). -/
def State.xlate (s : State) (c t va : Nat) (acc : Acc) : Except Stop (TlbEntry × State) :=
  match s.translate c t va acc with
  | (.ok e, s) => .ok (e, s)
  | (.page, _) => .error (.page va)
  | (.access k, _) => accessFault va k
  | (.off pa, _) => .error (.off pa)

/-- The region address of an effective address of the thread at position t (R139). -/
def State.regionAddr (s : State) (c t ea : Nat) : Nat :=
  match s.thr? c t with
  | some th => regionVa th.region (wd ea)
  | none => ea

/-- Last-page hits, TLB misses (R353). -/
def State.countXlate (s : State) (c t va : Nat) : State :=
  let k := s.core c
  if ((tget? k.lastPage (laneOf t)).any (·.covers va)) then s.bump c (posPart t) 28 1
  else if k.tlb.any (·.covers va) then s
  else s.bump c (posPart t) 29 1

/-! ### Global loads -/

/-- Whether a REPL forward belongs to a store of the thread, or to an engine write of its core (R268, R273). -/
def State.owes (s : State) (c : Nat) (th : Thread) (f : ReplFwd) : Bool :=
  th.owing.contains f.tag || (s.core c).owing.contains f.tag

/-- Whether two ranges of bytes, each an address and a number, have one in common. -/
def rangesMeet (a b : Nat × Nat) : Bool := decide (a.1 < b.1 + b.2) && decide (b.1 < a.1 + a.2)

/-- Whether a late store touches any of n bytes at pa. -/
def LateStore.meets (w : LateStore) (pa n : Nat) : Bool := rangesMeet (w.pa, w.bytes.length) (pa, n)

/-- The late stores of a thread. -/
def Core.lateOf (k : Core) (th : Thread) : List LateStore := k.late.filter (·.uid == th.uid)

/-- The tile records of a thread that are due and not written: stores of the thread (R181). -/
def State.recordsOf (s : State) (c : Nat) (th : Thread) : List TileRec :=
  s.tileRecs.filter fun r => r.core == c && r.uid == th.uid

/-- Whether every global store of the thread has been applied (R252, R253). -/
def State.storesMade (s : State) (c : Nat) (th : Thread) : Bool :=
  ((s.core c).lateOf th).isEmpty && (s.recordsOf c th).isEmpty

/-- A store of the thread to the same bytes that is not applied yet, or a REPL one that its own die has not applied (R249,
R268). -/
def State.replOwed (s : State) (c : Nat) (th : Thread) (pa n : Nat) : Bool :=
  (s.core c).late.any (fun w => w.uid == th.uid && w.meets pa n)
    || s.fwds.any fun f => f.die == dieOf c && s.owes c th f
      && decide (f.pa < pa + n) && decide (pa < f.pa + f.bytes.length)

/-- A load of n bytes of one line, served now: by L1, or by the slice, which fills L1 unless an invalidation came between
the request and now (R252, R257, R265, R267). -/
def State.loadNow (s : State) (c pa : Nat) (attr : BitVec 2) (n : Nat) (fill : Bool) : Got :=
  match s.l1Hit c pa attr n with
  | some (bs, ks) => .bytes (s.overlay c pa bs) (s.consumes c pa n ks) s
  | none =>
    match s.readNow c pa attr n with
    | .bytes bs p s => .bytes bs p (if fill then s.l1Fill c pa attr else s)
    | .wait s => .wait s

/-- Whether a load of n bytes would meet poison now. -/
def State.seesPoison (s : State) (c pa : Nat) (attr : BitVec 2) (n : Nat) : Bool :=
  ((s.l1Hit c pa attr n).or (s.sliceRead (dieOf c) pa attr n)).any fun r => s.consumes c pa n r.2

/-- How an attempt to bind a load ends. -/
inductive Bound where
  | ok (v : DWord) (s : State)
  | wait (s : State)
  | poison (va : Nat)

/-- Binds a pending load of the thread at position t (R143, R249). -/
def State.bind (s : State) (c t : Nat) (p : Pend) : Bound :=
  match p.src with
  | .bound v => .ok v s
  | .global va pa attr =>
    match s.thr? c t with
    | none => .wait s
    | some th =>
      if s.replOwed c th pa (ldBytes p.sz) then .wait s
      else
        let hit := (s.l1Hit c pa attr (ldBytes p.sz)).isSome
        match s.loadNow c pa attr (ldBytes p.sz) (p.acqs == (s.core c).acqs) with
        | .wait s => .wait s
        | .bytes bs poisoned s =>
          if poisoned then .poison va
          else .ok (ldExtend p.sz (ofBytes bs)) (s.bump c (posPart t) (if hit then 22 else 23) 1)

/-- Whether a load's value is fixed (bound) (R248). -/
def Pend.isBound (p : Pend) : Bool := match p.src with | .bound _ => true | _ => false

/-- Whether a load is performed as a fence counts it: bound and, into an ax element, written there (R251, R253). Entries of
engines are none of the thread's loads. -/
def Pend.settled (p : Pend) : Bool := (p.isBound && p.ax.isNone) || p.engine == 2 || p.engine == 4

/-- The bytes that a pending load reads which is neither bound nor deferred: address and number. -/
def Pend.span (p : Pend) : Option (Nat × Nat) :=
  match p.src with
  | .bound _ => none
  | .global _ q _ => if p.engine = 3 then none else some (q, ldBytes p.sz)

/-- Whether a pending load that is not bound reads any of n bytes at pa. -/
def Pend.reads (p : Pend) (pa n : Nat) : Bool := p.span.any (rangesMeet · (pa, n))

/-- Of pending loads in program order, those that an access of n bytes at pa must find bound: the ones that read a byte of
it, and the ones that read a byte of one of those and precede it (R249, R255). -/
def overlapping (ps : List Pend) (pa n : Nat) : List Pend :=
  (ps.foldr (fun p (acc : List Pend × List (Nat × Nat)) =>
    match p.span with
    | some r => if acc.2.any (rangesMeet r) then (p :: acc.1, r :: acc.2) else acc
    | none => acc) ([], [(pa, n)])).1

/-- The unit that the thread at position t executes in its spray; a key of no unit where it is in none. -/
def State.unitKey (s : State) (c t : Nat) : UnitKey :=
  match s.thr? c t with
  | some th => match th.st with | .spray id => (posPart t, id, th.pc) | _ => (4, 0, 0)
  | none => (4, 0, 0)

/-- Where a thread's store or atomic operation of unit u stands that is still to be applied: waiting to issue, or in the
operand log, with its effective address and size. -/
def Thread.laneStore (th : Thread) (t : Nat) (u : UnitKey) : Option (Option (Nat × Nat)) :=
  if posPart t = u.1 ∧ th.st = .spray u.2.1 ∧ th.pc = u.2.2 then some none
  else th.log.bind fun l =>
    match l.phase with
    | .failed _ _ => none
    | _ =>
      if posPart t = u.1 ∧ l.kind = 2 ∧ l.spray = u.2.1 ∧ l.pc = u.2.2 then some (some (l.ea.toNat, stOfCode l.sz))
      else none

/-- The other lanes of unit u, in ascending order, whose store or atomic operation is still to be applied to bytes that n
bytes at va (physical pa) have in common, and whether it is in an operand log: a lane that waits to issue has the address
that ea gives, or any where it gives none (R145, R148). -/
def State.laneStores (s : State) (c t : Nat) (u : UnitKey) (n va pa : Nat) (ea : Nat → Option Nat) : List (Nat × Bool) :=
  let meets (e : Nat × Thread) (r : Nat × Nat) : Bool :=
    let v := regionVa e.2.region (wd r.1)
    rangesMeet (v, r.2) (va, n) ||
      match (s.translate c e.1 v .store).1 with | .ok x => rangesMeet (x.pa v, r.2) (pa, n) | _ => false
  let mine := (s.core c).threads.filterMap fun e =>
    if e.1 = t then none
    else match e.2.laneStore e.1 u with
      | none => none
      | some none => if (ea e.1).all fun a => meets e (a, n) then some (e.1, false) else none
      | some (some r) => if meets e r then some (e.1, true) else none
  (List.range Config.lanes).flatMap fun l => mine.filter fun e => posLane e.1 == l

/-- Whether a lower lane of the unit that the thread at position t executes is to be applied first (R145, R148). -/
def State.laneWaits (s : State) (c t n va pa : Nat) (ea : Nat → Nat) : Bool :=
  (s.laneStores c t (s.unitKey c t) n va pa fun u => some (ea u)).any fun e => decide (posLane e.1 < posLane t)

/-- Whether a lower lane of the spray is still at the unit that the thread at position t executes: scratchpad accesses of a
unit take their places in ascending lane order (R145, R251). -/
def State.lowerMember (s : State) (c t : Nat) : Bool :=
  let u := s.unitKey c t
  (s.core c).threads.any fun e =>
    posPart e.1 == u.1 && decide (posLane e.1 < posLane t) && e.2.st == .spray u.2.1 && e.2.pc == u.2.2

/-- Binds the listed loads in order; none when one must wait or meets poison, with the state so far (R249). -/
def State.bindList (s : State) (c t : Nat) : List Pend → Bool × State
  | [] => (true, s)
  | p :: ps =>
    match s.bind c t p with
    | .ok v s =>
      State.bindList (s.modThr c t fun th =>
        { th with pend := th.pend.map fun q => if q.id = p.id then { q with src := .bound v } else q }) c t ps
    | .wait s => (false, s)
    | .poison _ => (false, s)

/-- Binds every earlier load of the thread to the bytes that an access of n bytes at pa touches: accesses of one
thread to one location are performed in program order (R249). It waits for the core's late stores to these bytes, but for
those of unit u. -/
def State.bindBeside (s : State) (c t pa n : Nat) (u : UnitKey) : Bool × State :=
  match s.thr? c t with
  | none => (true, s)
  | some th =>
    if (s.core c).late.any (fun w => w.meets pa n && w.unit != u) then (false, s)
    else s.bindList c t (overlapping th.pend pa n)

/-- Binds the thread's earlier loads of the bytes, after every late store of the core to them. -/
def State.bindEarlier (s : State) (c t pa n : Nat) : Bool × State := s.bindBeside c t pa n (4, 0, 0)

/-- Makes entries private with the values they show (R24, R149). -/
def Core.ownEnts (k : Core) (t : Nat) (es : List Nat) : Core :=
  es.foldl (fun k e =>
    match k.thr? t with
    | some th =>
      if th.win.isOwn e then k
      else
        let (v, p) := k.entry t e
        k.setThr t { th with win := { th.win with ents := tset th.win.ents e (if p then .poisoned v else .own v) } }
    | none => k) k

/-- Allocation entries and the ax element a load's destination names. -/
def Thread.target (th : Thread) (d : Dst) (n : Nat) : List Nat × Option Nat :=
  match d with
  | .w k => ((List.range n).map (th.win.wbase + k.toNat + ·), none)
  | .ax m => ([], some (th.axElem m))
  | .zr => ([], none)

def dstCode (d : Dst) : Nat :=
  match d with | .w k => k.toNat | .zr => 124 | .ax n => 126 + n.toNat

/-- A load issues: its destination is pending (R143). Engine 0, or 3 for a deferred load (R356). -/
def State.issueLoad (s : State) (c t : Nat) (d : Dst) (sz : LdSz) (src : LoadSrc) (engine : Nat) : Res :=
  match s.thr? c t with
  | none => .ok (s, noLatch)
  | some th =>
    let (es, ax) := th.target d (if sz = .b64 then 2 else 1)
    let id := (s.core c).nextOp + 1
    let p : Pend := { id, pc := th.pc, reg := dstCode d, engine, ents := es, ax, latch := d == .zr, sz, src
                      acqs := (s.core c).acqs, spray := (s.unitKey c t).2.1 }
    let s := s.modCore c fun k => { (k.ownEnts t es) with nextOp := id }
    let s := s.modThr c t fun th => { th with pend := th.pend ++ [p] }
    .ok (s, if d = .zr then .go (.load id) else noLatch)

/-- A load's data arrives: its destination takes the value and is no longer pending (R143). -/
def State.deliverLoad (s : State) (c t : Nat) (p : Pend) (v : DWord) : State :=
  let s := s.modThr c t fun th =>
    { th with pend := th.pend.filter (·.id != p.id)
              lats := th.lats.map fun l => if l = .load p.id then .val v else l }
  let s := match p.ents with
    | [e] => (s.setEnt c t e (v.setWidth 32)).countTags c (posPart t) [v.setWidth 32]
    | [e, f] =>
      ((s.setEnt c t e (v.setWidth 32)).setEnt c t f ((v >>> 32).setWidth 32)).countTags c (posPart t)
        [v.setWidth 32, (v >>> 32).setWidth 32]
    | _ => s
  match p.ax with
  | some o => s.modCore c (·.spStore o (toBytes 4 (v.toNat % 2 ^ 32)))
  | none => s

/-- A load that met poison (R338): a replayable node is rolled back (R341). Otherwise a load whose value the
running chain waits for stops the thread at its chain head; any other one is a failed access, raised where the thread
next stops, as R306 places the faults of deferred accesses (notes/assumptions/13). -/
def State.poisonLoad (s : State) (c t : Nat) (th : Thread) (p : Pend) (va : Nat) : State :=
  if s.replayable c then s.rollback (s.nodeNum c) (poisonInfo va)
  else if p.latch ∧ th.lats.contains (.load p.id) then
    (s.setThr c t { th with pend := th.pend.filter (·.id != p.id) }).takeTrap c t 1 29 (poisonInfo va) th.head p.pc 0
  else
    match th.log with
    | some _ => s
    | none =>
      s.setThr c t { th with
        pend := th.pend.map fun q => if q.id = p.id then { q with engine := 3 } else q
        log := some { pc := p.pc, ea := wd va, kind := 1, sz := ldCode p.sz, dst := p.reg, beat := 0, data := 0
                      ent := 0, inst := 0, phase := .failed 29 (poisonInfo va), spray := 0, walk := none } }

/-! ### Stores -/

/-- Applies a store of the thread at position t to one line, under a tag. -/
def State.storeTagged (s : State) (c t pa : Nat) (attr : BitVec 2) (bytes : List Byte) (tag : Nat) : State :=
  let s := s.coreStore c pa attr bytes tag
  if attr = 2 then s.modThr c t fun th => { th with owing := tag :: th.owing } else s

/-- Applies a store of the thread at position t to one line. -/
def State.storeBytes (s : State) (c t pa : Nat) (attr : BitVec 2) (bytes : List Byte) : State :=
  let (tag, s) := s.draw
  s.storeTagged c t pa attr bytes tag

/-- Performs a store of the thread at position t to one line: earlier loads of the thread to the bytes are bound
first; an ATOMIC store waits for its home (R249, R267). Answers whether it was performed. -/
def State.storeNow (s : State) (c t pa : Nat) (attr : BitVec 2) (bytes : List Byte) : Bool × State :=
  match s.bindEarlier c t pa bytes.length with
  | (false, s) => (false, s)
  | (true, s) =>
    if attr = 1 ∧ s.replayable c = false ∧ s.atomicReady (dieOf c) pa = false then (false, s)
    else (true, (s.storeBytes c t pa attr bytes).bump c (posPart t) 25 bytes.length)

/-- The store of an STG, or a piece of an STM's beat, to a virtual address: applied now, or, where the issue slot says
so, put off (R252, notes/assumptions/63). The stores of a replayable node are staged now (R339). -/
def State.storeUnit (s : State) (c t va pa : Nat) (attr : BitVec 2) (bytes : List Byte) : Bool × State :=
  if s.delay && !s.replayable c then
    let unit := s.unitKey c t
    match s.bindBeside c t pa bytes.length unit with
    | (false, s) => (false, s)
    | (true, s) =>
      let (tag, s) := s.draw
      let w : LateStore := { tag, unit, uid := (s.thr? c t).elim 0 (·.uid), va, pa, attr, bytes }
      (true, (s.modCore c fun k => { k with late := k.late ++ [w] }).bump c (posPart t) 25 bytes.length)
  else s.storeNow c t pa attr bytes

/-- Of the late stores g of one unit, those that meet the stores ws, those that meet these, and so on: stores of a spray's
lanes to one location are consecutive in its coherence order (R261). -/
def lateCluster (g ws : List LateStore) : Nat → List LateStore
  | 0 => ws
  | fuel + 1 => lateCluster g (g.filter fun w => ws.any fun v => w.meets v.pa v.bytes.length) fuel

/-- A late store is applied. A FENCE.rel of scope .f that orders it before later stores needs it at its home (R269). -/
def State.applyOne (s : State) (c : Nat) (w : LateStore) : State :=
  let s := s.modCore c fun q => { q with late := q.late.filter (·.tag != w.tag) }
  match (s.core c).byUid w.uid with
  | some (t, th) =>
    let s := s.storeTagged c t w.pa w.attr w.bytes w.tag
    if th.relWait.home.contains w.tag then s.syncHomes (dieOf c) else s
  | none => s.storeTagged c 4096 w.pa w.attr w.bytes w.tag

/-- Late store k of a core is applied, with those of its unit that meet it: after the earlier ones to these bytes, and at an
ATOMIC page once the home is ready (R252, R261, R267). -/
def State.applyLate (s : State) (c k : Nat) : State :=
  let late := (s.core c).late
  match late[k]? with
  | none => s
  | some w =>
    let g := late.filter (·.unit == w.unit)
    let ws := lateCluster g [w] g.length
    let before (v : LateStore) : Bool :=
      (late.takeWhile (·.tag != v.tag)).any fun x => x.unit != w.unit && x.meets v.pa v.bytes.length
    if ws.any before then s
    else if ws.any fun v => v.attr == 1 && !s.atomicReady (dieOf c) v.pa then s
    else ws.foldl (State.applyOne · c ·) s

/-- The late stores of a core from the k-th one on are applied, those that can be. -/
def State.applyLates (s : State) (c k : Nat) : Nat → State
  | 0 => s
  | fuel + 1 =>
    let u := s.applyLate c k
    u.applyLates c (if (u.core c).late.length < (s.core c).late.length then k else k + 1) fuel

/-- The late stores of every core are applied. -/
def State.applyAllLate (s : State) : State :=
  if s.cores.any fun e => !e.2.late.isEmpty then
    s.cores.foldl (fun s e => s.applyLates e.1 0 e.2.late.length) s
  else s

/-- The staging-overflow fault of stores that a replayable node makes together, each an address and a number of bytes
(R339). -/
def State.stageAll (s : State) (c : Nat) (rs : List (Nat × Nat)) : Except Stop Unit :=
  match s.nodeOf c with
  | some nd => if nd.flag 0 ∧ nd.stageRoom rs = false then flt 28 [] else .ok ()
  | none => .ok ()

/-- The staging-overflow fault of one store. -/
def State.checkStage (s : State) (c pa n : Nat) : Except Stop Unit := s.stageAll c [(pa, n)]

/-! ### Deferred accesses (R305..R307) -/

/-- The operand log of a deferred access, whose walk begins: it follows the tables as they stand (R305, R317). -/
def State.defer (s : State) (c t kind ea sz dst : Nat) (data : DWord) : State :=
  let id := (s.unitKey c t).2.1
  (s.walkFill (s.core c).tenancy (s.regionAddr c t ea)).modThr c t fun th =>
    let acc : Acc := if kind = 1 then .load else .store
    { th with log := some { pc := th.pc, ea := wd ea, kind, sz, dst, beat := 0, data, ent := 0
                            inst := s.cur.word, phase := .walking, spray := id
                            walk := some (s.walkFor (s.core c).tenancy (regionVa th.region (wd ea)) acc) } }

/-- How the walk of a logged access ends: as the walk in flight does, else as one that begins now (R305, R317). -/
def State.logWalk (s : State) (c t : Nat) (th : Thread) (l : OpLog) : Walk × State :=
  let va := regionVa th.region l.ea
  match l.walk with
  | some (.ok e) =>
    (.ok e, if (s.ten (s.core c).tenancy).inv.getLsbD 63 then s else s.learn c (laneOf t) va e)
  | some w => (w, s)
  | none => s.translate c t va (if l.kind = 1 then .load else .store)

/-- What a walk of logged access l that has ended means for a thread that is parked on that access (R305, R317): it parks for
its new token where it has one, and wakes else. -/
def State.afterWalk (s : State) (c t : Nat) (l : OpLog) : State :=
  match s.thr? c t with
  | none => s
  | some th =>
    if th.st = .parked ∧ th.wait.reason = 2 ∧ th.wait.key.toNat = regionVa th.region l.ea / 2 ^ 16 then
      match th.log with
      | some { phase := .paged tok, .. } => s.setThr c t { th with wait := { th.wait with arg := tok } }
      | some { phase := .walking, .. } => s
      | _ => s.wakeThr c t false
    else s

/-- Whether the store in the operand log of the thread at position t can be applied now: its walk finds a mapping, and
everything before it is done. -/
def State.logReady (s : State) (c t : Nat) : Bool × State :=
  match s.thr? c t with
  | none => (true, s)
  | some th =>
    match th.log with
    | none => (true, s)
    | some l =>
      match s.logWalk c t th l with
      | (.ok e, s) =>
        let pa := e.pa (regionVa th.region l.ea)
        if e.attr = 1 ∧ s.replayable c = false ∧ s.atomicReady (dieOf c) pa = false then (false, s)
        else s.bindEarlier c t pa (stOfCode l.sz)
      | _ => (false, s)

/-- Applies the store in the operand log of the thread at position t, which can be applied. -/
def State.logStore (s : State) (c t : Nat) : State :=
  match s.thr? c t with
  | none => s
  | some th =>
    match th.log with
    | none => s
    | some l =>
      match s.logWalk c t th l with
      | (.ok e, s) =>
        let pa := e.pa (regionVa th.region l.ea)
        let n := stOfCode l.sz
        match s.checkStage c pa n with
        | .error _ => s.modThr c t fun th => { th with log := some { l with phase := .failed 28 [] } }
        | .ok _ =>
          let s := (s.storeNow c t pa e.attr (toBytes n l.data.toNat)).2
          (s.modThr c t fun th => { th with log := none }).afterWalk c t l
      | _ => s

/-- Whether the stores of the listed lanes can all be applied now: those in operand logs, and those that wait to issue, of
which ready says so. -/
def State.lanesReady (s : State) (c : Nat) (ready : State → Nat → Bool × State) : List (Nat × Bool) → Bool × State
  | [] => (true, s)
  | (t, logged) :: ts =>
    match if logged then s.logReady c t else ready s t with
    | (true, s) => s.lanesReady c ready ts
    | r => r

/-- Performs the logged access of a thread, reading no register (R305): the walk first. A load's data is bound and
written at once. Nothing changes while the access must wait for a clock or a fill. A store waits until those of its unit's
other lanes to the same bytes can be applied too: they are consecutive, in ascending lane order (R145, R261). -/
def State.performLog (s : State) (c t : Nat) : State :=
  match s.thr? c t with
  | none => s
  | some th =>
    match th.log with
    | none => s
    | some l =>
      let va := regionVa th.region l.ea
      let fail (s : State) (kind : Nat) (info : List Word) : State :=
        s.modThr c t fun th => { th with log := some { l with phase := .failed kind info } }
      match s.logWalk c t th l with
      | (.off pa, s) => { s with bad := some pa }
      | (.access k, s) => fail s 12 [wd va, wd (va / 2 ^ 32), wd k]
      | (.page, s) =>
        let (tok, s) := s.sendRec (s.core c).tenancy (thrRec 2 1 0 th c t l.pc 0 [] va)
        (s.bump c (posPart t) 30 1).modThr c t fun th => { th with log := some { l with phase := .paged tok } }
      | (.ok e, s) =>
        if l.kind = 1 then
          match th.pend.find? (·.engine == 3) with
          | none => s.modThr c t fun th => { th with log := none }
          | some p =>
            let p := { p with src := .global va (e.pa va) e.attr }
            let earlier := overlapping (th.pend.takeWhile (·.id != p.id)) (e.pa va) (ldBytes p.sz)
            match s.bindList c t earlier with
            | (false, s) => s
            | (true, s) =>
              match s.bind c t p with
              | .wait s => s
              | .poison va =>
                if s.replayable c then s.rollback (s.nodeNum c) (poisonInfo va) else fail s 29 (poisonInfo va)
              | .ok v s => (s.deliverLoad c t p v).modThr c t fun th => { th with log := none }
        else
          let n := stOfCode l.sz
          let others := s.laneStores c t (posPart t, l.spray, l.pc) n va (e.pa va) fun _ => none
          if others.any fun o => !o.2 || decide (posLane o.1 < posLane t) then s
          else match s.checkStage c (e.pa va) n with
          | .error _ => fail s 28 []
          | .ok _ =>
            match s.lanesReady c (fun s _ => (false, s)) ((t, true) :: others) with
            | (false, s) => s
            | (true, s) => ((t, true) :: others).foldl (fun s o => s.logStore c o.1) s

end Sys2Proof.Machine
end

