-- ==== Sys2Proof/Machine/Int.lean ====
section
/-! DEFINITION. Integer instructions, immediates, SEL and UNI (R92..R99). -/

namespace Sys2Proof.Machine

/-- Fields of a MODE prefix, or 0 without one (R88). -/
def modeN (m : Option Mode) : Bool := m.any (·.n)
def modeSat (m : Option Mode) : Bool := m.any (·.sat)
def modeW (m : Option Mode) : Bool := Mode.wOf m

/-- The width of an integer instruction: 64 under W (R94). -/
def width (w : Bool) : Nat := if w then 64 else 32

/-- Clamps to the n-bit range, unsigned under N (R94). -/
def clampInt (n : Nat) (uns : Bool) (v : Int) : Int :=
  let lo : Int := if uns then 0 else -(2 ^ (n - 1) : Nat)
  let hi : Int := if uns then (2 ^ n : Nat) - 1 else (2 ^ (n - 1) : Nat) - 1
  if v < lo then lo else if hi < v then hi else v

/-- The n-bit pattern of a result, saturated under SAT (R94). -/
def intOut (n : Nat) (m : Option Mode) (v : Int) : Nat :=
  modInt n (if modeSat m then clampInt n (modeN m) v else v)

/-- IADD, ISUB and IMUL on n-bit patterns (R94): the exact value of both operands read signed, or unsigned under
N, saturated under SAT. -/
def arith (op : Int → Int → Int) (m : Option Mode) (n x y : Nat) : Nat :=
  intOut n m (op (readInt n (modeN m) x) (readInt n (modeN m) y))

/-- IMULW: the 64-bit product of 32-bit operands (R94). -/
def mulWide (m : Option Mode) (x y : Nat) : Nat :=
  modInt 64 (readInt 32 (modeN m) x * readInt 32 (modeN m) y)

def shlVal (n x y : Nat) : Nat := if n ≤ y then 0 else x * 2 ^ y % 2 ^ n
def shrVal (n x y : Nat) : Nat := if n ≤ y then 0 else x / 2 ^ y
def sarVal (n x y : Nat) : Nat :=
  if n ≤ y then (if sxInt x n < 0 then 2 ^ n - 1 else 0) else modInt n (sxInt x n / (2 ^ y : Nat))

def minVal (m : Option Mode) (n x y : Nat) : Nat :=
  if readInt n (modeN m) x ≤ readInt n (modeN m) y then x else y
def maxVal (m : Option Mode) (n x y : Nat) : Nat :=
  if readInt n (modeN m) x ≤ readInt n (modeN m) y then y else x

/-- Dst(d, r), 32 bits or a pair, with the latch (R18, R88). -/
def putN (s : State) (c t : Nat) (w : Bool) (d : Dst) (r : Nat) : Res :=
  if w then .ok (s.dst64 c t d (BitVec.ofNat 64 r), latch64 (BitVec.ofNat 64 r))
  else .ok (s.dst c t d (BitVec.ofNat 32 r), latch (BitVec.ofNat 32 r))

/-- A unit that writes f of two n-bit sources. -/
def body2 (w : Bool) (d : Dst) (a b : Src) (f : Nat → Nat → Nat) (s : State) (c t : Nat) : Res :=
  putN s c t w d (f (s.srcN c t w a) (s.srcN c t w b))

/-- A shift: the count is 32 bits under W too (R93). -/
def bodyShift (w : Bool) (d : Dst) (a b : Src) (f : Nat → Nat → Nat) (s : State) (c t : Nat) : Res :=
  putN s c t w d (f (s.srcN c t w a) (s.src c t b).toNat)

/-- A unit that writes f of one n-bit source. -/
def body1 (w : Bool) (d : Dst) (a : Src) (f : Nat → Nat) (s : State) (c t : Nat) : Res :=
  putN s c t w d (f (s.srcN c t w a))

/-- IADD (R94): x + y. -/
def execIadd (m : Option Mode) (d : Dst) (a b : Src) (g : Guard) (ch : Bool) (s : State) :
    Host.Outcome State Fault Refusal :=
  runThreads (.iadd m d a b g ch) noPre (body2 (modeW m) d a b (arith (· + ·) m (width (modeW m)))) s

/-- ISUB (R94): x − y. -/
def execIsub (m : Option Mode) (d : Dst) (a b : Src) (g : Guard) (ch : Bool) (s : State) :
    Host.Outcome State Fault Refusal :=
  runThreads (.isub m d a b g ch) noPre (body2 (modeW m) d a b (arith (· - ·) m (width (modeW m)))) s

/-- IMUL (R94): x × y. -/
def execImul (m : Option Mode) (d : Dst) (a b : Src) (g : Guard) (ch : Bool) (s : State) :
    Host.Outcome State Fault Refusal :=
  runThreads (.imul m d a b g ch) noPre (body2 (modeW m) d a b (arith (· * ·) m (width (modeW m)))) s

/-- IMULW (R94): the 64-bit product, written to a pair. -/
def execImulw (m : Option Mode) (d : Dst) (a b : Src) (g : Guard) (ch : Bool) (s : State) :
    Host.Outcome State Fault Refusal :=
  runThreads (.imulw m d a b g ch) noPre
    (fun s c t => putN s c t true d (mulWide m (s.src c t a).toNat (s.src c t b).toNat)) s

/-- AND (R94). -/
def execAnd (m : Option Mode) (d : Dst) (a b : Src) (g : Guard) (ch : Bool) (s : State) :
    Host.Outcome State Fault Refusal :=
  runThreads (.and m d a b g ch) noPre (body2 (modeW m) d a b Nat.land) s

/-- OR (R94). -/
def execOr (m : Option Mode) (d : Dst) (a b : Src) (g : Guard) (ch : Bool) (s : State) :
    Host.Outcome State Fault Refusal :=
  runThreads (.or m d a b g ch) noPre (body2 (modeW m) d a b Nat.lor) s

/-- XOR (R94). -/
def execXor (m : Option Mode) (d : Dst) (a b : Src) (g : Guard) (ch : Bool) (s : State) :
    Host.Outcome State Fault Refusal :=
  runThreads (.xor m d a b g ch) noPre (body2 (modeW m) d a b Nat.xor) s

/-- SHL (R94). -/
def execShl (m : Option Mode) (d : Dst) (a b : Src) (g : Guard) (ch : Bool) (s : State) :
    Host.Outcome State Fault Refusal :=
  runThreads (.shl m d a b g ch) noPre (bodyShift (modeW m) d a b (shlVal (width (modeW m)))) s

/-- SHR (R94). -/
def execShr (m : Option Mode) (d : Dst) (a b : Src) (g : Guard) (ch : Bool) (s : State) :
    Host.Outcome State Fault Refusal :=
  runThreads (.shr m d a b g ch) noPre (bodyShift (modeW m) d a b (shrVal (width (modeW m)))) s

/-- SAR (R94). -/
def execSar (m : Option Mode) (d : Dst) (a b : Src) (g : Guard) (ch : Bool) (s : State) :
    Host.Outcome State Fault Refusal :=
  runThreads (.sar m d a b g ch) noPre (bodyShift (modeW m) d a b (sarVal (width (modeW m)))) s

/-- IMIN (R94). -/
def execImin (m : Option Mode) (d : Dst) (a b : Src) (g : Guard) (ch : Bool) (s : State) :
    Host.Outcome State Fault Refusal :=
  runThreads (.imin m d a b g ch) noPre (body2 (modeW m) d a b (minVal m (width (modeW m)))) s

/-- IMAX (R94). -/
def execImax (m : Option Mode) (d : Dst) (a b : Src) (g : Guard) (ch : Bool) (s : State) :
    Host.Outcome State Fault Refusal :=
  runThreads (.imax m d a b g ch) noPre (body2 (modeW m) d a b (maxVal m (width (modeW m)))) s

/-- SEL (R98): the selector is coded as a guard. -/
def execSel (gp : Option Guard) (d : Dst) (a b : Src) (sl : Guard) (ch : Bool) (s : State) :
    Host.Outcome State Fault Refusal :=
  runThreads (.sel gp d a b sl ch) noPre
    (fun s c t =>
      let ps := match s.thr? c t with | some th => th.win.preds | none => 0
      putN s c t false d (s.src c t (if guardHolds ps sl then a else b)).toNat) s

/-! ### UNI (R99) -/

/-- NEG on an n-bit pattern (R99). -/
def negVal (m : Option Mode) (n x : Nat) : Nat :=
  if modeSat m ∧ x = 2 ^ (n - 1) then 2 ^ (n - 1) - 1 else modInt n (-(sxInt x n))

/-- ABS on an n-bit pattern (R99). -/
def absVal (m : Option Mode) (n x : Nat) : Nat :=
  if modeSat m ∧ x = 2 ^ (n - 1) then 2 ^ (n - 1) - 1 else modInt n (sxInt x n).natAbs

/-- Leading zero bits of an n-bit pattern (R99). -/
def clzVal (n x : Nat) : Nat := if x = 0 then n else n - 1 - log2 x

/-- Trailing zero bits among the n of x, counted from bit k (R99). -/
def ctzFrom (x : Nat) : Nat → Nat → Nat
  | 0, k => k
  | f + 1, k => if bitOf x k then k else ctzFrom x f (k + 1)

def ctzVal (n x : Nat) : Nat := ctzFrom x n 0

/-- Bit i moved to bit n − 1 − i (R99). -/
def brevVal : Nat → Nat → Nat
  | 0, _ => 0
  | n + 1, x => b2n (bitOf x 0) * 2 ^ n + brevVal n (x / 2)

/-- Byte i moved to byte n/8 − 1 − i (R99). -/
def bswapVal (n x : Nat) : Nat := ofBytes (toBytes (n / 8) x).reverse

/-- MOV (R99). -/
def execMov (m : Option Mode) (d : Dst) (a : Src) (g : Guard) (ch : Bool) (s : State) :
    Host.Outcome State Fault Refusal :=
  runThreads (.mov m d a g ch) noPre (body1 (modeW m) d a id) s

/-- NOT (R99). -/
def execNot (m : Option Mode) (d : Dst) (a : Src) (g : Guard) (ch : Bool) (s : State) :
    Host.Outcome State Fault Refusal :=
  runThreads (.not m d a g ch) noPre (body1 (modeW m) d a fun x => 2 ^ width (modeW m) - 1 - x) s

/-- NEG (R99). -/
def execNeg (m : Option Mode) (d : Dst) (a : Src) (g : Guard) (ch : Bool) (s : State) :
    Host.Outcome State Fault Refusal :=
  runThreads (.neg m d a g ch) noPre (body1 (modeW m) d a (negVal m (width (modeW m)))) s

/-- ABS (R99). -/
def execAbs (m : Option Mode) (d : Dst) (a : Src) (g : Guard) (ch : Bool) (s : State) :
    Host.Outcome State Fault Refusal :=
  runThreads (.abs m d a g ch) noPre (body1 (modeW m) d a (absVal m (width (modeW m)))) s

/-- POPC (R99). -/
def execPopc (m : Option Mode) (d : Dst) (a : Src) (g : Guard) (ch : Bool) (s : State) :
    Host.Outcome State Fault Refusal :=
  runThreads (.popc m d a g ch) noPre (body1 (modeW m) d a (popcount (width (modeW m)))) s

/-- CLZ (R99). -/
def execClz (m : Option Mode) (d : Dst) (a : Src) (g : Guard) (ch : Bool) (s : State) :
    Host.Outcome State Fault Refusal :=
  runThreads (.clz m d a g ch) noPre (body1 (modeW m) d a (clzVal (width (modeW m)))) s

/-- CTZ (R99). -/
def execCtz (m : Option Mode) (d : Dst) (a : Src) (g : Guard) (ch : Bool) (s : State) :
    Host.Outcome State Fault Refusal :=
  runThreads (.ctz m d a g ch) noPre (body1 (modeW m) d a (ctzVal (width (modeW m)))) s

/-- BREV (R99). -/
def execBrev (m : Option Mode) (d : Dst) (a : Src) (g : Guard) (ch : Bool) (s : State) :
    Host.Outcome State Fault Refusal :=
  runThreads (.brev m d a g ch) noPre (body1 (modeW m) d a (brevVal (width (modeW m)))) s

/-- SXB (R99). -/
def execSxb (m : Option Mode) (d : Dst) (a : Src) (g : Guard) (ch : Bool) (s : State) :
    Host.Outcome State Fault Refusal :=
  runThreads (.sxb m d a g ch) noPre (body1 (modeW m) d a fun x => modInt (width (modeW m)) (sxInt x 8)) s

/-- SXH (R99). -/
def execSxh (m : Option Mode) (d : Dst) (a : Src) (g : Guard) (ch : Bool) (s : State) :
    Host.Outcome State Fault Refusal :=
  runThreads (.sxh m d a g ch) noPre (body1 (modeW m) d a fun x => modInt (width (modeW m)) (sxInt x 16)) s

/-- ZXB (R99). -/
def execZxb (m : Option Mode) (d : Dst) (a : Src) (g : Guard) (ch : Bool) (s : State) :
    Host.Outcome State Fault Refusal :=
  runThreads (.zxb m d a g ch) noPre (body1 (modeW m) d a fun x => x % 2 ^ 8) s

/-- ZXH (R99). -/
def execZxh (m : Option Mode) (d : Dst) (a : Src) (g : Guard) (ch : Bool) (s : State) :
    Host.Outcome State Fault Refusal :=
  runThreads (.zxh m d a g ch) noPre (body1 (modeW m) d a fun x => x % 2 ^ 16) s

/-- BSWAP (R99). -/
def execBswap (m : Option Mode) (d : Dst) (a : Src) (g : Guard) (ch : Bool) (s : State) :
    Host.Outcome State Fault Refusal :=
  runThreads (.bswap m d a g ch) noPre (body1 (modeW m) d a (bswapVal (width (modeW m)))) s

/-! ### Immediates (R95..R97) -/

/-- The 32-bit immediate of an EXT prefix: payload bits 19:0 above the instruction's 12 bits (R80). -/
def extImm12 (x : BitVec 20) (imm : BitVec 12) : BitVec 32 := x ++ imm

/-- IADDI's immediate as an integer: SX of 12 bits, or the 32-bit one sign-extended (R95). -/
def iaddiImm (x : Option (BitVec 20)) (imm : BitVec 12) : Int :=
  match x with
  | some p => sxInt (extImm12 p imm).toNat 32
  | none => sxInt imm.toNat 12

/-- The immediate of ANDI, ORI and XORI: ZX of 12 bits, or the 32-bit one (R95). -/
def logicImm (x : Option (BitVec 20)) (imm : BitVec 12) : Nat :=
  match x with
  | some p => (extImm12 p imm).toNat
  | none => imm.toNat

/-- IADDI (R95). -/
def execIaddi (x : Option (BitVec 20)) (gp : Option Guard) (m : Option Mode) (d : Dst) (a : Src) (imm : BitVec 12)
    (s : State) : Host.Outcome State Fault Refusal :=
  runThreads (.iaddi x gp m d a imm) noPre
    (body1 (modeW m) d a fun v =>
      arith (· + ·) m (width (modeW m)) v (modInt (width (modeW m)) (iaddiImm x imm))) s

/-- ANDI (R95). -/
def execAndi (x : Option (BitVec 20)) (gp : Option Guard) (d : Dst) (a : Src) (imm : BitVec 12) (s : State) :
    Host.Outcome State Fault Refusal :=
  runThreads (.andi x gp d a imm) noPre (body1 false d a fun v => Nat.land v (logicImm x imm)) s

/-- ORI (R95). -/
def execOri (x : Option (BitVec 20)) (gp : Option Guard) (d : Dst) (a : Src) (imm : BitVec 12) (s : State) :
    Host.Outcome State Fault Refusal :=
  runThreads (.ori x gp d a imm) noPre (body1 false d a fun v => Nat.lor v (logicImm x imm)) s

/-- XORI (R95). -/
def execXori (x : Option (BitVec 20)) (gp : Option Guard) (d : Dst) (a : Src) (imm : BitVec 12) (s : State) :
    Host.Outcome State Fault Refusal :=
  runThreads (.xori x gp d a imm) noPre (body1 false d a fun v => Nat.xor v (logicImm x imm)) s

/-- SHLI (R96). -/
def execShli (gp : Option Guard) (m : Option Mode) (d : Dst) (a : Src) (n : BitVec 6) (s : State) :
    Host.Outcome State Fault Refusal :=
  runThreads (.shli gp m d a n) noPre (body1 (modeW m) d a fun v => shlVal (width (modeW m)) v n.toNat) s

/-- SHRI (R96). -/
def execShri (gp : Option Guard) (m : Option Mode) (d : Dst) (a : Src) (n : BitVec 6) (s : State) :
    Host.Outcome State Fault Refusal :=
  runThreads (.shri gp m d a n) noPre (body1 (modeW m) d a fun v => shrVal (width (modeW m)) v n.toNat) s

/-- SARI (R96). -/
def execSari (gp : Option Guard) (m : Option Mode) (d : Dst) (a : Src) (n : BitVec 6) (s : State) :
    Host.Outcome State Fault Refusal :=
  runThreads (.sari gp m d a n) noPre (body1 (modeW m) d a fun v => sarVal (width (modeW m)) v n.toNat) s

/-- LUI (R97): imm19 << 13. -/
def execLui (gp : Option Guard) (d : Dst) (imm : BitVec 19) (s : State) : Host.Outcome State Fault Refusal :=
  runThreads (.lui gp d imm) noPre (fun s c t => putN s c t false d (imm.toNat * 2 ^ 13)) s

end Sys2Proof.Machine
end

