-- ==== Sys2Proof/Machine/Atom.lean ====
section
/-! DEFINITION. ATOMG and ATOMS (R147, R148). -/

namespace Sys2Proof.Machine

/-- The compare and the replacement value of a CAS group, or the operand and 0 of the other operations (R147). -/
def State.atomArgs (s : State) (c t : Nat) (w : Bool) (d : Dst) (op : AtomOp) : Nat × Nat :=
  match op, d with
  | .cas, .w k =>
    if w then ((s.src64 c t (.w k)).toNat, (s.src64 c t (.w (k + 2))).toNat)
    else ((s.src c t (.w k)).toNat, (s.src c t (.w (k + 1))).toNat)
  | .cas, _ => (0, 0)
  | _, _ => (s.srcN c t w d.toSrc, 0)

/-- The new value at the location (R147), n bits; x, y the operands. -/
def atomNew (m : Option Mode) (op : AtomOp) (n old x y : Nat) : Nat :=
  match op with
  | .add => (old + x) % 2 ^ n
  | .and => old.land x
  | .or => old.lor x
  | .xor => old.xor x
  | .min => minVal m n old x
  | .max => maxVal m n old x
  | .exch => x
  | .cas => if old = x then y else old

/-- Whether a read-modify-write by die d can be performed at the home of pa now (R148, R264, R267). -/
def State.rmwReady (s : State) (d pa : Nat) (attr : BitVec 2) : Bool :=
  if attr = 0 then s.stepReady d pa
  else if attr = 1 then s.atomicReady d pa
  else true

/-- ATOMG for one thread (R147, R148); the weir checks the step of each thread (R296, R298). -/
def atomgBody (x : Option (BitVec 24)) (m : Option Mode) (d : Dst) (a : Src) (op : AtomOp) (off : BitVec 5)
    (s : State) (c t : Nat) : Res := do
  let w := modeW m
  let n := if w then 8 else 4
  let ea := s.effAddr c t a (memOff x off n)
  checkAccess x ea n
  s.dstOwned c t d
  let va := s.regionAddr c t ea
  let (e, s) ← (s.countXlate c t va).xlate c t va .atomic
  if s.replayable c then flt 16 [wd ea, 0, wd 0x2C]
  else
    let pa := e.pa va
    s.srcsPresent c t [a, d.toSrc]
    if s.laneWaits c t n va pa fun u => s.effAddr c u a (memOff x off n) then .ok (s, .gone)
    else match s.bindEarlier c t pa n with
    | (false, s) => .ok (s, .gone)
    | (true, s) =>
      let s := s.fillSectors pa n
      if s.poisonedAt pa n then flt 29 (poisonInfo va)
      else if s.weirHolds (s.core c).tenancy 6 || !s.rmwReady (dieOf c) pa e.attr
          || (e.attr == 1 && !s.atomicBound (dieOf c) pa n) then .ok (s, .gone)
      else
        let old := ofBytes (s.memRead pa n)
        let (p, q) := s.atomArgs c t w d op
        let (tag, s) := s.draw
        let s := s.homeStore c pa e.attr (toBytes n (atomNew m op (8 * n) old p q)) tag
        let s := if e.attr = 2 then s.modThr c t fun th => { th with owing := tag :: th.owing } else s
        let ten := (s.core c).tenancy
        let s := (((s.charge ten 0 n).charge ten 6 1).bump c (posPart t) 40 1)
        putN s c t w d old

/-- ATOMS for one thread (R147, R148). -/
def atomsBody (x : Option (BitVec 24)) (m : Option Mode) (d : Dst) (a : Src) (op : AtomOp) (off : BitVec 5)
    (s : State) (c t : Nat) : Res := do
  let w := modeW m
  let n := if w then 8 else 4
  let ea := s.effAddr c t a (memOff x off n)
  checkAccess x ea n
  checkSpBounds ea n
  checkOwned (s.core c) ea n
  s.dstOwned c t d
  s.srcsPresent c t [a, d.toSrc]
  checkPresent (s.core c) ea n
  checkSpPoison (s.core c) ea n
  let old := ofBytes ((s.core c).spRead ea n)
  let (p, q) := s.atomArgs c t w d op
  let s := (s.bump c (posPart t) 26 1).modCore c (·.spStore ea (toBytes n (atomNew m op (8 * n) old p q)))
  putN s c t w d old

/-- ATOMG (R147, R148). -/
def execAtomg (x : Option (BitVec 24)) (m : Option Mode) (d : Dst) (a : Src) (op : AtomOp) (g : Guard)
    (off : BitVec 5) (s : State) : Host.Outcome State Fault Refusal :=
  runThreads (.atomg x m d a op g off) noPre (atomgBody x m d a op off) s

/-- ATOMS (R147, R148). -/
def execAtoms (x : Option (BitVec 24)) (m : Option Mode) (d : Dst) (a : Src) (op : AtomOp) (g : Guard)
    (off : BitVec 5) (s : State) : Host.Outcome State Fault Refusal :=
  runThreads (.atoms x m d a op g off) noPre (atomsBody x m d a op off) s

end Sys2Proof.Machine
end

