-- ==== Sys2Proof/Machine/Block.lean ====
section
/-! DEFINITION. LDM and STM: one beat of at most 32 words at each issue (R149, R150). -/

namespace Sys2Proof.Machine

/-- Words of beat k of n (R149). -/
def beatWords (n k : Nat) : Nat := min 32 (n - 32 * k)

/-- The address and the first beat of a block unit: the log's, or the base register's (R149). -/
def State.blockStart (s : State) (c t : Nat) (b : Src) (off : BitVec 4) : Nat × Nat :=
  match s.thr? c t with
  | some th =>
    match th.log with
    | some l => if l.kind = 3 ∧ l.pc = th.pc then (l.ea.toNat, l.beat)
                else (((s.src c t b).toNat + 16 * off.toNat) % 2 ^ 32, 0)
    | none => (((s.src c t b).toNat + 16 * off.toNat) % 2 ^ 32, 0)
  | none => (0, 0)

/-- After beat k: the log holds the address and the beats completed, until the last (R149, R150). -/
def State.blockNext (s : State) (c t first addr k n : Nat) (es : List Nat) : State × Done :=
  if n ≤ 32 * (k + 1) then
    (s.modThr c t Thread.dropBlock, noLatch)
  else
    (s.modThr c t fun th =>
      let p : Pend := { id := 0, pc := th.pc, reg := first + 32 * (k + 1), engine := 1, ents := es, ax := none
                        latch := false, sz := .b32, src := .bound 0, acqs := 0, spray := 0 }
      { th with
        log := some { pc := th.pc, ea := wd addr, kind := 3, sz := 4, dst := 0, beat := k + 1, data := 0, ent := 0
                      inst := s.cur.word, phase := .walking, spray := 0, walk := none }
        pend := th.pend.filter (·.engine != 1) ++ (if es.isEmpty then [] else [p]) }, .gone)

/-- The pieces of a beat as physical addresses: translated whole before any of it is performed (R149, R150). -/
def State.beatPages (s : State) (c t : Nat) (acc : Acc) (addr n : Nat) : List (Nat × Nat) →
    Except Stop (List (Nat × BitVec 2 × Nat × Nat) × State)
  | [] => .ok ([], s)
  | (ea, k) :: ps => do
    let va := s.regionAddr c t ea
    let (e, s) ← (s.countXlate c t va).xlate c t va acc
    let (r, s) ← s.beatPages c t acc addr n ps
    .ok ((va, e.attr, e.pa va, k) :: r, s)

/-- The pieces of a beat of global memory by effective address, each within one line (R139, R149). -/
def beatPieces (addr n : Nat) : List (Nat × Nat) :=
  (linePieces 3 addr n).map fun p => (p.1 % 2 ^ 32, p.2)

/-- Loads the pieces of a beat; none when one must wait. -/
def State.beatLoad (s : State) (c t : Nat) : List (Nat × BitVec 2 × Nat × Nat) →
    Except Stop (Option (List Byte) × State)
  | [] => .ok (some [], s)
  | (va, attr, pa, k) :: ps =>
    match s.bindEarlier c t pa k with
    | (false, s) => .ok (none, s)
    | (true, s) =>
      match s.thr? c t with
      | none => .ok (none, s)
      | some th =>
        if s.replOwed c th pa k then .ok (none, s)
        else
          match s.loadNow c pa attr k true with
          | .wait s => .ok (none, s)
          | .bytes bs poisoned s =>
            if poisoned then flt 29 (poisonInfo va)
            else do
              let (r, s) ← s.beatLoad c t ps
              .ok (r.map (bs ++ ·), s)

/-- Whether every piece of an STM beat can be applied now, or put off (R252, R267). -/
def State.beatReady (s : State) (c t : Nat) : List (Nat × BitVec 2 × Nat × Nat) → Bool × State
  | [] => (true, s)
  | (_, attr, pa, k) :: ps =>
    let off := s.delay && !s.replayable c
    match s.bindBeside c t pa k (if off then s.unitKey c t else (4, 0, 0)) with
    | (false, s) => (false, s)
    | (true, s) =>
      if !off && attr == 1 && !s.replayable c && !s.atomicReady (dieOf c) pa then (false, s)
      else s.beatReady c t ps

/-- The pieces of a beat as physical addresses and numbers of bytes. -/
def beatRanges (ps : List (Nat × BitVec 2 × Nat × Nat)) : List (Nat × Nat) := ps.map fun p => (p.2.2.1, p.2.2.2)

/-- Whether the beat of a lane that waits can be applied now, or stops the lane. -/
def State.beatLane (s : State) (c t addr n : Nat) : Bool × State :=
  match s.beatPages c t .store addr n (beatPieces addr n) with
  | .error _ => (true, s)
  | .ok (ps, s) => s.beatReady c t ps

/-- Applies the pieces of an STM beat. -/
def State.beatStore (s : State) (c t : Nat) (bs : List Byte) : List (Nat × BitVec 2 × Nat × Nat) → State
  | [] => s
  | (va, attr, pa, k) :: ps =>
    ((s.storeUnit c t va pa attr (bs.take k)).2).beatStore c t (bs.drop k) ps

/-- Writes loaded words to consecutive entries. -/
def State.putWords (s : State) (c t e : Nat) (bs : List Byte) : Nat → State
  | 0 => s
  | n + 1 => (s.setEnt c t e (wd (fieldAt bs 0 4))).putWords c t (e + 1) (bs.drop 4) n

/-- Bytes of consecutive entries. -/
def State.getWords (s : State) (c t e : Nat) : Nat → List Byte
  | 0 => []
  | n + 1 => toBytes 4 ((s.core c).entry t e).1.toNat ++ s.getWords c t (e + 1) n

/-- One beat of LDM for one thread (R149). -/
def ldmBody (first : BitVec 7) (b : Src) (cnt : BitVec 6) (sp : Bool) (off : BitVec 4) (s : State) (c t : Nat) :
    Res := do
  let n := cnt.toNat + 1
  let (addr, k) := s.blockStart c t b off
  checkAligned addr 16
  if sp then checkSpBounds addr (4 * n) else .ok ()
  let base := match s.thr? c t with | some th => th.win.wbase + first.toNat | none => 0
  let es := (List.range n).map (base + ·)
  let s := if k = 0 then s.modCore c (·.ownEnts t es) else s
  let words := beatWords n k
  let at_ := (addr + 128 * k) % 2 ^ 32
  let left := es.drop (32 * (k + 1))
  if sp then
    if k = 0 then s.srcsPresent c t [b] else .ok ()
    checkPresent (s.core c) at_ (4 * words)
    checkSpPoison (s.core c) at_ (4 * words)
    let bs := (s.core c).spRead at_ (4 * words)
    if s.lowerMember c t then .ok (s, .gone)
    else .ok (((s.bump c (posPart t) 26 1).putWords c t (base + 32 * k) bs words).blockNext c t first.toNat addr k n left)
  else
    let (ps, s) ← s.beatPages c t .load addr n (beatPieces at_ (4 * words))
    if k = 0 then s.srcsPresent c t [b] else .ok ()
    let (r, s) ← s.beatLoad c t ps
    match r with
    | none => .ok (s, .gone)
    | some bs =>
      let s := (s.charge (s.core c).tenancy 0 (4 * words)).bump c (posPart t) 24 (4 * words)
      .ok ((s.putWords c t (base + 32 * k) bs words).blockNext c t first.toNat addr k n left)

/-- One beat of STM for one thread (R149). -/
def stmBody (first : BitVec 7) (b : Src) (cnt : BitVec 6) (sp : Bool) (off : BitVec 4) (s : State) (c t : Nat) :
    Res := do
  let n := cnt.toNat + 1
  let (addr, k) := s.blockStart c t b off
  checkAligned addr 16
  if sp then checkSpBounds addr (4 * n) else .ok ()
  let base := match s.thr? c t with | some th => th.win.wbase + first.toNat | none => 0
  let words := beatWords n k
  let at_ := (addr + 128 * k) % 2 ^ 32
  let bs := s.getWords c t (base + 32 * k) words
  if sp then
    checkOwned (s.core c) at_ (4 * words)
    if k = 0 then s.srcsPresent c t [b] else .ok ()
    if s.lowerMember c t then .ok (s, .gone)
    else .ok (((s.bump c (posPart t) 26 1).modCore c (·.spStore at_ bs)).blockNext c t first.toNat addr k n [])
  else
    let (ps, s) ← s.beatPages c t .store addr n (beatPieces at_ (4 * words))
    if k = 0 then s.srcsPresent c t [b] else .ok ()
    s.stageAll c (beatRanges ps)
    let start (u : Nat) : Nat := (s.blockStart c u b off).1
    let others := match ps with
      | (_, _, pa, _) :: _ =>
        s.laneStores c t (s.unitKey c t) (4 * n) (s.regionAddr c t addr) (pa - 128 * k) fun u => some (start u)
      | [] => []
    match s.beatReady c t ps with
    | (false, s) => .ok (s, .gone)
    | (true, s) =>
      match if n ≤ 32 then s.lanesReady c (fun s u => s.beatLane c u (start u) (4 * n)) others else (true, s) with
      | (false, s) => .ok (s, .gone)
      | (true, s) =>
        if others.any fun o => decide (posLane o.1 < posLane t) then .ok (s, .gone)
        else .ok (((s.beatStore c t bs ps).charge (s.core c).tenancy 0 (4 * words)).blockNext c t first.toNat addr k n [])

/-- LDM (R149, R150). -/
def execLdm (gp : Option Guard) (first : BitVec 7) (b : Src) (cnt : BitVec 6) (sp : Bool) (off : BitVec 4)
    (s : State) : Host.Outcome State Fault Refusal :=
  runThreads (.ldm gp first b cnt sp off) noPre (ldmBody first b cnt sp off) s

/-- STM (R149, R150). -/
def execStm (gp : Option Guard) (first : BitVec 7) (b : Src) (cnt : BitVec 6) (sp : Bool) (off : BitVec 4)
    (s : State) : Host.Outcome State Fault Refusal :=
  runThreads (.stm gp first b cnt sp off) noPre (stmBody first b cnt sp off) s

end Sys2Proof.Machine
end

