-- ==== Sys2Proof/Machine/Image.lean ====
section
/-! DEFINITION. What a context looks like in memory: wait-table entries, line attributes, operand logs, descriptors, the
register regions and the save area (R217, R220, R231, R307, R314), and what a restoration reads back from them. -/

namespace Sys2Proof.Machine

/-! ### Entries of stated layout -/

/-- The 16 bytes of a wait-table entry (R217). -/
def Wait.bytes (w : Wait) : List Byte :=
  let lo := w.akind.toNat * 2 ^ 12 + b2n w.met * 2 ^ 7 + b2n w.halted * 2 ^ 6 + b2n w.evicted * 2 ^ 5 + w.reason.toNat
  toBytes 4 lo ++ toBytes 4 w.arg.toNat ++ toBytes 8 w.key.toNat

/-- The entry that 16 bytes hold. -/
def Wait.ofBytes (b : List Byte) : Wait :=
  let lo := fieldAt b 0 4
  { key := BitVec.ofNat 64 (fieldAt b 8 8), arg := BitVec.ofNat 32 (fieldAt b 4 4), akind := BitVec.ofNat 2 (bits lo 13 12)
    met := bitOf lo 7, halted := bitOf lo 6, evicted := bitOf lo 5, reason := BitVec.ofNat 4 (bits lo 3 0) }

/-- The entry of a thread: a woken thread that has not reissued its AWAIT keeps the met mark (R112, R217). -/
def Thread.waitEntry (th : Thread) : Wait :=
  if th.st = .parked then th.wait
  else match th.mark with
    | some m => { Wait.reset with key := m.key, arg := m.arg, akind := m.kind, met := true }
    | none => Wait.reset

/-- A line's attribute word (R231). -/
def LineAttr.word (a : LineAttr) : Nat :=
  a.pend.toNat * 256 + a.tag.toNat * 16 + b2n a.sw * 8 + b2n a.own * 4 + b2n a.pres

/-- The attributes that a word holds. -/
def LineAttr.ofWord (n : Nat) : LineAttr :=
  { pend := BitVec.ofNat 4 (n / 256), tag := BitVec.ofNat 4 (n / 16), sw := bitOf n 3, own := bitOf n 2, pres := bitOf n 0 }

/-- The 32 bytes of an operand log (R307). -/
def OpLog.bytes (l : OpLog) : List Byte :=
  toBytes 4 l.pc.toNat ++ toBytes 4 l.ea.toNat ++ toBytes 1 l.kind ++ toBytes 1 l.sz ++ toBytes 1 l.dst ++ toBytes 1 l.beat
    ++ toBytes 8 l.data.toNat ++ toBytes 12 0

/-- The 16 bytes of a spawn bin (R220), as a number; none is open. -/
def binImage (b : Option Bin) (now : Nat) : Nat :=
  match b with
  | none => 0
  | some b =>
    b.entry.toNat * 2 ^ 71 + sumBy (fun t => 2 ^ (32 + posLane t)) b.tids + (b.due - now) % 2 ^ 13 * 2 ^ 19
      + (b.alloc / 8 - 1) % 32 * 2 ^ 14 + 1

/-! ### Descriptors (R314, R356) -/

def RowState.code (st : RowState) : Nat :=
  match st with | .bin => 1 | .ready => 2 | .spray _ => 3 | .held => 4 | .merged => 5 | .parked => 6

/-- An optional part of a descriptor: whether it is there, and its values. -/
def maybe {α : Type} (f : α → List Nat) (x : Option α) : List Nat := match x with | some v => 1 :: f v | none => [0]

/-- What a thread's descriptor holds, in the order of R314; clock is its $clock. The layout is the device's
(notes/assumptions/9). -/
def Core.descriptor (k : Core) (th : Thread) (clock : Nat) : List Nat :=
  let w := th.win
  let rank := (k.threads.filter fun e => decide (e.2.age < th.age)).length
  [th.region.toNat * 2 ^ 32 + th.pc.toNat, th.st.code, rank, w.alloc, w.wbase, w.preds.toNat]
    ++ [w.ix0, w.ix1, w.ix2, w.ix3].map (·.toNat)
    ++ [w.ar0.base.toNat, w.ar0.lim.toNat, w.ar1.base.toNat, w.ar1.lim.toNat, th.item0.toNat, th.item1.toNat, th.item2.toNat]
    ++ [b2n th.handler, th.evec.toNat, th.epc.toNat, th.ecause.toNat, th.einst.toNat] ++ th.einfo.map (·.toNat)
    ++ [th.ocCp, th.ocMx, th.ocGa, th.ocCo]
    ++ (List.range 4).flatMap (fun q => maybe (fun (l : List Word) => l.map (·.toNat)) (tget? th.errs q))
    ++ maybe (fun (b : Bracket) => [b.addr, b.tag.toNat, b.topen, b.pc.toNat, b.tid]) th.bracket
    ++ maybe (fun (l : OpLog) => l.bytes.map (·.toNat)) th.log ++ [clock]

/-- Byte o of a descriptor. -/
def Core.descByte (k : Core) (th : Thread) (clock o : Nat) : Byte := Config.descriptor (k.descriptor th clock) o

/-! ### Register regions (R210, R314) -/

/-- The private entries of a window, as owner halfword and value; own is the owner's part of the halfword. -/
def Window.image (p : Part) (own : Nat) (w : Window) : List (Nat × Word) :=
  ((List.range w.alloc).filter w.isOwn).map fun i => (own + i % 256, (entValue p entDepth w i).1)

/-- The 2,048 entries of a lane (R210): those of templates by number, then those of threads by slot, then free ones. Which
physical entry holds which is the device's (notes/assumptions/9). -/
def Core.laneImage (k : Core) (p l : Nat) : List (Nat × Word) :=
  let q := k.part p
  let ts := q.tmpls.flatMap fun e =>
    if e.2.evicted.contains l then [] else e.2.win.image q (2 * 2 ^ 14 + e.1 % 32 * 2 ^ 9)
  let hs := k.threads.flatMap fun e =>
    if posPart e.1 = p ∧ posLane e.1 = l ∧ !e.2.saved then
      e.2.win.image q ((if e.2.st = .bin then 3 else 1) * 2 ^ 14 + posSlot e.1 * 2 ^ 9)
    else []
  let es := ts ++ hs
  (es ++ List.replicate (Config.laneEntries - es.length) (0, 0)).take Config.laneEntries

/-- The lanes of a core in order. -/
def Core.regImage (k : Core) : List (Nat × Word) :=
  (List.range 4).flatMap fun p => (List.range Config.lanes).flatMap fun l => k.laneImage p l

/-- Width tags, four to a byte (R23, R314). -/
def tagBytes : List Word → List Byte
  | a :: b :: c :: d :: l =>
    BitVec.ofNat 8 ((widthTag a).toNat + (widthTag b).toNat * 4 + (widthTag c).toNat * 16 + (widthTag d).toNat * 64) :: tagBytes l
  | _ => []

/-! ### The save area (R314) -/

/-- What a slot or a weight bank adds to the header: state, header, binding. -/
def Slot.content (x : Option Slot) : List Nat :=
  match x with | none => [0, 0, 0] | some x => [1 + b2n x.dirty, x.hdr.toNat, x.bind.toNat]

def Bank.content (b : Bank) : List Nat := match b with | .empty => [0, 0, 0] | .ready h bind _ => [1, h.toNat, bind.toNat]

/-- The engine resume list: of each operation its class, PC, request or slot, and bytes delivered (R313, R315). -/
def Core.resumeList (k : Core) : List Nat :=
  (k.copies.flatMap fun x => [if x.gather then 2 else 0, x.pc.toNat, x.q, x.moved])
    ++ (k.mxq.flatMap fun x => [1, x.pc.toNat, x.srcNum, x.dstNum])
    ++ (k.colls.filter (·.counts)).flatMap fun x => [3, x.pc.toNat, x.id, b2n x.done]

/-- What the header of a save area holds, in the order of R314: the record, tenancy, gang size and index, the save areas of
the gang, $clock, slots, bank tags, bins, backlog, resume list. -/
def Core.header (k : Core) (record gang : Nat) (addrs : List Nat) (now : Nat) : List Nat :=
  [record, k.tenancy, gang, match k.ctx with | some x => x.index | none => 0] ++ addrs ++ [now + k.skew]
    ++ (List.range Config.slots).flatMap (fun n => Slot.content (tget? k.slots n))
    ++ k.bank0.content ++ k.bank1.content
    ++ ((List.range 4).flatMap fun p => (List.range 16).map fun b => binImage (tget? (k.part p).bins b) now)
    ++ (k.backlog.flatMap fun x => [x.entry.toNat, x.item.toNat, x.part]) ++ k.resumeList

/-- The save area of a core, from its first byte (R314). -/
def Core.saveImage (k : Core) (record gang : Nat) (addrs : List Nat) (now : Nat) : List Byte :=
  let head := k.header record gang addrs now
  let regs := k.regImage
  (List.range 0x10000).map (Config.saveHeader head ·)
    ++ (List.range 4096).flatMap (fun t => match k.thr? t with | some th => th.waitEntry.bytes | none => toBytes 16 0)
    ++ (List.range 4096).flatMap (fun t => match k.thr? t with
        | some th => (List.range 256).map (k.descByte th (now + k.skew + th.bias) ·)
        | none => toBytes 256 0)
    ++ regs.flatMap (fun e => toBytes 4 e.2.toNat) ++ regs.flatMap (fun e => toBytes 2 e.1) ++ tagBytes (regs.map (·.2))
    ++ cellsRead k.sp 0 Config.spBytes
    ++ (List.range 8192).flatMap (fun l => toBytes 2 (tget LineAttr.reset k.attrs l).word)
    ++ (List.range Config.cisternWords).flatMap (fun j => toBytes 4 (tget 0 k.cistern j).toNat)

/-- Bytes of a save area that are written. -/
def saveBytes : Nat := 0x4B4000

/-- Cells for bytes from address a upward. -/
def cellsFrom : Nat → List Byte → List Host.Cell
  | _, [] => []
  | a, b :: l => if b = 0 then cellsFrom (a + 1) l else (a, b) :: cellsFrom (a + 1) l

/-- Memory with bytes in the place of those from address a upward. -/
def cellsSplice (m : List Host.Cell) (a : Nat) (bs : List Byte) : List Host.Cell :=
  (m.filter fun e => decide (e.1 < a)) ++ cellsFrom a bs ++ m.filter fun e => decide (a + bs.length ≤ e.1)

/-- The cells of n bytes of memory from address a upward, counted from 0. -/
def cellsSlice (m : List Host.Cell) (a n : Nat) : List Host.Cell :=
  (m.filter fun e => decide (a ≤ e.1) && decide (e.1 < a + n)).map fun e => (e.1 - a, e.2)

/-! ### Restoring from the save area (R315) -/

/-- Numbers of w bytes that cells hold, by index; a 0 is not listed. -/
def numsOf (w : Nat) (m : List Host.Cell) : Tbl Nat :=
  m.foldl (fun t e => tset t (e.1 / w) (tget 0 t (e.1 / w) + e.2.toNat * 256 ^ (e.1 % w))) []

/-- Words that cells hold, by index; a word of 0 is not listed. -/
def wordsOf (m : List Host.Cell) : Tbl Word := (numsOf 4 m).map fun e => (e.1, BitVec.ofNat 32 e.2)

/-- A thread with its wait-table entry as memory holds it: the entry of a parked thread. -/
def Thread.rewait (th : Thread) (b : List Byte) : Thread := if th.st = .parked then { th with wait := Wait.ofBytes b } else th

/-- The register entries of a save area that are in use: place, owner halfword, value (R314). -/
def regsOf (m : List Host.Cell) (pa : Nat) : List (Nat × Nat × Word) :=
  let vals := wordsOf (cellsSlice m (pa + 0x120000) 0x100000)
  (numsOf 2 (cellsSlice m (pa + 0x220000) 0x80000)).map fun e => (e.1, e.2, tget 0 vals e.1)

/-- The entries of a lane that owners of a kind with a number hold: allocation index and value (R314). -/
def ownedBy (regs : List (Nat × Nat × Word)) (lane kind num : Nat) : List (Nat × Word) :=
  (regs.filter fun e => e.1 / Config.laneEntries == lane && e.2.1 / 2 ^ 14 == kind && e.2.1 / 2 ^ 9 % 32 == num).map fun e =>
    (e.2.1 % 256, e.2.2)

/-- A window whose private entries take the values that memory holds; a poisoned one stays poisoned. -/
def Window.reread (q : Part) (w : Window) (es : List (Nat × Word)) : Window :=
  es.foldl (fun w e =>
    let (v, bad) := entValue q entDepth w e.1
    if v = e.2 ∨ w.alloc ≤ e.1 ∨ !w.isOwn e.1 then w
    else { w with ents := tset w.ents e.1 (if bad then .poisoned e.2 else .own e.2) }) w

/-- A thread's private entries as the save area holds them; those of an evicted thread stand in the backing store. -/
def Core.rereadThr (k : Core) (regs : List (Nat × Nat × Word)) (t : Nat) (th : Thread) : Thread :=
  if th.saved then th
  else
    let kind := if th.st = .bin then 3 else 1
    { th with win := th.win.reread (k.part (posPart t)) (ownedBy regs (posPart t * 32 + posLane t) kind (posSlot t)) }

/-- A partition whose templates hold what the save area holds, in the first lane of each that is not evicted. -/
def Part.reread (q : Part) (regs : List (Nat × Nat × Word)) (p : Nat) : Part :=
  { q with tmpls := q.tmpls.map fun e =>
      match (List.range Config.lanes).find? (!e.2.evicted.contains ·) with
      | some l => (e.1, { e.2 with win := e.2.win.reread q (ownedBy regs (p * 32 + l) 2 (e.1 % 32)) })
      | none => e }

/-- The parts of a saved core that stand in memory in a stated layout, as the save area at pa now holds them: wait tables,
registers with their owners, scratchpad, line attributes, cistern. -/
def Core.reload (k : Core) (m : List Host.Cell) (pa : Nat) : Core :=
  let regs := regsOf m pa
  let k := { k with
    threads := k.threads.map fun (e : Nat × Thread) => (e.1, k.rereadThr regs e.1 e.2)
    p0 := k.p0.reread regs 0, p1 := k.p1.reread regs 1, p2 := k.p2.reread regs 2, p3 := k.p3.reread regs 3 }
  let waits := cellsSlice m (pa + 0x10000) 0x10000
  let attrs := cellsSlice m (pa + 0x3B0000) 0x4000
  { k with
    threads := k.threads.map fun e => (e.1, e.2.rewait (cellsRead waits (16 * e.1) 16))
    sp := cellsSlice m (pa + 0x2B0000) Config.spBytes
    attrs := (List.range 8192).foldl (fun t l =>
      let a := LineAttr.ofWord (ofBytes (cellsRead attrs (2 * l) 2))
      if a = LineAttr.reset then t else tset t l a) []
    cistern := wordsOf (cellsSlice m (pa + 0x3B4000) (4 * Config.cisternWords)) }

end Sys2Proof.Machine
end

