-- ==== Sys2Proof/Machine/Spad.lean ====
section
/-! DEFINITION. Scratchpad objects that engines touch: gauges, stamps, presence and what wakes the threads that wait on
them (R112, R186, R188, R231..R239). -/

namespace Sys2Proof.Machine

/-- A gauge (R186). -/
structure Gauge where
  expected : Word
  arrived  : Word
  phase    : Word
  owner    : BitVec 16
  marks    : BitVec 8
deriving DecidableEq, Repr

def Core.gauge (k : Core) (o : Nat) : Gauge :=
  let b := k.spRead o 16
  { expected := BitVec.ofNat 32 (fieldAt b 0 4), arrived := BitVec.ofNat 32 (fieldAt b 4 4)
    phase := BitVec.ofNat 32 (fieldAt b 8 4), owner := BitVec.ofNat 16 (fieldAt b 12 2)
    marks := BitVec.ofNat 8 (fieldAt b 14 1) }

def Gauge.bytes (g : Gauge) : List Byte :=
  toBytes 4 g.expected.toNat ++ toBytes 4 g.arrived.toNat ++ toBytes 4 g.phase.toNat ++ toBytes 2 g.owner.toNat
    ++ toBytes 1 g.marks.toNat

def Gauge.over (g : Gauge) : Bool := g.marks.getLsbD 0
def Gauge.short (g : Gauge) : Bool := g.marks.getLsbD 1

/-- Writes a gauge's bytes; byte 15 stays as it is. -/
def Core.setGauge (k : Core) (o : Nat) (g : Gauge) : Core := k.spPut o g.bytes

/-- Whether AWAIT.G's condition holds for the thread at position t (R112). -/
def Gauge.metFor (g : Gauge) (t : Nat) : Bool :=
  if g.owner.toNat = t then g.arrived == g.expected else decide (g.expected.toNat ≤ g.arrived.toNat)

/-- AWAIT.ST's condition (R112). -/
def stampReached (stamp target : Word) : Bool := decide ((stamp - target).toNat < 2 ^ 31)

def Core.stamp (k : Core) (o : Nat) : Nat := ofBytes (k.spRead o 8)

/-- Threads parked with AWAIT of a kind on an offset. -/
def Core.awaiting (k : Core) (kind : BitVec 2) (o : Nat) : List (Nat × Thread) :=
  k.threads.filter fun e =>
    e.2.st == .parked && e.2.wait.reason == 4 && e.2.wait.akind == kind && e.2.wait.key.toNat == o

/-- Re-evaluates the threads parked on the gauge at o: a met condition marks and wakes; SHORT wakes every one, and OVER
the owner, to take the fault at the AWAIT (R112, R238). -/
def State.evalGauge (s : State) (c o : Nat) : State :=
  let g := (s.core c).gauge o
  ((s.core c).awaiting 0 o).foldl (fun s e =>
    if g.short then s.wakeThr c e.1 false
    else if g.metFor e.1 then s.wakeThr c e.1 true
    else if g.over && g.owner.toNat == e.1 then s.wakeThr c e.1 false
    else s) s

/-- Threads parked on a line that has become present; an AWAIT.PR is marked met (R112, R144, R234). -/
def State.wakePresence (s : State) (c line : Nat) : State :=
  (s.core c).threads.foldl (fun s e =>
    let w := e.2.wait
    if e.2.st = .parked ∧ w.key.toNat / 128 = line ∧ w.reason = 5 then s.wakeThr c e.1 w.awaits else s) s

/-- An engine adds 1 to the stamp at o (R239), and wakes the waiters whose target it reaches. -/
def State.bumpStamp (s : State) (c o : Nat) : State :=
  let v := ((s.core c).stamp o + 1) % 2 ^ 64
  let s := s.modCore c (·.spPut o (toBytes 8 v))
  ((s.core c).awaiting 1 o).foldl (fun s e =>
    if stampReached (BitVec.ofNat 32 v) e.2.wait.arg then s.wakeThr c e.1 true else s) s

/-- Counts n bytes of a copy tagged with a phase into the gauge at o, byte by byte: every value between the old and
the new count is passed, so a waiter whose condition holds on the way is marked met (R188, R238). -/
def State.countGauge (s : State) (c o : Nat) (phase : Word) (n : Nat) : State :=
  let g := (s.core c).gauge o
  if g.phase ≠ phase ∨ n = 0 then s
  else
    let a := g.arrived.toNat
    let e := g.expected.toNat
    let a' := min 0xFFFFFFFF (a + n)
    let g' := { g with arrived := BitVec.ofNat 32 a'
                       marks := if e < a' then g.marks ||| 1#8 else g.marks }
    let s := s.modCore c (·.setGauge o g')
    if a < e ∧ e ≤ a' then ((s.core c).awaiting 0 o).foldl (fun s w => s.wakeThr c w.1 true) s
    else s.evalGauge c o

/-- A line's attributes are changed. -/
def Core.modLine (k : Core) (l : Nat) (f : LineAttr → LineAttr) : Core :=
  { k with attrs := tset k.attrs l (f (k.lineAttr l)) }

/-- A copy issues into the lines: pend rises, presence falls, sw is cleared when pend rises from 0 (R233). -/
def Core.copyIssue (k : Core) (ls : List Nat) : Core :=
  ls.foldl (fun k l => k.modLine l fun a =>
    { a with pend := a.pend + 1, pres := false, sw := if a.pend = 0 then false else a.sw }) k

/-- Whether a destination line already has 15 copies in flight (R233 item 5). -/
def Core.lineFull (k : Core) (ls : List Nat) : Bool := ls.any fun l => (k.lineAttr l).pend == 15

/-- A copy's last byte for a line is written, or the copy retires short: pend falls, and at 0 the line is present
(R233). -/
def State.copyArrive (s : State) (c l : Nat) : State :=
  let a := (s.core c).lineAttr l
  let p := a.pend - 1
  let s := s.modCore c (·.modLine l fun a => { a with pend := p, pres := a.pres || p == 0 })
  if p = 0 then s.wakePresence c l else s

end Sys2Proof.Machine
end

