-- ==== Sys2Proof/Machine/Debug.lean ====
section
/-! DEFINITION. Debug stops: halting a partition with its dump, release and step (R218, R355, R356, R359). -/

namespace Sys2Proof.Machine

/-- The 8 bytes of a scoreboard entry (R356). -/
def Pend.bytes (p : Pend) : List Byte :=
  let n := if p.ents.isEmpty then 1 else p.ents.length
  toBytes 4 p.pc.toNat ++ toBytes 1 p.reg ++ toBytes 1 p.engine ++ toBytes 1 (n - 1) ++ [0]

/-- The 512 bytes of a position in the dump (R356): the descriptor of R314, the count of scoreboard entries and the
entries. -/
def Core.dumpBytes (k : Core) (th : Thread) (clock : Nat) : List Byte :=
  let es := th.pend.take 31
  (List.range 256).map (k.descByte th clock ·)
    ++ toBytes 8 es.length ++ (es.map Pend.bytes).flatten

/-- The halted partition writes its dump; that of an EMPTY position is all 0 (R356, notes/assumptions/9). -/
def State.dump (s : State) (c p : Nat) : State :=
  let base := bits (s.part c p).dbgdump.toNat 51 20 * 2 ^ 20
  let s := s.physZero base (512 * 1024)
  (s.core c).threads.foldl (fun s e =>
    if posPart e.1 = p then
      s.physWrite (base + 512 * (e.1 % 1024)) ((s.core c).dumpBytes e.2 (s.cycle + (s.core c).skew + e.2.bias))
    else s) s

/-- A thread of a halted partition: a parked entry is marked; any other thread parks with HALT, but for one between
two steps of an HRUN, PXPUSH or LAUNCH (R165, R218). -/
def Thread.halt (th : Thread) : Thread :=
  if th.st = .parked then (if th.wait.reason = 1 then th else { th with wait := { th.wait with halted := true } })
  else if th.prog.isSome || th.st == .bin then th
  else { th.parkHalt with yround := none, released := false }

/-- Applies Thread.halt to every thread of a partition. -/
def Core.haltThreads (k : Core) (p : Nat) : Core :=
  { k with threads := k.threads.map fun e => if posPart e.1 = p then (e.1, e.2.halt) else e }

/-- The watchdogs of a tenancy pause from now on (R359). -/
def State.pauseWatch (s : State) (ten : Nat) : State :=
  s.modTen ten fun x => { x with pausedAt := if x.pausedAt.isSome then x.pausedAt else some s.time.toNat }

/-- Whether a partition of the tenancy's cores is halted. -/
def State.anyHalted (s : State) (ten : Nat) : Bool :=
  s.cores.any fun e => e.2.ctx.any (·.ten == ten)
    && (e.2.p0.halted || e.2.p1.halted || e.2.p2.halted || e.2.p3.halted)

/-- How long something that began at a time has been in a pause that began at another (R359). -/
def pauseOf (now since at_ : Nat) : Nat := now - max since at_

/-- The watchdogs go on: deadlines and watched times are extended by what they have seen of the pause (R359). -/
def State.resumeWatch (s : State) (ten : Nat) : State :=
  match (s.ten ten).pausedAt with
  | none => s
  | some at_ =>
    if s.anyHalted ten then s
    else
      let now := s.time.toNat
      let s := s.modTen ten fun x => { x with pausedAt := none }
      { s with
        watch := s.watch.map fun w => if w.ten = ten then { w with deadline := w.deadline + pauseOf now w.since at_ } else w
        cores := s.cores.map fun e =>
          if e.2.ctx.any (·.ten == ten) then
            (e.1, { e.2 with threads := e.2.threads.map fun x =>
              (x.1, { x.2 with gwSince := x.2.gwSince.map fun g => g + pauseOf now g at_ }) })
          else e }

/-- The threads of a partition that stop inside a chain: it will restart (R85, R353). -/
def Core.midChain (k : Core) (p : Nat) : Nat :=
  (k.threads.filter fun e => posPart e.1 == p && e.2.st != .parked && !e.2.lats.isEmpty && e.2.prog.isNone).length

/-- A halt, from HALT or BKPT: every resident thread of the partition stops in one cycle (R355). -/
def State.haltPart (s : State) (c p : Nat) : State :=
  if (s.part c p).halted then s
  else
    let s := s.bump c p 14 ((s.core c).midChain p)
    let s := s.modCore c fun k =>
      (k.haltThreads p).setPart p { k.part p with halted := true, step := none, groups := [] }
    (s.pauseWatch (s.core c).tenancy).dump c p

/-- A released entry: HALT entries return to READY; a condition met while halted wakes the thread (R218). -/
def State.releaseThr (s : State) (c t : Nat) : State :=
  match s.thr? c t with
  | none => s
  | some th =>
    if th.st ≠ .parked then s
    else if th.wait.reason = 1 then
      s.setThr c t { th with st := .ready, readyAt := s.cycle, wait := Wait.reset }
    else if th.wait.halted && th.wait.reason == 3 && th.wait.evicted then
      s.setThr c t { th with wait := { th.wait with halted := false } }
    else if th.wait.halted then
      let s := s.setThr c t { th with wait := { th.wait with halted := false, met := false } }
      if th.wait.met then s.wakeThr c t th.wait.awaits
      else if th.wait.reason = 4 ∧ th.wait.akind = 0 then s.evalGauge c th.wait.key.toNat
      else s
    else s

/-- Positions of a partition that hold a thread. -/
def Core.positions (k : Core) (p : Nat) : List Nat := (k.threads.map (·.1)).filter fun t => posPart t == p

/-- A debug release of the partition (R218, R355). -/
def State.releasePart (s : State) (c p : Nat) : State :=
  if !(s.part c p).halted then s
  else
    let s := s.modPart c p fun q => { q with halted := false, step := none }
    let s := ((s.core c).positions p).foldl (fun s t => s.releaseThr c t) s
    s.resumeWatch (s.core c).tenancy

/-- STEP: every thread is released for one whole chain (R355). -/
def State.stepPart (s : State) (c p : Nat) : State :=
  if !(s.part c p).halted then s
  else
    let runs (e : Nat × Thread) : Bool :=
      posPart e.1 == p && (e.2.wait.reason == 1 || (e.2.wait.halted && e.2.wait.met && !(e.2.wait.reason == 3 && e.2.wait.evicted))
        || (e.2.st != .parked && e.2.st != .bin))
    let go := (s.core c).threads.filter runs
    let s := s.modPart c p fun q => { q with halted := false, step := some (go.map (·.2.uid)) }
    go.foldl (fun s e => s.releaseThr c e.1) s

/-- Under STEP, the threads that are not released for a chain stand still: those that have parked in the step and wake, and
those that are new (R355). -/
def Core.haltStray (k : Core) (p : Nat) (us : List Nat) : Core :=
  { k with threads := k.threads.map fun e =>
      if posPart e.1 = p ∧ !us.contains e.2.uid ∧ e.2.st ≠ .parked then (e.1, e.2.halt) else e }

/-- After a step of the machine: the threads of a halted partition stand still; a debug step whose chains have ended
halts the partition again (R355). -/
def State.settlePart (s : State) (c p : Nat) : State :=
  let q := s.part c p
  if q.halted then
    if (s.core c).threads.any fun e => posPart e.1 == p && e.2.halt != e.2 then s.modCore c (·.haltThreads p) else s
  else
    match q.step with
    | none => s
    | some us =>
      let s := if (s.core c).haltStray p us = s.core c then s else s.modCore c (·.haltStray p us)
      let running := (s.core c).threads.filter fun e =>
        posPart e.1 == p && us.contains e.2.uid && e.2.st != .parked
      if running.isEmpty then s.haltPart c p
      else if running.length = us.length then s
      else s.modPart c p fun q => { q with step := some (running.map (·.2.uid)) }

/-- Every partition of every core. -/
def State.settleDebug (s : State) : State :=
  s.cores.foldl (fun s e =>
    if e.2.p0.halted || e.2.p1.halted || e.2.p2.halted || e.2.p3.halted || e.2.p0.step.isSome
        || e.2.p1.step.isSome || e.2.p2.step.isSome || e.2.p3.step.isSome then
      (List.range 4).foldl (fun s p => s.settlePart e.1 p) s
    else s) s

end Sys2Proof.Machine
end

