-- ==== Sys2Proof/Machine/Helped.lean ====
section
/-! DEFINITION. Helped objects: tickets, the operations of each kind, announcing and applying, for any agent
(R154..R167, R258, R338, R357). -/

namespace Sys2Proof.Machine

/-- Why a home-slice step does not take place: no mapping, a forbidden access, a table outside memory, a clock or the
weir to wait for, poison consumed (R338), or a helped-object fault with its cause and pcode (R168). -/
inductive HErr where
  | page (va : Nat)
  | access (va kind : Nat)
  | off (pa : Nat)
  | wait
  | poison (va : Nat)
  | fault (cause pcode : Nat)
deriving DecidableEq, Repr

/-- The result of steps: with an error comes the state it leaves. -/
abbrev HRes (α : Type) := Except (HErr × State) α

/-- Who takes a step: the tenancy under whose translation, the die, and the core and, for a thread's
own, its position. -/
structure Agent where
  ten  : Nat
  die  : Nat
  core : Option Nat
  pos  : Option Nat
deriving DecidableEq, Repr

/-! ### Tickets (R160) -/

/-- The next ticket of the sequence. -/
def succTicket (t : Nat) : Nat :=
  let u := (t + 1) % 2 ^ 64
  if u % 2 ^ 32 = 0 then (u + 1) % 2 ^ 64 else u

/-- The number P of pending tickets. -/
def pendingCount (announced applied : Nat) : Nat :=
  let d := (announced + 2 ^ 64 - applied) % 2 ^ 64
  d - ((applied % 2 ^ 32 + d) / 2 ^ 32)

/-- Whether applied < the ticket that the low bits t name. -/
def ticketAfter (applied t : Nat) : Bool := decide (0 < sxInt (t + 2 ^ 64 - applied) 32)

/-- Whether an op is listed for a kind (R157). -/
def opListed (kind op : Nat) : Bool :=
  match kind with
  | 1 => op == 1 || op == 2 || op == 3
  | 2 | 3 | 5 => op == 1 || op == 2
  | 4 => op == 1
  | _ => false

/-- Whether a replayable node may defer an op (R157, R166). -/
def opDeferrable (kind op : Nat) : Bool :=
  match kind with
  | 1 | 2 | 3 | 4 => op == 1
  | 5 => op == 2
  | _ => false

/-! ### Accesses of a step -/

/-- Translation of an address by a step's agent: a thread's from its lane's register and the core TLB (R165, R304). -/
def State.hxlate (s : State) (ag : Agent) (va : Nat) (acc : Acc) : HRes (Nat × BitVec 2 × State) :=
  match (match ag.core, ag.pos with
    | some c, some t => s.translate c t va acc
    | _, _ => let s := s.walkFill ag.ten va; (s.walkFor ag.ten va acc, s)) with
  | (.ok e, s) => .ok (e.pa va, e.attr, s)
  | (.page, s) => .error (.page va, s)
  | (.access k, s) => .error (.access va k, s)
  | (.off pa, s) => .error (.off pa, s)

/-- A step waits until the home and the agent's die have each delivered what the other has seen (R258, R266). -/
def State.hready (s : State) (ag : Agent) (pa : Nat) : HRes Unit :=
  if s.stepReady ag.die pa then .ok () else .error (.wait, s)

/-- Applies a step's write at the home of each line, and delivers it to the listed dies at once. -/
def State.hwrite (s : State) (ag : Agent) (dies : List Nat) (pa : Nat) (attr : BitVec 2) (bytes : List Byte) : State :=
  let go (acc : State × List Byte) (p : Nat × Nat) : State × List Byte :=
    let (s, bs) := acc
    let (tag, s) := s.draw
    let b := bs.take p.2
    let old := match ag.core with | some c => s.l1Copy c p.1 | none => none
    let s := s.dieStore (homeDie p.1) p.1 attr b tag
    let s := (dies.filter (· != homeDie p.1)).foldl (fun s e => s.deliverAll e 64) s
    let s := match ag.core with | some c => s.l1Update old c p.1 b | none => s
    (s, bs.drop p.2)
  ((linePieces 4 pa bytes.length).foldl go (s, bytes)).1

/-- The dies that must see a step's writes at once. -/
def Agent.dies (ag : Agent) (pas : List Nat) : List Nat := (ag.die :: pas.map homeDie).eraseDups

/-- Fields of a descriptor (R154, R155). -/
def obKind (ob : List Byte) : Nat := fieldAt ob 0 1
def obFlags (ob : List Byte) : Nat := fieldAt ob 1 1
def obCap (ob : List Byte) : Nat := fieldAt ob 2 2
def obAnnounced (ob : List Byte) : Nat := fieldAt ob 8 8
def obApplied (ob : List Byte) : Nat := fieldAt ob 16 8
def obPcode (ob : List Byte) : Nat := fieldAt ob 24 4
def obPending (ob : List Byte) : Nat := pendingCount (obAnnounced ob) (obApplied ob)

/-- A poisoned object: a step that meets poison sets POISONED with pcode 0xFFFFFFFF (R338). -/
def State.hpoison (s : State) (ag : Agent) (pa : Nat) (attr : BitVec 2) (ob : List Byte) : State :=
  let s := s.hwrite ag (ag.dies [pa]) (pa + 1) attr [BitVec.ofNat 8 ((obFlags ob).lor 1)]
  s.hwrite ag (ag.dies [pa]) (pa + 24) attr (toBytes 4 0xFFFFFFFF)

/-- Reads the descriptor of an object at its home: address, attribute, bytes. -/
def State.hobject (s : State) (ag : Agent) (va : Nat) : HRes (Nat × BitVec 2 × List Byte × State) := do
  let (pa, attr, s) ← s.hxlate ag va .helped
  s.hready ag pa
  let s := s.fillSectors pa 256
  let ob := s.memRead pa 256
  if s.poisonedAt pa 256 then .error (.poison va, s.hpoison ag pa attr ob)
  else .ok (pa, attr, ob, s)

/-- Reads a record of an object's operation at its home; poison there poisons the object. -/
def State.hrecord (s : State) (ag : Agent) (va : Nat) (acc : Acc) (obj : Option (Nat × BitVec 2 × List Byte)) :
    HRes (Nat × BitVec 2 × List Byte × State) := do
  let (pa, attr, s) ← s.hxlate ag va acc
  s.hready ag pa
  let s := s.fillSectors pa 32
  if s.poisonedAt pa 32 then
    .error (.poison va, match obj with | some (p, a, ob) => s.hpoison ag p a ob | none => s)
  else .ok (pa, attr, s.memRead pa 32, s)

/-- The physical address of element i of a STACK or QUEUE (R155). -/
def State.helement (s : State) (ag : Agent) (va i : Nat) : HRes (Nat × BitVec 2 × State) :=
  s.hxlate ag ((va + 256 + 8 * i) % 2 ^ 57) .helped

/-- What an operation does (R157): status, result, changes of the descriptor by offset, an element written or read,
whether a JOIN completed, whether it was the first arrival of a watched JOIN. -/
structure Effect where
  status : Nat
  result : Nat
  writes : List (Nat × List Byte)
  put    : Option (Nat × Nat)
  get    : Option Nat
  done   : Bool
  first  : Bool
deriving DecidableEq, Repr

def Effect.of (status result : Nat) (writes : List (Nat × List Byte)) : Effect :=
  { status, result, writes, put := none, get := none, done := false, first := false }

/-- The effect of an op on an object (R157). -/
def opEffect (ob : List Byte) (op operand now : Nat) : Effect :=
  let v := fieldAt ob 192 8
  let u := fieldAt ob 200 8
  let cap := obCap ob
  let w8 (o n : Nat) : Nat × List Byte := (o, toBytes 8 (n % 2 ^ 64))
  let invalid := Effect.of 6 0 []
  match obKind ob, op with
  | 1, 1 => .of 0 v [w8 192 (v + operand)]
  | 1, 2 => .of 0 v [w8 192 operand]
  | 1, 3 => .of 0 v []
  | 2, 1 =>
    if cap = 0 then invalid else if v = cap then .of 1 0 []
    else { Effect.of 0 0 [w8 192 (v + 1)] with put := some (v, operand) }
  | 2, 2 =>
    if cap = 0 then invalid else if v = 0 then .of 2 0 []
    else { Effect.of 0 0 [w8 192 (v - 1)] with get := some (v - 1) }
  | 3, 1 =>
    if cap = 0 then invalid else if (u + 2 ^ 64 - v) % 2 ^ 64 = cap then .of 1 0 []
    else { Effect.of 0 0 [w8 200 (u + 1)] with put := some (u % cap, operand) }
  | 3, 2 =>
    if cap = 0 then invalid else if u = v then .of 2 0 []
    else { Effect.of 0 0 [w8 192 (v + 1)] with get := some (v % cap) }
  | 4, 1 =>
    let i := operand % 64
    let target := fieldAt ob 200 1
    if bitOf (obFlags ob) 1 then .of 5 0 []
    else if target ≤ i then .of 4 0 []
    else if bitOf v i then .of 3 0 []
    else
      let v' := v + 2 ^ i
      let done := popcount 64 v' == target
      { Effect.of 0 (b2n done)
          ([w8 192 v'] ++ (if v = 0 then [w8 232 now] else [])
            ++ (if done then [(1, [BitVec.ofNat 8 ((obFlags ob).lor 2)])] else []))
        with done := done, first := v == 0 && fieldAt ob 204 4 != 0 }
  | 5, 1 =>
    if sxInt v 64 < sxInt operand 64 then .of 2 v [] else .of 0 v [w8 192 (v + 2 ^ 64 - operand % 2 ^ 64)]
  | 5, 2 => .of 0 v [w8 192 (v + operand)]
  | _, _ => invalid

/-- The home slice of a physical address: its cascade (R256). -/
def homeCascade (pa : Nat) : Nat := 3 * homeDie pa + lineOf pa % 3

/-- Enters a JOIN in its home slice's watch list of 64 entries (R357). -/
def State.watchJoin (s : State) (pa va ten deadline : Nat) : State :=
  let n := (s.watch.filter fun w => !w.waiting && homeCascade w.pa == homeCascade pa).length
  { s with watch := s.watch ++ [{ pa, va, ten, deadline, waiting := decide (64 ≤ n), since := s.time.toNat }] }

/-- Removes a JOIN's entry; the first one of its slice that waits takes the place that it held, if it held one (R357). -/
def State.unwatch (s : State) (pa : Nat) : State :=
  let w := s.watch.filter (·.pa != pa)
  if (s.watch.filter (·.pa == pa)).all (·.waiting) then { s with watch := w }
  else
    let same (x : Watch) : Bool := x.waiting && homeCascade x.pa == homeCascade pa
    match w.findIdx? same with
    | some k =>
      match w[k]? with
      | some x => { s with watch := w.set k { x with waiting := false } }
      | none => { s with watch := w }
    | none => { s with watch := w }

/-- The continuation of a completed JOIN: its items divided among the cores of the mask (R221). -/
def State.spawnContinuation (s : State) (ten va : Nat) (ob : List Byte) : State :=
  let entry := fieldAt ob 208 8 % 2 ^ 57
  if entry = 0 then s
  else
    let first := fieldAt ob 216 4
    let count := fieldAt ob 220 4
    let mask := fieldAt ob 225 1
    let cores := (List.range 8).filter (bitOf mask ·)
    let m := cores.length
    let msgs := (List.range m).filterMap fun k =>
      let items := (List.range ((count + m - 1 - k) / m)).map fun j => BitVec.ofNat 32 (first + k + j * m)
      if items.isEmpty then none
      else some (Msg.continuation (fieldAt ob 224 1 * 8 + cores.getD k 0) ten (BitVec.ofNat 57 entry) items va)
    { s with msgs := s.msgs ++ msgs }

/-- What follows the operation's changes at the home slice: a PUSH applied to a queue and a completed JOIN signal the
scheduler; a JOIN enters or leaves the watch list and spawns its continuation (R157, R221, R357, R375). -/
def State.afterOp (s : State) (ten va pa : Nat) (ob : List Byte) (op : Nat) (e : Effect) : State :=
  let s := if obKind ob = 3 ∧ op = 1 ∧ e.status = 0 then s.signal ten else s
  let s := if e.first then s.watchJoin pa va ten (s.time.toNat + fieldAt ob 204 4 * 1000) else s
  if e.done then ((s.unwatch pa).spawnContinuation ten va ob).signal ten else s

/-- Performs an op on the object: its changes, the element, and what follows. Answers status and result. -/
def State.perform (s : State) (ag : Agent) (va pa : Nat) (attr : BitVec 2) (ob : List Byte) (op operand : Nat)
    (dies : List Nat) : HRes (Nat × Nat × State) := do
  let e := opEffect ob op operand s.time.toNat
  let (result, s) ← match e.get with
    | none => pure (e.result, s)
    | some i => do
      let (ep, _, s) ← s.helement ag va i
      s.hready ag ep
      let s := s.fillSectors ep 8
      if s.poisonedAt ep 8 then .error (.poison ((va + 256 + 8 * i) % 2 ^ 57), s.hpoison ag pa attr ob)
      else pure (ofBytes (s.memRead ep 8), s)
  let s ← match e.put with
    | none => pure s
    | some (i, v) => do
      let (ep, ea, s) ← s.helement ag va i
      s.hready ag ep
      pure (s.hwrite ag (ag.dies [pa, ep]) ep ea (toBytes 8 v))
  let s := e.writes.foldl (fun s w => s.hwrite ag dies (pa + w.1) attr w.2) s
  .ok (e.status, result, s.afterOp ag.ten va pa ob op e)

/-- One home-slice step is charged, and held by the weir (R296, R298). -/
def State.hstep (s : State) (ag : Agent) : HRes State :=
  if s.weirHolds ag.ten 6 then .error (.wait, s) else .ok (s.charge ag.ten 6 1)

/-- A step that performs an op, charged once it takes place: one that waits leaves the state as it is (R158). -/
def State.stepOp (s : State) (ag : Agent) (va pa : Nat) (attr : BitVec 2) (ob : List Byte) (op operand : Nat)
    (dies : List Nat) : HRes (Nat × Nat × State) :=
  match (do let u ← s.hstep ag; u.perform ag va pa attr ob op operand dies) with
  | .error (.wait, _) => .error (.wait, s)
  | r => r

/-! ### The steps -/

/-- HANN (R160): announces the record at va; the ticket's low bits, or 0 when the ring is full. -/
def State.announce (s : State) (ag : Agent) (va : Nat) : HRes (Nat × State) := do
  let (rp, ra, r, s) ← s.hrecord ag va .helped none
  if fieldAt r 0 1 = 1 then .error (.fault 1 0, s)
  else
    let obj := fieldAt r 8 8
    if 2 ^ 57 ≤ obj ∨ obj % 256 ≠ 0 then .error (.fault 8 0, s)
    else
      let (pa, attr, ob, s) ← s.hobject ag obj
      let op := fieldAt r 1 1
      if obKind ob = 0 ∨ 5 < obKind ob then .error (.fault 4 0, s)
      else if opListed (obKind ob) op = false then .error (.fault 5 0, s)
      else if bitOf (obFlags ob) 0 then .error (.fault 3 (obPcode ob), s)
      else
        let s ← s.hstep ag
        if obPending ob = 16 then .ok (0, s)
        else
          let t := succTicket (obAnnounced ob)
          let dies := ag.dies [rp, pa]
          let s := s.hwrite ag dies (pa + 64 + 8 * (t % 16)) attr (toBytes 8 va)
          let s := s.hwrite ag dies (rp + 4) ra (toBytes 4 t)
          let s := s.hwrite ag dies rp ra [1]
          let s := s.hwrite ag dies (pa + 8) attr (toBytes 8 t)
          .ok (t % 2 ^ 32, s)

/-- A PXPUSH whose record has been applied learns the place of its element in the shadow, also where its context is saved
(R200, R313, R324). -/
def State.notePush (s : State) (ten q idx : Nat) : State :=
  let up (x : Coll) : Coll :=
    match x.op with
    | .pxpush l sh r none b => if r = q then { x with op := .pxpush l sh r (some idx) b } else x
    | _ => x
  let note (k : Core) : Core := if k.ctx.any (·.ten == ten) then { k with colls := k.colls.map up } else k
  if s.saves.isEmpty ∧ s.cores.all (fun e => e.2.colls.isEmpty) then s
  else
    { s with cores := s.cores.map fun e => (e.1, note e.2)
             saves := s.saves.map fun v => { v with core := note v.core } }

/-- Applies the ticket of an agent's own record: its status, its result and the word at 192 stay in the record (R286,
notes/assumptions/8). -/
def State.applyOwn (s : State) (ag : Agent) (va : Nat) (attr : BitVec 2) (ob : List Byte) (r : OwnRec) : HRes State := do
  let dies := ag.dies [r.pa]
  let (status, result, s) ← s.stepOp ag va r.pa attr ob r.op r.operand dies
  let done := { r with res := some (status, result, fieldAt ob 192 8) }
  let s := { s with own := s.own.map fun x => if x = r then done else x }
  .ok (s.hwrite ag dies (r.pa + 16) attr (toBytes 8 r.ticket))

/-- HAPP (R161): applies at most one pending ticket; the number applied. A ticket of an agent's own record (R286) leaves
its status and result there (notes/assumptions/8). -/
def State.applyStep (s : State) (ag : Agent) (va : Nat) : HRes (Nat × State) := do
  let (pa, attr, ob, s) ← s.hobject ag va
  if obPending ob = 0 then
    let s ← s.hstep ag
    .ok (0, s)
  else
    let t := succTicket (obApplied ob)
    match s.own.find? fun r => r.pa == pa && r.ticket == t && r.res.isNone with
    | some r =>
      let s ← s.applyOwn ag va attr ob r
      .ok (1, s)
    | none =>
      let q := fieldAt ob (64 + 8 * (t % 16)) 8 % 2 ^ 57
      let (rp, ra, r, s) ← s.hrecord ag q .helped (some (pa, attr, ob))
      let dies := ag.dies [rp, pa]
      let (status, result, s) ← s.stepOp ag va pa attr ob (fieldAt r 1 1) (fieldAt r 16 8) dies
      let s := if obKind ob = 3 ∧ fieldAt r 1 1 = 1 ∧ status = 0 then s.notePush ag.ten q (fieldAt ob 200 8) else s
      let s := s.hwrite ag dies (rp + 24) ra (toBytes 8 result)
      let s := s.hwrite ag dies (rp + 2) ra [BitVec.ofNat 8 status]
      let s := s.hwrite ag dies rp ra [2]
      .ok (1, s.hwrite ag dies (pa + 16) attr (toBytes 8 t))

/-- What HRUN takes from the record at va, once (R162): its object and its ticket; none where it has been applied. -/
def State.runStart (s : State) (ag : Agent) (va : Nat) : HRes (Option (Nat × Nat) × State) := do
  let (_, _, r, s) ← s.hrecord ag va .helped none
  if fieldAt r 0 1 = 0 then .error (.fault 2 0, s)
  else if fieldAt r 0 1 = 2 then .ok (none, s)
  else
    let obj := fieldAt r 8 8
    if 2 ^ 57 ≤ obj ∨ obj % 256 ≠ 0 then .error (.fault 8 0, s)
    else .ok (some (obj, fieldAt r 4 4), s)

/-- One pass of HRUN's loop (R162): whether the ticket has been applied, and the tickets that the pass applied. -/
def State.runPass (s : State) (ag : Agent) (obj tick : Nat) : HRes (Bool × Nat × State) := do
  let (_, _, ob, s) ← s.hobject ag obj
  let a := obApplied ob
  if ticketAfter a tick = false then .ok (true, 0, s)
  else
    let (n, s) ← s.applyStep ag obj
    .ok (!ticketAfter (if n = 0 then a else succTicket a) tick, n, s)

/-- Helps with every pending ticket of an object (R161). -/
def State.helpAll (s : State) (ag : Agent) (va : Nat) : Nat → HRes State
  | 0 => .ok s
  | fuel + 1 => do
    let (n, s) ← s.applyStep ag va
    if n = 0 then .ok s else s.helpAll ag va fuel

/-- Announces an agent's operation in a record of its own, with help first while the ring is full (R160, R286). Answers
the object's attribute and bytes as they were before, and the record. -/
def State.ownAnnounce (s : State) (ag : Agent) (key : OwnKey) (va op operand : Nat) :
    HRes (BitVec 2 × List Byte × OwnRec × State) := do
  let (_, _, ob, s) ← s.hobject ag va
  if obKind ob = 0 ∨ 5 < obKind ob then .error (.fault 4 0, s)
  else if opListed (obKind ob) op = false then .error (.fault 5 0, s)
  else if bitOf (obFlags ob) 0 then .error (.fault 3 (obPcode ob), s)
  else
    let (_, s) ← if obPending ob = 16 then s.applyStep ag va else .ok (0, s)
    let (pa, attr, ob, s) ← s.hobject ag va
    let s ← s.hstep ag
    let t := succTicket (obAnnounced ob)
    let dies := ag.dies [pa]
    let (seed, s) := s.draw
    let s := s.hwrite ag dies (pa + 64 + 8 * (t % 16)) attr (toBytes 8 (Config.ownRecord seed).toNat)
    let s := s.hwrite ag dies (pa + 8) attr (toBytes 8 t)
    let r : OwnRec := { key, pa, ticket := t, op, operand, res := none }
    .ok (attr, ob, r, { s with own := s.own ++ [r] })

/-- Applies tickets of the object until the agent's own has been applied (R162, R286). Answers status, result and the
word at 192 that the operation found. -/
def State.ownRun (s : State) (ag : Agent) (key : OwnKey) (va : Nat) : Nat → HRes (Nat × Nat × Nat × State)
  | 0 => .error (.wait, s)
  | fuel + 1 =>
    match s.own.find? (·.key == key) with
    | none => .error (.wait, s)
    | some r =>
      match r.res with
      | some (status, result, at_) => .ok (status, result, at_, { s with own := s.own.erase r })
      | none => do
        let (_, s) ← s.applyStep ag va
        s.ownRun ag key va fuel

/-- An agent gives up what it has announced under a key; the ticket stays pending. -/
def State.disown (s : State) (key : OwnKey) : State :=
  { s with own := s.own.map fun r => if r.key = key then { r with key := .gone } else r }

/-- An operation that an agent announces in a record of its own and applies, helping the tickets before it (R201, R286,
R292, R324). The weir checks each step, and an operation that it holds goes on later under its key (R298,
notes/assumptions/8). Answers status, result and the word at 192 that the operation found. -/
def State.ownOp (s : State) (ag : Agent) (key : OwnKey) (va op operand : Nat) : HRes (Nat × Nat × Nat × State) :=
  let go : HRes (Nat × Nat × Nat × State) := do
    if s.own.any (·.key == key) then s.ownRun ag key va 18
    else
      let (attr, ob, r, s) ← s.ownAnnounce ag key va op operand
      let s ← if obPending ob = 0 then s.applyOwn ag va attr ob r else .ok s
      s.ownRun ag key va 18
  match go with
  | .error (.page a, s) => .error (.page a, s)
  | .error (.wait, s) => .error (.wait, s)
  | .error (e, s) => .error (e, s.disown key)
  | .ok r => .ok r

/-- HINIT's check of the parameter word and the kept bytes of a JOIN (R159 item 2). -/
def initOk (va p : Nat) (ob : List Byte) : Bool :=
  let kind := p % 256
  let cap := p / 2 ^ 16
  let entry := fieldAt ob 208 8
  p / 256 % 256 == 0 && decide (1 ≤ kind) && decide (kind ≤ 5)
    && (if kind = 2 ∨ kind = 3 then
          decide (1 ≤ cap) && decide (cap ≤ 8160)
            && (va + 256) / 2 ^ 16 == (va + 256 + 8 * cap - 1) / 2 ^ 16
        else cap == 0)
    && (kind != 4 ||
        (decide (1 ≤ fieldAt ob 200 1) && decide (fieldAt ob 200 1 ≤ 64) && decide (1 ≤ fieldAt ob 220 4)
          && decide (fieldAt ob 220 4 ≤ 65536) && decide (fieldAt ob 224 1 ≤ 23) && fieldAt ob 225 1 != 0
          && (entry == 0 || (decide (entry < 2 ^ 57) && entry % 4 == 0))))

/-- The 256 bytes HINIT leaves (R154, R155, R159). -/
def initBytes (p v : Nat) (ob : List Byte) : List Byte :=
  let kind := p % 256
  let z (n : Nat) : List Byte := List.replicate n 0
  let state : List Byte :=
    match kind with
    | 1 => toBytes 8 v ++ z 56
    | 5 => toBytes 8 (modInt 64 (sxInt v 32)) ++ z 56
    | 4 => z 8 ++ (ob.drop 200).take 32 ++ z 24
    | _ => z 64
  toBytes 1 kind ++ z 1 ++ toBytes 2 (p / 2 ^ 16) ++ z 60 ++ z 128 ++ state

/-- HINIT (R159). -/
def State.initObject (s : State) (ag : Agent) (va p v : Nat) : HRes State := do
  let (pa, attr, ob, s) ← s.hobject ag va
  if bitOf (obFlags ob) 0 then .error (.fault 3 (obPcode ob), s)
  else if obAnnounced ob ≠ obApplied ob then .error (.fault 1 0, s)
  else if initOk va p ob = false then .error (.fault 6 0, s)
  else
    let s ← s.hstep ag
    .ok ((s.hwrite ag (ag.dies [pa]) pa attr (initBytes p v ob)).unwatch pa)

/-- HPEEK (R163): P and bytes 192..195. -/
def State.peekObject (s : State) (ag : Agent) (va : Nat) : HRes (Nat × Nat × State) := do
  let (_, _, ob, s) ← s.hobject ag va
  let s ← s.hstep ag
  .ok (obPending ob, fieldAt ob 192 4, s)

/-- HPOIS, or HCLR without a code (R164). -/
def State.poisonObject (s : State) (ag : Agent) (va : Nat) (code : Option Nat) : HRes State := do
  let (pa, attr, ob, s) ← s.hobject ag va
  let s ← s.hstep ag
  let f := obFlags ob
  let f' := match code with | some _ => f.lor 1 | none => f - f % 2
  let s := s.hwrite ag (ag.dies [pa]) (pa + 1) attr [BitVec.ofNat 8 f']
  .ok (s.hwrite ag (ag.dies [pa]) (pa + 24) attr (toBytes 4 (code.getD 0)))

end Sys2Proof.Machine
end

