-- ==== Sys2Proof/Machine/Hob.lean ====
section
/-! DEFINITION. The HOB group: HINIT, HANN, HAPP, HRUN, HRES, HPEEK, HPOIS, HCLR (R158..R167, R258). -/

namespace Sys2Proof.Machine

/-- The thread at position t of core c as the agent of its steps. -/
def State.agent (s : State) (c t : Nat) : Agent := { ten := (s.core c).tenancy, die := dieOf c, core := some c, pos := some t }

/-- How a step that does not take place stops the unit; addr is the record or object address (R165, R168, R338). -/
def hobStop (c t : Nat) (e : HErr × State) (addr : Nat) : Res :=
  match e with
  | (.page va, _) => .error (.page va)
  | (.access va k, _) => accessFault va k
  | (.off pa, _) => .error (.off pa)
  | (.wait, s) => .ok (s, .gone)
  | (.poison va, s) => .ok (s.stopAt c t (.trap 1 29 (poisonInfo va) false), .gone)
  | (.fault cause pcode, _) => flt 15 [wd cause, wd addr, wd pcode]

/-- Continues with the result of steps, or stops the unit. -/
def hobThen {α : Type} (c t addr : Nat) (r : HRes α) (f : α → Res) : Res :=
  match r with
  | .ok a => f a
  | .error e => hobStop c t e addr

/-- The address operand of a HOB unit: a multiple of n (R141, R158). -/
def State.hobAddr (s : State) (c t : Nat) (a : Src) (n : Nat) : Except Stop (Nat × Nat) := do
  let ea := (s.src c t a).toNat
  checkAligned ea n
  .ok (ea, s.regionAddr c t ea)

/-- The replay-operation fault of a HOB unit in a replayable node, after translation (R166, R169). -/
def replayStop (s : State) (c t ea va : Nat) (acc : Acc) (minor : Nat) (f : Res) : Res :=
  if s.replayable c then hobThen c t ea (s.hxlate (s.agent c t) va acc) fun _ => flt 16 [wd ea, wd minor, 0]
  else f

/-- HOB steps and HRUN passes are counted (R353). -/
def State.countHob (s : State) (c t n : Nat) : State := s.bump c (posPart t) 38 n

/-- A HOB unit completes: the bytes of the record or object at its address are charged (R146, R296,
notes/assumptions/57). -/
def State.hobDone (s : State) (c bytes : Nat) : State := s.charge (s.core c).tenancy 0 bytes

/-- The acquire that HAPP, HRUN, HPEEK and HRES perform (R258): the core's L1 lines that are not local go, once the loads
before it have been performed; later accesses wait for these (State.settleAcq). -/
def State.acquire (s : State) (c t : Nat) : State :=
  let w := match s.thr? c t with | some th => (th.pend.filter fun p => !p.settled).map (·.id) | none => []
  if w.isEmpty then s.l1Drop c else s.modThr c t fun th => { th with acqWait := w }

/-- HINIT for one thread (R159). -/
def hinitBody (d a : Src) (s : State) (c t : Nat) : Res := do
  let (ea, va) ← s.hobAddr c t a 256
  let p := s.src64 c t d
  replayStop s c t ea va .helped 0 <|
    hobThen c t ea (s.initObject (s.agent c t) va (p.toNat % 2 ^ 32) (p.toNat / 2 ^ 32)) fun u => do
      s.srcsPresent c t [a]
      .ok ((u.countHob c t 1).hobDone c 256, noLatch)

/-- A replayable node's read of n bytes at va (pa), its staged bytes on top of memory; poison under them is consumed (R338,
R339). -/
def State.nodeRead (s : State) (c va pa n : Nat) : HRes (List Byte × State) :=
  let s := s.fillSectors pa n
  if s.consumes c pa n ((sectorsOf pa n).filter s.poison.contains) then .error (.poison va, s)
  else .ok (s.overlay c pa (s.memRead pa n), s)

/-- Whether the op of a record may be deferred for its object (R157, R166). The object is not touched: where its kind
cannot be read, an op that some kind defers may be (notes/assumptions/58). -/
def State.mayDefer (s : State) (c obj op : Nat) : Bool :=
  match s.walkFor (s.core c).tenancy obj .load with
  | .ok e =>
    match s.nodeRead c obj (e.pa obj) 1 with
    | .ok (k, _) => opDeferrable (fieldAt k 0 1) op
    | .error _ => op == 1 || op == 2
  | _ => op == 1 || op == 2

/-- HANN in a replayable node: a deferrable op enters the record in the node's commit list (R166). -/
def hannDefer (d : Dst) (a : Src) (ea va : Nat) (s : State) (c t : Nat) : Res :=
  hobThen c t ea (do let (rp, _, s) ← s.hxlate (s.agent c t) va .helped; s.nodeRead c va rp 32) fun (r, s) => do
    let op := fieldAt r 1 1
    if s.mayDefer c (fieldAt r 8 8 % 2 ^ 57) op then
      s.srcsPresent c t [a]
      let s := s.modNode (s.nodeNum c) fun nd => { nd with commits := nd.commits ++ [va] }
      .ok ((s.hobDone c 32).dst c t d 0xFFFFFFFF, latch 0xFFFFFFFF)
    else flt 16 [wd ea, 1, wd op]

/-- HANN for one thread (R160). -/
def hannBody (d : Dst) (a : Src) (s : State) (c t : Nat) : Res := do
  let (ea, va) ← s.hobAddr c t a 32
  s.dstOwned c t d
  if s.replayable c then hannDefer d a ea va s c t
  else
    hobThen c t ea (s.announce (s.agent c t) va) fun (v, u) => do
      s.srcsPresent c t [a]
      .ok (((u.countHob c t 1).hobDone c 32).dst c t d (wd v), latch (wd v))

/-- HAPP for one thread (R161): also an acquire (R258). -/
def happBody (d : Dst) (a : Src) (s : State) (c t : Nat) : Res := do
  let (ea, va) ← s.hobAddr c t a 256
  s.dstOwned c t d
  replayStop s c t ea va .helped 2 <|
    hobThen c t ea (s.applyStep (s.agent c t) va) fun (n, u) => do
      s.srcsPresent c t [a]
      .ok ((((u.countHob c t 1).hobDone c 256).acquire c t).dst c t d (wd n), latch (wd n))

/-- HRUN completes with the number of tickets it has applied (R162, R258). -/
def State.runEnd (s : State) (c t : Nat) (d : Dst) (m : Nat) : State × Done :=
  (((s.hobDone c 32).acquire c t).dst c t d (wd m), latch (wd m))

/-- A unit of several steps stays between two of them; the registers of its destination d are private from now on (R24,
R162). -/
def State.progStay (s : State) (c t : Nat) (d : Dst) (p : Prog) : Res :=
  let es := match s.thr? c t with | some th => (th.target d 1).1 | none => []
  .ok ((s.modCore c (·.ownEnts t es)).modThr c t fun th => { th with prog := some p }, .gone)

/-- One pass of HRUN's loop for one thread, m tickets applied before it (R162): the unit completes with the pass that finds
its ticket applied. -/
def hrunPass (d : Dst) (ea obj tick m : Nat) (s : State) (c t : Nat) : Res :=
  match s.runPass (s.agent c t) obj tick with
  | .error (.wait, s) => s.progStay c t d { phase := 0, count := m, obj, tick, ea }
  | .error e => hobStop c t e ea
  | .ok (done, n, s) =>
    let s := (s.countHob c t n).bump c (posPart t) 39 1
    if done then .ok (s.runEnd c t d (m + n)) else s.progStay c t d { phase := 0, count := m + n, obj, tick, ea }

/-- HRUN takes its object and its ticket from its record, once, and makes its first pass (R162). -/
def hrunStart (d : Dst) (a : Src) (ea va : Nat) (s : State) (c t : Nat) : Res :=
  match s.runStart (s.agent c t) va with
  | .error (.wait, s) => s.progStay c t d { phase := 1, count := 0, obj := 0, tick := 0, ea }
  | .error e => hobStop c t e ea
  | .ok (r, u) => do
    s.srcsPresent c t [a]
    match r with
    | none => .ok ((u.bump c (posPart t) 39 1).runEnd c t d 0)
    | some (obj, tick) => hrunPass d ea obj tick 0 u c t

/-- HRUN for one thread (R162): between its steps it holds its thread, and reads its operand no more. -/
def hrunBody (d : Dst) (a : Src) (s : State) (c t : Nat) : Res :=
  match (s.thr? c t).bind (·.prog) with
  | some p =>
    if p.phase = 1 then hrunStart d a p.ea (s.regionAddr c t p.ea) s c t else hrunPass d p.ea p.obj p.tick p.count s c t
  | none => do
    let (ea, va) ← s.hobAddr c t a 32
    s.dstOwned c t d
    replayStop s c t ea va .helped 3 (hrunStart d a ea va s c t)

/-- HRES for one thread (R163): one load, bound after the thread's earlier loads of the record (R249). -/
def hresBody (d : Dst) (a : Src) (s : State) (c t : Nat) : Res := do
  let (ea, va) ← s.hobAddr c t a 32
  replayStop s c t ea va .load 4 <|
    hobThen c t ea (s.hrecord (s.agent c t) va .load none) fun (rp, _, r, u) =>
      if fieldAt r 0 1 = 2 then do
        s.srcsPresent c t [a]
        let v := BitVec.ofNat 64 (fieldAt r 24 8)
        match u.bindEarlier c t rp 32 with
        | (false, u) => .ok (u, .gone)
        | (true, u) => .ok (((u.hobDone c 32).acquire c t).dst64 c t d v, latch64 v)
      else flt 15 [7, wd ea, 0]

/-- HPEEK for one thread (R163). -/
def hpeekBody (d : Dst) (a : Src) (s : State) (c t : Nat) : Res := do
  let (ea, va) ← s.hobAddr c t a 256
  replayStop s c t ea va .helped 5 <|
    hobThen c t ea (s.peekObject (s.agent c t) va) fun (p, v, u) => do
      s.srcsPresent c t [a]
      let r := pair (wd p) (wd v)
      .ok ((((u.countHob c t 1).hobDone c 256).acquire c t).dst64 c t d r, latch64 r)

/-- HPOIS and HCLR for one thread (R164). -/
def hpoisBody (minor : Nat) (code : Option Src) (a : Src) (s : State) (c t : Nat) : Res := do
  let (ea, va) ← s.hobAddr c t a 256
  replayStop s c t ea va .helped minor <|
    hobThen c t ea (s.poisonObject (s.agent c t) va (code.map fun d => (s.src c t d).toNat)) fun u => do
      s.srcsPresent c t (a :: code.toList)
      .ok ((u.countHob c t 1).hobDone c 256, noLatch)

/-- The privilege fault outside handler mode (R27, R116, R164). -/
def handlerOnly (s : State) (c t : Nat) : Except Stop Unit :=
  match s.thr? c t with
  | some th => if th.handler then .ok () else flt 5 []
  | none => .ok ()

/-- HINIT (R159). -/
def execHinit (d a : Src) (g : Guard) (ch : Bool) (s : State) : Host.Outcome State Fault Refusal :=
  runThreads (.hinit d a g ch) noPre (hinitBody d a) s

/-- HANN (R160, R166). -/
def execHann (d : Dst) (a : Src) (g : Guard) (ch : Bool) (s : State) : Host.Outcome State Fault Refusal :=
  runThreads (.hann d a g ch) noPre (hannBody d a) s

/-- HAPP (R161). -/
def execHapp (d : Dst) (a : Src) (g : Guard) (ch : Bool) (s : State) : Host.Outcome State Fault Refusal :=
  runThreads (.happ d a g ch) noPre (happBody d a) s

/-- HRUN (R162). -/
def execHrun (d : Dst) (a : Src) (g : Guard) (ch : Bool) (s : State) : Host.Outcome State Fault Refusal :=
  runThreads (.hrun d a g ch) noPre (hrunBody d a) s

/-- HRES (R163). -/
def execHres (d : Dst) (a : Src) (g : Guard) (ch : Bool) (s : State) : Host.Outcome State Fault Refusal :=
  runThreads (.hres d a g ch) noPre (hresBody d a) s

/-- HPEEK (R163). -/
def execHpeek (d : Dst) (a : Src) (g : Guard) (ch : Bool) (s : State) : Host.Outcome State Fault Refusal :=
  runThreads (.hpeek d a g ch) noPre (hpeekBody d a) s

/-- HPOIS (R164). -/
def execHpois (d a : Src) (g : Guard) (ch : Bool) (s : State) : Host.Outcome State Fault Refusal :=
  runThreads (.hpois d a g ch) noPre (hpoisBody 6 (some d) a) s

/-- HCLR (R164): in handler mode only. -/
def execHclr (a : Src) (g : Guard) (ch : Bool) (s : State) : Host.Outcome State Fault Refusal :=
  runThreads (.hclr a g ch) handlerOnly (hpoisBody 7 none a) s

end Sys2Proof.Machine
end

