-- ==== Sys2Proof/Machine/Load.lean ====
section
/-! DEFINITION. LDG, STG, LDS and STS, and the two events that complete them: a load's data return and the end of a
deferred access's walk (R142..R146, R305, R306). -/

namespace Sys2Proof.Machine

/-! ### Global -/

/-- LDG for one thread (R142): a translation that is not resolved defers the load, but for zr and ax (R305). -/
def ldgBody (x : Option (BitVec 24)) (d : Dst) (a : Src) (sz : LdSz) (off : BitVec 5) (s : State) (c t : Nat) :
    Res := do
  let n := ldBytes sz
  let ea := s.effAddr c t a (memOff x off n)
  checkAccess x ea n
  s.dstOwned c t d
  let va := s.regionAddr c t ea
  let s := s.countXlate c t va
  let charged (s : State) : State := (s.charge (s.core c).tenancy 0 n).bump c (posPart t) 24 n
  let canDefer := match d with | .w _ => true | _ => false
  if canDefer && (s.cached c (laneOf t) va).isNone then do
    s.srcsPresent c t [a]
    State.issueLoad ((charged s).defer c t 1 ea (ldCode sz) (dstCode d) 0) c t d sz (.global va 0 0) 3
  else
    let (e, s) ← s.xlate c t va .load
    s.srcsPresent c t [a]
    if s.seesPoison c (e.pa va) e.attr n then flt 29 (poisonInfo va)
    else (charged s).issueLoad c t d sz (.global va (e.pa va) e.attr) 0

/-- Whether the store of n bytes at ea of a lane that waits to issue can be applied now, or its unit stops the lane; a lane
whose translation is still to be found goes to its operand log first (R305). -/
def State.laneReady (s : State) (c t n ea : Nat) : Bool × State :=
  let va := s.regionAddr c t ea
  match s.cached c (laneOf t) va with
  | none => (false, s)
  | some e =>
    match s.checkEntry e va .store with
    | .ok e =>
      if !s.delay && e.attr == 1 && !s.replayable c && !s.atomicReady (dieOf c) (e.pa va) then (false, s)
      else s.bindBeside c t (e.pa va) n (if s.delay && !s.replayable c then s.unitKey c t else (4, 0, 0))
    | _ => (true, s)

/-- STG for one thread (R142): lanes that store to the same bytes do so in one step, in ascending order (R145, R261). -/
def stgBody (x : Option (BitVec 24)) (d a : Src) (sz : StSz) (off : BitVec 5) (s : State) (c t : Nat) : Res := do
  let n := stBytes sz
  let ea := s.effAddr c t a (memOff x off n)
  checkAccess x ea n
  let va := s.regionAddr c t ea
  let v := s.srcN c t (sz == .b64) d
  let s := s.countXlate c t va
  if (s.cached c (laneOf t) va).isNone then do
    s.srcsPresent c t [a, d]
    .ok ((s.charge (s.core c).tenancy 0 n).defer c t 2 ea (stCode sz) 0 (BitVec.ofNat 64 v), noLatch)
  else
    let (e, s) ← s.xlate c t va .store
    s.srcsPresent c t [a, d]
    s.checkStage c (e.pa va) n
    let addr (s : State) (u : Nat) : Nat := s.effAddr c u a (memOff x off n)
    let others := s.laneStores c t (s.unitKey c t) n va (e.pa va) fun u => some (addr s u)
    let lower (o : Nat × Bool) : Bool := decide (posLane o.1 < posLane t)
    if others.any fun o => lower o && !o.2 then .ok (s, .gone)
    else match s.lanesReady c (fun s u => s.laneReady c u n (addr s u)) ((t, false) :: others) with
    | (false, s) => .ok (s, .gone)
    | (true, s) =>
      let logs (l : List (Nat × Bool)) (s : State) : State := l.foldl (fun s o => s.logStore c o.1) s
      let s := logs (others.filter lower) (if others.any (·.2) then { s with delay := false } else s)
      let s := ((s.storeUnit c t va (e.pa va) e.attr (toBytes n v)).2).charge (s.core c).tenancy 0 n
      .ok (if others.all (·.2) then logs (others.filter (!lower ·)) s else s, noLatch)

/-- LDG (R142, R143): loads from global memory without waiting for the data. -/
def execLdg (x : Option (BitVec 24)) (d : Dst) (a : Src) (sz : LdSz) (g : Guard) (off : BitVec 5) (s : State) :
    Host.Outcome State Fault Refusal :=
  runThreads (.ldg x d a sz g off) noPre (ldgBody x d a sz off) s

/-- STG (R142). -/
def execStg (x : Option (BitVec 24)) (d a : Src) (sz : StSz) (g : Guard) (off : BitVec 5) (s : State) :
    Host.Outcome State Fault Refusal :=
  runThreads (.stg x d a sz g off) noPre (stgBody x d a sz off) s

/-! ### Scratchpad -/

/-- LDS for one thread (R142, R144): bound at issue, in the core's single order of scratchpad accesses (R251). -/
def ldsBody (x : Option (BitVec 24)) (d : Dst) (a : Src) (sz : LdSz) (off : BitVec 5) (s : State) (c t : Nat) :
    Res := do
  let n := ldBytes sz
  let ea := s.effAddr c t a (memOff x off n)
  checkAccess x ea n
  checkSpBounds ea n
  s.dstOwned c t d
  s.srcsPresent c t [a]
  checkPresent (s.core c) ea n
  checkSpPoison (s.core c) ea n
  let v := ldExtend sz (ofBytes ((s.core c).spRead ea n))
  (s.bump c (posPart t) 26 1).issueLoad c t d sz (.bound v) 0

/-- STS for one thread (R142, R144). -/
def stsBody (x : Option (BitVec 24)) (d a : Src) (sz : StSz) (off : BitVec 5) (s : State) (c t : Nat) : Res := do
  let n := stBytes sz
  let ea := s.effAddr c t a (memOff x off n)
  checkAccess x ea n
  checkSpBounds ea n
  checkOwned (s.core c) ea n
  s.srcsPresent c t [a, d]
  let v := s.srcN c t (sz == .b64) d
  .ok ((s.bump c (posPart t) 26 1).modCore c (·.spStore ea (toBytes n v)), noLatch)

/-- LDS (R142). -/
def execLds (x : Option (BitVec 24)) (d : Dst) (a : Src) (sz : LdSz) (g : Guard) (off : BitVec 5) (s : State) :
    Host.Outcome State Fault Refusal :=
  runThreads (.lds x d a sz g off) noPre (ldsBody x d a sz off) s

/-- STS (R142). -/
def execSts (x : Option (BitVec 24)) (d a : Src) (sz : StSz) (g : Guard) (off : BitVec 5) (s : State) :
    Host.Outcome State Fault Refusal :=
  runThreads (.sts x d a sz g off) noPre (stsBody x d a sz off) s

/-! ### Events -/

/-- Whether a load into an ax element of a lower lane of the same unit has still to write it (R145, R251). -/
def Core.axBefore (k : Core) (t : Nat) (p : Pend) : Bool :=
  let first (u : Nat) (q : Pend) : Bool :=
    q.ax.isSome && q.engine != 3 && q.spray == p.spray && q.pc == p.pc && posPart u == posPart t
      && decide (posLane u < posLane t)
  k.threads.any (fun e => e.2.pend.any (first e.1)) || k.axLoads.any fun a => first a.pos a.pend

/-- The data of load k of a thread's scoreboard arrives: it is bound, if it was not, after the thread's earlier loads
of the same bytes, and its destination is written (R143, R249); loads into ax elements write them in order, those of a
spray's unit in ascending lane order (R145, R251). -/
def State.returnLoad (s : State) (c t k : Nat) : State :=
  match s.thr? c t with
  | none => s
  | some th =>
    match th.pend[k]? with
    | none => s
    | some p =>
      if p.engine ≠ 0 then s
      else if p.ax.isSome && ((th.pend.take k).any (fun q => q.ax.isSome && q.engine != 3) || (s.core c).axBefore t p) then s
      else
        let earlier := match p.span with
          | some (pa, n) => overlapping (th.pend.take k) pa n
          | none => []
        match s.bindList c t earlier with
        | (false, s) =>
          match earlier.head? with
          | none => s
          | some q => match s.bind c t q with | .poison va => s.poisonLoad c t th q va | _ => s
        | (true, s) =>
          match s.bind c t p with
          | .ok v s => s.deliverLoad c t p v
          | .wait s => s
          | .poison va =>
            match s.thr? c t with
            | some th => s.poisonLoad c t th p va
            | none => s

/-- LOAD_DATA_RETURN (R143, R257, R338). -/
def execLoadDataReturn (c t k : Nat) (s : State) : Host.Outcome State Fault Refusal := .next (s.returnLoad c t k)

/-- A load into an ax element of a thread that has ended: what it becomes. Poison has no thread left to stop; a replayable
node is rolled back (R341). -/
def State.axLoad (s : State) (c : Nat) (a : AxLoad) : State :=
  let p := a.pend
  let finish (s : State) (v : DWord) : State :=
    let s := match p.ax with | some o => s.modCore c (·.spStore o (toBytes 4 (v.toNat % 2 ^ 32))) | none => s
    s.modCore c fun k => { k with axLoads := k.axLoads.filter (·.pend.id != p.id) }
  let k := s.core c
  if k.axBefore a.pos p || (k.axLoads.takeWhile (·.pend.id != p.id)).any (·.uid == a.uid) then s
  else
    match p.src with
    | .bound v => finish s v
    | .global va pa attr =>
      let n := ldBytes p.sz
      if k.late.any (fun w => w.uid == a.uid && w.meets pa n)
          || s.fwds.any (fun f => f.die == dieOf c && (a.owing.contains f.tag || k.owing.contains f.tag)
              && rangesMeet (f.pa, f.bytes.length) (pa, n)) then s
      else
        match s.loadNow c pa attr n (p.acqs == k.acqs) with
        | .wait s => s
        | .bytes bs poisoned s =>
          if !poisoned then finish s (ldExtend p.sz (ofBytes bs))
          else if s.replayable c then s.rollback (s.nodeNum c) (poisonInfo va)
          else s.modCore c fun k => { k with axLoads := k.axLoads.filter (·.pend.id != p.id) }

/-- The loads into ax elements of threads that have ended are performed as soon as they can be (R251). -/
def State.settleAx (s : State) : State :=
  s.cores.foldl (fun s e => e.2.axLoads.foldl (State.axLoad · e.1 ·) s) s

/-- The invalidation of an acquire that waits for earlier loads is made once these are performed (R258). -/
def State.settleAcq (s : State) : State :=
  s.cores.foldl (fun s e =>
    (e.2.threads.filter fun x => !x.2.acqWait.isEmpty && !x.2.pend.any fun p => !p.settled && x.2.acqWait.contains p.id).foldl
      (fun s x => (s.l1Drop e.1).modThr e.1 x.1 fun th => { th with acqWait := [] }) s) s

/-- DEFERRED_WALK_DONE (R305, R306): the walk of a deferred access ends. -/
def execDeferredWalkDone (c t : Nat) (s : State) : Host.Outcome State Fault Refusal :=
  match s.thr? c t with
  | none => .next s
  | some th =>
    match th.log with
    | some l => .next (if l.phase = .walking ∧ l.kind ≠ 3 then (s.performLog c t).afterWalk c t l else s)
    | none => .next s

end Sys2Proof.Machine
end

