-- ==== Sys2Proof/Machine/Fp.lean ====
section
/-! DEFINITION. Number formats and arithmetic: exact values, Widen, Round and quantising (R32..R47), the correctly
rounded and approximate functions (R52, R53). -/

namespace Sys2Proof.Machine

/-! ### Formats (R32, R35) -/

/-- How a floating-point format reads its all-ones exponent (R35). -/
inductive FpKind where
  | ieee | e4m3 | e2m1
deriving DecidableEq, Repr

/-- A floating-point element format: exponent and mantissa bits, bias. -/
structure Fp where
  e    : Nat
  m    : Nat
  bias : Nat
  kind : FpKind
deriving DecidableEq, Repr

def fp32 : Fp := ⟨8, 23, 127, .ieee⟩
def fp16 : Fp := ⟨5, 10, 15, .ieee⟩
def bf16 : Fp := ⟨8, 7, 127, .ieee⟩
def e5m2 : Fp := ⟨5, 2, 15, .ieee⟩
def e4m3 : Fp := ⟨4, 3, 7, .e4m3⟩
def e2m1 : Fp := ⟨2, 1, 1, .e2m1⟩

/-- An exact value: NaN, an infinity, or (−1)^neg × m × 2^e; a zero keeps its sign. -/
inductive Ex where
  | nan
  | inf (neg : Bool)
  | fin (neg : Bool) (m : Nat) (e : Int)
deriving DecidableEq, Repr

def Ex.zero : Ex := .fin false 0 0

/-- The exact value of an integer. -/
def Ex.ofInt (v : Int) : Ex := .fin (v < 0) v.natAbs 0

/-- The bits of a format. -/
def Fp.bits (f : Fp) : Nat := 1 + f.e + f.m

/-- The canonical NaN (R44). -/
def Fp.nan (f : Fp) : Nat :=
  match f.kind with
  | .ieee => (2 ^ f.e - 1) * 2 ^ f.m + 2 ^ (f.m - 1)
  | .e4m3 => 0x7F
  | .e2m1 => 0

/-- The pattern of the largest finite value. -/
def Fp.largest (f : Fp) : Nat :=
  match f.kind with
  | .ieee => (2 ^ f.e - 1) * 2 ^ f.m - 1
  | .e4m3 => 0x7E
  | .e2m1 => 0x7

def Fp.signed (f : Fp) (neg : Bool) (v : Nat) : Nat := v + (if neg then 2 ^ (f.e + f.m) else 0)

/-- Widen: the exact value of a pattern, with FZI applied (R35, R46). -/
def Fp.widen (f : Fp) (fzi : Bool) (v : Nat) : Ex :=
  let neg := bitOf v (f.e + f.m)
  let ex := v / 2 ^ f.m % 2 ^ f.e
  let mn := v % 2 ^ f.m
  if ex = 0 then
    if fzi then .fin neg 0 0 else .fin neg mn (1 - (f.bias : Int) - f.m)
  else
    let norm := Ex.fin neg (2 ^ f.m + mn) ((ex : Int) - f.bias - f.m)
    if ex = 2 ^ f.e - 1 then
      match f.kind with
      | .ieee => if mn = 0 then .inf neg else .nan
      | .e4m3 => if mn = 7 then .nan else norm
      | .e2m1 => norm
    else norm

/-! ### Rounding (R42..R47) -/

/-- The MODE fields that rounding uses (R41). -/
structure Rnd where
  rm  : Nat
  fzi : Bool
  fzo : Bool
  sat : Bool
deriving DecidableEq, Repr

def Rnd.none : Rnd := ⟨0, false, false, false⟩

def rndOf (m : Option Mode) : Rnd :=
  match m with
  | some m => ⟨m.rm.toNat, m.fzi, m.fzo, m.sat⟩
  | Option.none => Rnd.none

/-- m × 2^sh rounded to an integer under rm, for a value of sign neg: 0 RNE, 1 RZ, 2 RU, 3 RD, 4 RNA (R41). -/
def roundShift (rm : Nat) (neg : Bool) (m : Nat) (sh : Int) : Nat :=
  if 0 ≤ sh then m * 2 ^ sh.toNat
  else
    let k := (-sh).toNat
    let q := m / 2 ^ k
    let r := m % 2 ^ k
    if r = 0 then q
    else
      let half := 2 ^ (k - 1)
      let up := match rm with
        | 0 => decide (half < r) || (r == half && q % 2 == 1)
        | 1 => false
        | 2 => !neg
        | 3 => neg
        | _ => decide (half ≤ r)
      if up then q + 1 else q

/-- An overflow or an infinity (R43): away gives an infinity (NaN in E4M3) unless SAT. -/
def Fp.over (f : Fp) (r : Rnd) (neg away : Bool) : Nat :=
  match f.kind with
  | .e2m1 => f.signed neg f.largest
  | .e4m3 => if r.sat || !away then f.signed neg f.largest else f.nan
  | .ieee => if r.sat || !away then f.signed neg f.largest else f.signed neg (f.largest + 1)

/-- Whether an overflow is away from zero (R43). -/
def overAway (rm : Nat) (neg : Bool) : Bool :=
  match rm with
  | 1 => false
  | 3 => neg
  | 2 => !neg
  | _ => true

/-- Round(fmt, x, rm) to a floating-point format (R42..R47). -/
def Fp.round (f : Fp) (r : Rnd) (x : Ex) : Nat :=
  match x with
  | .nan => f.nan
  | .inf neg => f.over r neg true
  | .fin neg m e =>
    if m = 0 then f.signed neg 0
    else
      let qmin : Int := 1 - (f.bias : Int) - f.m
      let q : Int := max qmin ((log2 m : Int) + e - f.m)
      let n := roundShift r.rm neg m (e - q)
      if n = 0 then f.signed neg 0
      else
        let l := log2 n
        let ex : Int := (l : Int) + q
        if ex < 1 - (f.bias : Int) then
          if r.fzo then f.signed neg 0 else f.signed neg n
        else
          let pat := (ex + f.bias).toNat * 2 ^ f.m + (n / 2 ^ (l - f.m) - 2 ^ f.m)
          if f.largest < pat then f.over r neg (overAway r.rm neg) else f.signed neg pat

/-- Round to an integer format of n bits: clamps; NaN gives 0 (R42). -/
def roundInt (n : Nat) (uns : Bool) (rm : Nat) (x : Ex) : Int :=
  let lo : Int := if uns then 0 else -(2 ^ (n - 1) : Nat)
  let hi : Int := if uns then (2 ^ n : Nat) - 1 else (2 ^ (n - 1) : Nat) - 1
  match x with
  | .nan => 0
  | .inf neg => if neg then lo else hi
  | .fin neg m e =>
    let a : Int := roundShift rm neg m e
    let v := if neg then -a else a
    if v < lo then lo else if hi < v then hi else v

/-! ### Exact arithmetic (R44, R45) -/

def Ex.neg : Ex → Ex
  | .nan => .nan
  | .inf s => .inf (!s)
  | .fin s m e => .fin (!s) m e

def Ex.abs : Ex → Ex
  | .nan => .nan
  | .inf _ => .inf false
  | .fin _ m e => .fin false m e

/-- The signed mantissa at exponent e0, which must not exceed the value's. -/
def scaled (s : Bool) (m : Nat) (e e0 : Int) : Int :=
  let v : Int := m * 2 ^ (e - e0).toNat
  if s then -v else v

/-- The exact sum; an exact zero sum of opposite signs is +0, or −0 under RD (R45). -/
def Ex.add (rm : Nat) (a b : Ex) : Ex :=
  match a, b with
  | .nan, _ | _, .nan => .nan
  | .inf s, .inf t => if s = t then .inf s else .nan
  | .inf s, _ | _, .inf s => .inf s
  | .fin s m e, .fin t n f =>
    if m = 0 ∧ n = 0 then .fin (if s = t then s else rm == 3) 0 0
    else
      let e0 := min e f
      let v := scaled s m e e0 + scaled t n f e0
      if v = 0 then .fin (rm == 3) 0 0 else .fin (v < 0) v.natAbs e0

/-- The exact product (R44, R45). -/
def Ex.mul (a b : Ex) : Ex :=
  match a, b with
  | .nan, _ | _, .nan => .nan
  | .inf s, .inf t => .inf (s != t)
  | .inf s, .fin t m _ | .fin t m _, .inf s => if m = 0 then .nan else .inf (s != t)
  | .fin s m e, .fin t n f => .fin (s != t) (m * n) (e + f)

/-- a < b for values that are not NaN; −0 equals +0. -/
def Ex.lt (a b : Ex) : Bool :=
  match a, b with
  | .nan, _ | _, .nan => false
  | .inf s, .inf t => s && !t
  | .inf s, _ => s
  | _, .inf t => !t
  | .fin s m e, .fin t n f =>
    let e0 := min e f
    decide (scaled s m e e0 < scaled t n f e0)

def Ex.eqv (a b : Ex) : Bool :=
  match a, b with
  | .nan, _ | _, .nan => false
  | a, b => !a.lt b && !b.lt a

def Ex.isNan : Ex → Bool | .nan => true | _ => false
def Ex.isZero : Ex → Bool | .fin _ 0 _ => true | _ => false
def Ex.sign : Ex → Bool | .nan => false | .inf s => s | .fin s _ _ => s

/-- Integer square root, bit by bit from bit k down. -/
def isqrt (v : Nat) : Nat → Nat → Nat
  | 0, r => r
  | k + 1, r =>
    let r' := r + 2 ^ k
    isqrt v k (if r' * r' ≤ v then r' else r)

/-- The square root, with a sticky bit that keeps the side on which an inexact root lies: enough bits for one
correct rounding to any format (R52). Below zero gives NaN; √(±0) = ±0 (R53). -/
def Ex.sqrt : Ex → Ex
  | .nan => .nan
  | .inf s => if s then .nan else .inf false
  | .fin s m e =>
    if m = 0 then .fin s 0 0
    else if s then .nan
    else
      let sh : Nat := 80 + (if e % 2 = 0 then 0 else 1)
      let v := m * 2 ^ sh
      let r := isqrt v (log2 v / 2 + 1) 0
      .fin false (2 * r + (if r * r = v then 0 else 1)) ((e - (sh : Int)) / 2 - 1)

/-- The reciprocal, with a sticky bit (R52); 1/±0 = ±inf, 1/±inf = ±0 (R53). -/
def Ex.rcp : Ex → Ex
  | .nan => .nan
  | .inf s => .fin s 0 0
  | .fin s m e =>
    if m = 0 then .inf s
    else
      let k := log2 m + 64
      let q := 2 ^ k / m
      .fin s (2 * q + (if 2 ^ k % m = 0 then 0 else 1)) (-e - k - 1)

/-! ### The approximate functions (R52, R53) -/

/-- π × 2^400 and ln 2 × 2^200, rounded down. -/
def piFix : Nat := 0x3243f6a8885a308d313198a2e03707344a4093822299f31d0082efa98ec4e6c89452821e638d01377be5466cf34e90c6cc0ac
def ln2Fix : Nat := 0xb17217f7d1cf79abc9e3b39803f2f6af40f343267298b62d8a

/-- Sum of the series whose k-th term follows from the one before: term and index step, in fixed point. -/
def series (next : Int → Nat → Int) : Nat → Nat → Int → Int
  | 0, _, _ => 0
  | n + 1, k, t => t + series next n (k + 1) (next t k)

/-- e^t for 0 <= t < 1 in fixed point of 200 bits. -/
def expFix (t : Int) : Int := series (fun a k => a * t / 2 ^ 200 / (k + 1)) 50 0 (2 ^ 200)

/-- sin t and cos t for |t| <= 1 in fixed point of 200 bits. -/
def sinFix (t : Int) : Int :=
  series (fun a k => -(a * (t * t / 2 ^ 200) / 2 ^ 200) / ((2 * k + 2) * (2 * k + 3))) 25 0 t
def cosFix (t : Int) : Int :=
  series (fun a k => -(a * (t * t / 2 ^ 200) / 2 ^ 200) / ((2 * k + 1) * (2 * k + 2))) 25 0 (2 ^ 200)

/-- ln of n / 2^200 for n in 2^200 .. 2^201, in fixed point of 200 bits: 2 artanh((x − 1)/(x + 1)). -/
def lnFix (n : Int) : Int :=
  let z := (n - 2 ^ 200) * 2 ^ 200 / (n + 2 ^ 200)
  let z2 := z * z / 2 ^ 200
  let rec go : Nat → Nat → Int → Int
    | 0, _, _ => 0
    | f + 1, k, p => p / (2 * k + 1) + go f (k + 1) (p * z2 / 2 ^ 200)
  2 * go 70 0 z

/-- m × 2^e in fixed point of k bits, rounded down. -/
def toFix (neg : Bool) (m : Nat) (e : Int) (k : Nat) : Int :=
  let sh := e + k
  let v : Int := if 0 ≤ sh then (m * 2 ^ sh.toNat : Nat) else (m / 2 ^ (-sh).toNat : Nat)
  if neg then -v else v

def ofFix (v : Int) (k : Nat) : Ex := .fin (v < 0) v.natAbs (-(k : Int))

/-- sin (quarter = 0) or cos (quarter = 1) of a finite value that is not 0, to about 190 bits; of one below 2^-60, whose sine
lies just below it and whose cosine just below 1, a value on that side of the two with no FP32 value between. -/
def circular (quarter : Nat) (neg : Bool) (m : Nat) (e : Int) : Ex :=
  if (Ex.fin false m e).lt (.fin false 1 (-60)) then
    if quarter = 0 then .fin neg (m * 2 ^ 300 - 1) (e - 300) else .fin false (2 ^ 300 - 1) (-300)
  else
  let x := toFix neg m e 400
  let half : Int := piFix / 2
  let n := (2 * x + half) / (2 * half)               -- the nearest multiple of π/2
  let t := (x - n * half) / 2 ^ 200
  let q := ((n + quarter) % 4).toNat
  let v := match q with
    | 0 => sinFix t | 1 => cosFix t | 2 => -(sinFix t) | _ => -(cosFix t)
  ofFix v 200

/-- The exact result, to far more bits than FP32 holds, of fn 0 FRSQ, 1 FEX2, 2 FLG2, 3 FSIN, 4 FCOS at a finite
value that R53 does not list. -/
def approxExact (fn : Nat) (neg : Bool) (m : Nat) (e : Int) : Ex :=
  match fn with
  | 0 => (Ex.sqrt (.fin false m e)).rcp
  | 1 =>
    let x := toFix neg m e 200
    let n := x / 2 ^ 200
    let f := x - n * 2 ^ 200
    .fin false (expFix (f * ln2Fix / 2 ^ 200)).toNat (n - 200)
  | 2 =>
    let l := log2 m
    let mant : Int := m * 2 ^ 200 / 2 ^ l
    ofFix (((l : Int) + e) * 2 ^ 200 + lnFix mant * 2 ^ 200 / ln2Fix) 200
  | 3 => circular 0 neg m e
  | _ => circular 1 neg m e

/-- The largest error R52 allows at y, as an exact value: 2 ulp(y), of at most the largest finite value's spacing, or 2^−20
for FSIN and FCOS of |x| > 2^20. -/
def approxBound (fn : Nat) (big : Bool) (y : Ex) : Ex :=
  if 3 ≤ fn ∧ big then .fin false 1 (-20)
  else
    match y with
    | .fin _ m e =>
      let k := (log2 m : Int) + e
      if m = 0 then .fin false 1 (-148) else .fin false 1 (min (max k (-126)) 127 - 22)
    | _ => .zero

/-- The result of an approximate function of x whose exact result is y: the device's own pattern where it keeps R52's bound,
else the nearest value; big: |x| > 2^20. A result that is zero has the sign of y (R45). -/
def approxPick (fn : Nat) (x : Word) (big : Bool) (y : Ex) (r : Rnd) : Nat :=
  let c := (Config.approx fn x).toNat
  let cv := fp32.widen false c
  let err := (Ex.add 0 cv y.neg).abs
  let ok := (match cv with | .fin .. => true | _ => false) && !(approxBound fn big y).lt err
    && !((fp32.round { r with rm := 0 } cv == fp32.signed (!y.sign) 0))
    && !(decide (3 ≤ fn) && big && (Ex.fin false 1 0).lt cv.abs)
  fp32.round { r with rm := 0 } (if ok then cv else y)

/-- An approximate function at a finite value that R53 does not list. -/
def approxAt (fn : Nat) (x : Word) (neg : Bool) (m : Nat) (e : Int) (r : Rnd) : Nat :=
  approxPick fn x ((Ex.fin false 1 20).lt (.fin false m e)) (approxExact fn neg m e) r

/-! ### Block scales (R36, R39) -/

/-- The value of an E8M0 scale (R36). -/
def e8m0 (v : Nat) : Ex := if v % 256 = 0xFF then .nan else .fin false 1 ((v % 256 : Nat) - 127)

/-- The value of an E2M1S element with code c under scale S and spare V (R39), FZI applied to the code's value and to
the spare (R137). Code 0b1000 under a spare of 0x80 reads −0, its E4M3 value, although R39 says that the format has no −0:
the model's choice (notes/assumptions/52). -/
def e2m1sValue (fzi : Bool) (c sc v : Nat) : Ex :=
  (if c % 16 = 8 then e4m3.widen fzi (v % 256) else e2m1.widen fzi (c % 16)).mul (e8m0 sc)

end Sys2Proof.Machine
end

