-- ==== Sys2Proof/Machine/Tile.lean ====
section
/-! DEFINITION. Tile headers and the layout of tiles: fields, CRC, checks, addresses of elements, scales and metadata
(R58..R64, R66, R70), and the values of elements (R32..R39). -/

namespace Sys2Proof.Machine

/-! ### Headers (R58, R63) -/

/-- The fields of a header; res is the reserved field. -/
structure Hdr where
  ver    : Nat
  efmt   : Nat
  sfmt   : Nat
  sblk   : Nat
  sparse : Nat
  order  : Nat
  swz    : Nat
  fill   : Nat
  rows   : Nat
  cols   : Nat
  pitch  : Nat
  soff   : Nat
  moff   : Nat
  res    : Nat
  crc    : Nat
deriving DecidableEq, Repr

/-- The fields of a header image (R58). -/
def Hdr.of (w : BitVec 256) : Hdr :=
  let v := w.toNat
  { ver := bits v 7 0, efmt := bits v 12 8, sfmt := bits v 15 13, sblk := bits v 18 16, sparse := bits v 21 19
    order := bits v 23 22, swz := bits v 27 24, fill := bits v 31 28, rows := bits v 47 32, cols := bits v 63 48
    pitch := bits v 95 64, soff := bits v 127 96, moff := bits v 159 128, res := bits v 239 160
    crc := bits v 255 240 }

/-- One bit of CRC-16 (R63). -/
def crcBit (c : Nat) : Nat := if bitOf c 15 then (2 * c).xor 0x1021 % 2 ^ 16 else 2 * c % 2 ^ 16

/-- CRC-16 of bytes: x^16 + x^12 + x^5 + 1, from 0xFFFF, without reflection (R63). -/
def crc16 (bs : List Byte) : Nat :=
  bs.foldl (fun c b =>
    crcBit (crcBit (crcBit (crcBit (crcBit (crcBit (crcBit (crcBit (c.xor (b.toNat * 256)))))))))) 0xFFFF

/-- Bits 239:0 of a header image. -/
def Hdr.low (h : Hdr) : Nat :=
  h.ver + h.efmt * 2 ^ 8 + h.sfmt * 2 ^ 13 + h.sblk * 2 ^ 16 + h.sparse * 2 ^ 19 + h.order * 2 ^ 22
    + h.swz * 2 ^ 24 + h.fill * 2 ^ 28 + h.rows * 2 ^ 32 + h.cols * 2 ^ 48 + h.pitch * 2 ^ 64 + h.soff * 2 ^ 96
    + h.moff * 2 ^ 128 + h.res * 2 ^ 160

/-- The crc of a header's bytes 0..29 (R63). -/
def Hdr.sum (h : Hdr) : Nat := crc16 (toBytes 30 h.low)

/-- The image of a header, with a fresh crc. -/
def Hdr.image (h : Hdr) : BitVec 256 := BitVec.ofNat 256 (h.low + h.sum * 2 ^ 240)

/-! ### Formats (R32, R36, R59, R60) -/

/-- Bits of an element format; 0 for a reserved code (R32). -/
def efmtBits (f : Nat) : Nat :=
  match f with
  | 1 | 2 | 3 | 4 => 4
  | 5 | 6 | 7 | 8 => 8
  | 10 | 11 | 12 => 16
  | 13 | 14 | 15 => 32
  | _ => 0

/-- Bytes of a scale (R36). -/
def sfmtBytes (f : Nat) : Nat := match f with | 1 | 2 => 1 | 3 | 4 => 2 | 5 => 4 | _ => 0

/-- Elements of a scale block (R59); 0 where sblk names no block size. -/
def sblkLen (b : Nat) : Nat := match b with | 1 => 16 | 2 => 32 | 3 => 64 | 4 => 128 | _ => 0

/-- Integer element formats. -/
def efmtInt (f : Nat) : Bool := f == 1 || f == 2 || f == 5 || f == 6 || f == 12 || f == 14 || f == 15

/-- I4, N4, I8 and N8 (R56). -/
def efmtNarrow (f : Nat) : Bool := f == 1 || f == 2 || f == 5 || f == 6

/-- Bytes of an XOR swizzle's span (R62). -/
def swzSpan (z : Nat) : Nat := match z with | 1 => 128 | 2 => 64 | 3 => 32 | _ => 1

def cdiv (a b : Nat) : Nat := (a + b - 1) / b

/-- Length of the inner dimension and number of lines (R60). -/
def Hdr.inner (h : Hdr) : Nat := if h.order = 0 then h.cols else h.rows
def Hdr.lines (h : Hdr) : Nat := if h.order = 0 then h.rows else h.cols

/-- Elements stored in one line, and its bytes (R60). -/
def Hdr.stored (h : Hdr) : Nat := if h.sparse = 1 ∨ h.sparse = 2 then h.inner / 2 else h.inner
def Hdr.lineBytes (h : Hdr) : Nat := cdiv (h.stored * efmtBits h.efmt) 8

/-- Bytes of one line's span: an XOR swizzle permutes the bytes of whole spans (R62). -/
def Hdr.wide (h : Hdr) : Nat := cdiv h.lineBytes (swzSpan h.swz) * swzSpan h.swz

/-- Number of scales (R60). -/
def Hdr.scales (h : Hdr) : Nat :=
  match h.sblk with
  | 0 => 0
  | 5 => h.rows
  | 6 => h.cols
  | 7 => 1
  | b => h.lines * cdiv h.inner (sblkLen b)

/-- Bytes of the sparsity metadata (R61). -/
def Hdr.metaBytes (h : Hdr) : Nat :=
  match h.sparse with
  | 1 => cdiv (h.lines * (h.inner / 4)) 2
  | 2 => 2 * (h.lines * (h.inner / 8))
  | 3 => cdiv (h.rows / 8 * (h.cols / 8)) 8
  | _ => 0

/-- Whether pitch is not used (R60). -/
def Hdr.pitchless (h : Hdr) : Bool := h.sparse == 3 || h.swz == 4

/-! ### Bindings (R64) -/

def bindKind (b : BitVec 64) : Nat := b.toNat % 4

/-- Bits of a binding that must be 0 (R64). -/
def bindBad (b : BitVec 64) : Bool :=
  let v := b.toNat
  bits v 4 2 != 0 ||
    (match bindKind b with
     | 0 => bits v 63 57 != 0
     | 1 => bits v 63 20 != 0
     | 3 => bits v 63 23 != 0
     | _ => bits v 63 5 != 0)

/-- Data address, scratchpad offset or first accumulator. -/
def bindLoc (b : BitVec 64) : Nat := b.toNat / 32 * 32

/-- First accumulator of a cistern tile (R64): the field in bits 22:5. -/
def bindAcc (b : BitVec 64) : Nat := b.toNat / 32 % 2 ^ 18

/-- The offending value of a fault record's 32-bit word: of a reserved field or a binding wider than that, bits 31:0
(DESIGN CHOICE, notes/assumptions/52). -/
def lowWord (n : Nat) : Nat := n % 2 ^ 32

/-! ### The rows marked Any of R70 -/

/-- The first of a list of conditions that holds: its field number and value. -/
def firstFault (l : List (Bool × Nat × Nat)) : Option (Nat × Nat) := (l.find? (·.1)).map (·.2)

/-- The rows of R70 marked Any, in table order; a sparsity size requirement that is not met is field 4 (DESIGN CHOICE,
notes/assumptions/52). -/
def Hdr.anyFault (h : Hdr) (b : BitVec 64) : Option (Nat × Nat) :=
  let pairing := h.efmt + h.sfmt * 2 ^ 8 + h.sblk * 2 ^ 16
  firstFault
    [(h.ver != 1, 0, h.ver), (h.res != 0, 12, lowWord h.res), (bindBad b, 13, lowWord b.toNat),
     (efmtBits h.efmt == 0, 1, h.efmt), (decide (5 < h.sfmt), 2, h.sfmt), (decide (3 < h.sparse), 4, h.sparse),
     (decide (4 < h.swz), 5, h.swz), (decide (1 < h.order), 6, h.order), (h.rows == 0, 7, 0), (h.cols == 0, 8, 0),
     ((h.sblk == 0) != (h.sfmt == 0) || (h.efmt == 4) != (h.sfmt == 3) || (h.efmt == 4 && h.sblk != 2), 14, pairing),
     (if h.pitchless then h.pitch != 0
      else decide (h.pitch < h.lineBytes) || h.pitch % swzSpan h.swz != 0, 9, h.pitch),
     ((h.sparse == 1 && h.inner % 4 != 0) || (h.sparse == 2 && h.inner % 8 != 0)
       || (h.sparse == 3 && (h.rows % 8 != 0 || h.cols % 8 != 0)), 4, h.sparse)]

/-! ### Footprints -/

/-- An address relative to the header's first byte, 32 bytes before the data (R60). -/
def headAt (data off : Nat) : Nat := (data + off + 2 ^ 57 - 32) % 2 ^ 57

/-- The marked blocks of a bm8 tile before block q (R61). -/
def blocksBefore (mask : Nat → Bool) : Nat → Nat
  | 0 => 0
  | q + 1 => blocksBefore mask q + b2n (mask q)

/-- Bits of the bm8 mask, read through rd. -/
def Hdr.mask (h : Hdr) (data : Nat) (rd : Nat → Byte) (q : Nat) : Bool :=
  bitOf (rd ((headAt data h.moff + q / 8) % 2 ^ 57)).toNat (q % 8)

/-- The bytes of a macro tile that hold positions inside rows × cols (R62): whole blocks of 128 × 64 elements where the rows
fill them, else the part of each column. -/
def Hdr.macroRanges (h : Hdr) (data : Nat) : List (Nat × Nat) :=
  let b := efmtBits h.efmt
  (List.range (cdiv h.rows 128)).flatMap fun kq =>
    (List.range (cdiv h.cols 64)).flatMap fun nq =>
      let at_ := data + (4 * kq + nq) * 8192 * b / 8
      let k := min 128 (h.rows - 128 * kq)
      let n := min 64 (h.cols - 64 * nq)
      if k = 128 then [(at_, n * 128 * b / 8)]
      else (List.range n).map fun j => (at_ + j * 128 * b / 8, cdiv (k * b) 8)

/-- The ranges of data bytes that a consumer reads, line by line (R60..R62). -/
def Hdr.dataRanges (h : Hdr) (data pitch : Nat) (rd : Nat → Byte) : List (Nat × Nat) :=
  let b := efmtBits h.efmt
  if h.swz = 4 then h.macroRanges data
  else if h.sparse = 3 then [(data, blocksBefore (h.mask data rd) (h.rows / 8 * (h.cols / 8)) * 8 * b)]
  else (List.range h.lines).map fun l => (data + l * pitch, h.wide)

/-- The footprint of the data: that of a macro tile is always 512 × 256 elements (R62). -/
def Hdr.footRanges (h : Hdr) (data pitch : Nat) (rd : Nat → Byte) : List (Nat × Nat) :=
  if h.swz = 4 then [(data, 512 * 256 * efmtBits h.efmt / 8)] else h.dataRanges data pitch rd

/-- Metadata, then scales. -/
def Hdr.sideRanges (h : Hdr) (data : Nat) : List (Nat × Nat) :=
  (if h.metaBytes = 0 then [] else [(headAt data h.moff, h.metaBytes)])
    ++ (if h.scales = 0 then [] else [(headAt data h.soff, h.scales * sfmtBytes h.sfmt)])

/-- Cut into pieces of one 128-byte line each, in ascending order. -/
def cutLines (rs : List (Nat × Nat)) : List (Nat × Nat) := rs.flatMap fun r => linePieces (r.2 / 128 + 2) r.1 r.2

/-- Whether the footprint passes the end of the scratchpad (R70). A bm8 tile's marked blocks are known only once
its mask is read. -/
def Hdr.beyond (h : Hdr) (data : Nat) : Bool :=
  (h.sideRanges data ++ h.footRanges data h.pitch fun _ => 0).any fun r => decide (Config.spBytes < r.1 + r.2)

/-! ### Elements (R60..R62) -/

/-- The byte at offset o of line l, swizzled (R62). -/
def swizzle (z l o : Nat) : Nat :=
  match z with
  | 1 => o.xor (l % 8 * 16)
  | 2 => o.xor (l % 4 * 16)
  | 3 => o.xor (l % 2 * 16)
  | _ => o

/-- A field of b bits, 4 to 32, at element number n from a line's first byte, read through rd at swizzled offsets. -/
def patternAt (b n : Nat) (rd : Nat → Byte) : Nat :=
  if b = 4 then (rd (n / 2)).toNat / (if n % 2 = 0 then 1 else 16) % 16
  else ofBytes ((List.range (b / 8)).map fun k => rd (n * (b / 8) + k))

/-- Positions of the stored values of a 2of4 or 4of8 group (R61). -/
def groupPositions (sparse m : Nat) : List Nat :=
  if sparse = 1 then [m % 4, m / 4 % 4] else [m % 8, m / 8 % 8, m / 64 % 8, m / 512 % 8]

/-- The metadata of group g of line l (R61). -/
def Hdr.groupMeta (h : Hdr) (data : Nat) (rd : Nat → Byte) (l g : Nat) : Nat :=
  let base := headAt data h.moff
  if h.sparse = 1 then
    let n := l * (h.inner / 4) + g
    (rd ((base + n / 2) % 2 ^ 57)).toNat / (if n % 2 = 0 then 1 else 16) % 16
  else
    let a := base + 2 * (l * (h.inner / 8) + g)
    (rd (a % 2 ^ 57)).toNat + 256 * (rd ((a + 1) % 2 ^ 57)).toNat

def ascending : List Nat → Bool
  | a :: b :: l => decide (a < b) && ascending (b :: l)
  | _ => true

/-- Whether a group keeps the rules of R61. -/
def groupOk (sparse m : Nat) : Bool := ascending (groupPositions sparse m) && (sparse != 2 || m / 2 ^ 12 == 0)

/-- The first group that breaks them: line and group (R61). -/
def Hdr.badGroup (h : Hdr) (data : Nat) (rd : Nat → Byte) : Option (Nat × Nat) :=
  if h.sparse = 1 ∨ h.sparse = 2 then
    let per := h.inner / (if h.sparse = 1 then 4 else 8)
    ((List.range h.lines).flatMap fun l => (List.range per).map fun g => (l, g)).find? fun e =>
      !groupOk h.sparse (h.groupMeta data rd e.1 e.2)
  else none

/-- The pattern of the element at line l and inner position q, with 0 for one that is not stored (R60, R61). -/
def Hdr.lineElem (h : Hdr) (data pitch : Nat) (rd : Nat → Byte) (l q : Nat) : Nat :=
  let b := efmtBits h.efmt
  let at_ (n : Nat) : Nat := patternAt b n fun o => rd ((data + l * pitch + swizzle h.swz l o) % 2 ^ 57)
  if h.sparse = 1 ∨ h.sparse = 2 then
    let size := if h.sparse = 1 then 4 else 8
    match (groupPositions h.sparse (h.groupMeta data rd l (q / size))).findIdx? (· == q % size) with
    | some r => at_ (q / size * (size / 2) + r)
    | none => 0
  else at_ q

/-- The pattern of element (i, j) (R60..R62). An XOR swizzle permutes the bytes of lines, and the blocks of a bm8 tile have
no lines: it permutes nothing there; a macro tile that is sparse too is read as if every element were stored (DESIGN
CHOICE, notes/assumptions/52). -/
def Hdr.pattern (h : Hdr) (data pitch : Nat) (rd : Nat → Byte) (i j : Nat) : Nat :=
  let b := efmtBits h.efmt
  if h.swz = 4 then
    patternAt b ((4 * (i / 128) + j / 64) * 8192 + j % 64 * 128 + i % 128) fun o => rd ((data + o) % 2 ^ 57)
  else if h.sparse = 3 then
    let q := i / 8 * (h.cols / 8) + j / 8
    if h.mask data rd q then
      patternAt b (blocksBefore (h.mask data rd) q * 64 + i % 8 * 8 + j % 8) fun o => rd ((data + o) % 2 ^ 57)
    else 0
  else if h.order = 0 then h.lineElem data pitch rd i j
  else h.lineElem data pitch rd j i

/-- The index of the scale of element (i, j) (R60). -/
def Hdr.scaleIndex (h : Hdr) (i j : Nat) : Nat :=
  let l := if h.order = 0 then i else j
  let q := if h.order = 0 then j else i
  match h.sblk with
  | 5 => i
  | 6 => j
  | 0 | 7 => 0
  | b => l * cdiv h.inner (sblkLen b) + q / sblkLen b

/-- The bytes of the scale of element (i, j), as a number; 0 without scales. -/
def Hdr.scaleOf (h : Hdr) (data : Nat) (rd : Nat → Byte) (i j : Nat) : Nat :=
  let n := sfmtBytes h.sfmt
  let a := headAt data h.soff + h.scaleIndex i j * n
  ofBytes ((List.range n).map fun k => rd ((a + k) % 2 ^ 57))

/-- Element (i, j) as banks keep it: pattern, and scale from bit 32 up. -/
def Hdr.elem (h : Hdr) (data pitch : Nat) (rd : Nat → Byte) (i j : Nat) : Nat :=
  h.pattern data pitch rd i j + 2 ^ 32 * h.scaleOf data rd i j

/-- All elements, row by row. -/
def Hdr.elems (h : Hdr) (data pitch : Nat) (rd : Nat → Byte) : List (List Nat) :=
  (List.range h.rows).map fun i => (List.range h.cols).map fun j => h.elem data pitch rd i j

/-! ### Values (R33..R39) -/

/-- The value of a pattern of an element format, E2M1S aside (R33, R35, R46). -/
def efmtEx (f : Nat) (fzi : Bool) (v : Nat) : Ex :=
  match f with
  | 1 => Ex.ofInt (sxInt v 4)
  | 2 => Ex.ofInt (v % 2 ^ 4 : Nat)
  | 3 => e2m1.widen fzi (v % 2 ^ 4)
  | 5 => Ex.ofInt (sxInt v 8)
  | 6 => Ex.ofInt (v % 2 ^ 8 : Nat)
  | 7 => e4m3.widen fzi (v % 2 ^ 8)
  | 8 => e5m2.widen fzi (v % 2 ^ 8)
  | 10 => fp16.widen fzi (v % 2 ^ 16)
  | 11 => bf16.widen fzi (v % 2 ^ 16)
  | 12 => Ex.ofInt (sxInt v 16)
  | 13 => fp32.widen fzi (v % 2 ^ 32)
  | 14 => Ex.ofInt (sxInt v 32)
  | _ => Ex.ofInt (v % 2 ^ 32 : Nat)

/-- The value of a scale; scales are never flushed (R36, R46). -/
def scaleEx (f v : Nat) : Ex :=
  match f with
  | 1 => e8m0 v
  | 2 => if 0x7F ≤ v % 256 then .nan else e4m3.widen false (v % 256)
  | 4 => fp16.widen false (v % 2 ^ 16)
  | 5 => fp32.widen false (v % 2 ^ 32)
  | _ => Ex.ofInt 1

/-- The value of a scaled element (R37, R39): the exact product, NaN under a NaN scale. An element that is not stored is the
pattern +0 (R61) under its scale like any other, so a NaN or infinite scale makes it NaN (DESIGN CHOICE, notes/assumptions/52). -/
def Hdr.value (h : Hdr) (fzi : Bool) (e : Nat) : Ex :=
  let sc := e / 2 ^ 32
  if h.efmt = 4 then e2m1sValue fzi (e % 16) (sc % 256) (sc / 256 % 256)
  else if h.sfmt = 0 then efmtEx h.efmt fzi (e % 2 ^ 32)
  else (efmtEx h.efmt fzi (e % 2 ^ 32)).mul (scaleEx h.sfmt sc)

/-- Round to an element format, as a pattern (R42). -/
def efmtRound (f : Nat) (r : Rnd) (x : Ex) : Nat :=
  match f with
  | 1 => modInt 4 (roundInt 4 false r.rm x)
  | 2 => modInt 4 (roundInt 4 true r.rm x)
  | 3 => e2m1.round r x
  | 5 => modInt 8 (roundInt 8 false r.rm x)
  | 6 => modInt 8 (roundInt 8 true r.rm x)
  | 7 => e4m3.round r x
  | 8 => e5m2.round r x
  | 10 => fp16.round r x
  | 11 => bf16.round r x
  | 12 => modInt 16 (roundInt 16 false r.rm x)
  | 14 => modInt 32 (roundInt 32 false r.rm x)
  | 15 => modInt 32 (roundInt 32 true r.rm x)
  | _ => fp32.round r x

/-- The bytes of one line from its elements' patterns; a last half byte that no element fills is pad (R34). -/
def packLine (b pad : Nat) : List Nat → List Byte
  | [] => []
  | [a] => if b = 4 then [BitVec.ofNat 8 (a % 16 + 16 * (pad % 16))] else toBytes (b / 8) a
  | a :: c :: l =>
    if b = 4 then BitVec.ofNat 8 (a % 16 + 16 * (c % 16)) :: packLine b pad l
    else toBytes (b / 8) a ++ (toBytes (b / 8) c ++ packLine b pad l)

/-- Where the bytes of line l go: pieces of one line each, 16-byte granules under a swizzle (R60, R62). -/
def Hdr.placeLine (h : Hdr) (data pitch l : Nat) (bs : List Byte) : List (Nat × List Byte) :=
  let base := data + l * pitch
  if h.swz = 0 ∨ h.swz = 4 then
    (linePieces (bs.length / 128 + 2) base bs.length).map fun p => (p.1, (bs.drop (p.1 - base)).take p.2)
  else
    (List.range (cdiv bs.length 16)).map fun k => (base + swizzle h.swz l (16 * k), (bs.drop (16 * k)).take 16)

end Sys2Proof.Machine
end

