-- ==== Sys2Proof/Machine/Tstore.lean ====
section
/-! DEFINITION. The template stores of a stamped item, made before its first unit (R193). -/

namespace Sys2Proof.Machine

/-- The value of register v of template n of a partition, as it stood at FREEZE, with its poison (R193, R225). -/
def Part.tmplReg (p : Part) (n v : Nat) : Word × Bool :=
  match tget? p.tmpls n with
  | some x => entValue p entDepth x.win (x.win.wbase + v)
  | none => (0, false)

/-- The bytes of a template store: register v, or the pair from v. -/
def Part.tstoreBytes (p : Part) (n : Nat) (st : TStore) : List Byte × Bool :=
  let lo := p.tmplReg n st.v
  let hi := p.tmplReg n (st.v + 1)
  let b := stBytes st.sz
  if st.sz = .b64 then (toBytes 4 lo.1.toNat ++ toBytes 4 hi.1.toNat, lo.2 || hi.2)
  else (toBytes b lo.1.toNat, lo.2)

/-- The address of a template store of item i: base + i x stride, mod 2^32 (R193). -/
def TStore.addr (st : TStore) (i : Word) : Nat := (st.base + i * st.stride).toNat

/-- The template stores of an item: those of its template. -/
def State.itemStores (s : State) (c t : Nat) (th : Thread) : List TStore :=
  match th.tmpl with
  | some n => match tget? (s.part c (posPart t)).tmpls n with | some x => x.stores | none => []
  | none => []

/-- Makes one template store (R193, R140, R144, R146, R339). It waits for the weir (R296), for the clock of an ATOMIC line
(R267) and for late stores to the same bytes (R252). -/
def State.tstore (s : State) (c t : Nat) (th : Thread) (st : TStore) : Except Stop State := do
  let n := stBytes st.sz
  let ea := st.addr th.it
  let (bs, poisoned) := (s.part c (posPart t)).tstoreBytes (th.tmpl.getD 0) st
  if poisoned then flt 29 [2, wd st.v, 0]
  else if st.sp then do
    checkSpBounds ea n
    checkOwned (s.core c) ea n
    .ok (s.modCore c (·.spStore ea bs))
  else do
    let va := regionVa th.region (wd ea)
    let (e, s) ← s.xlate c t va .store
    s.checkStage c (e.pa va) n
    if s.weirHolds (s.core c).tenancy 0 then .error .hold
    else
      match s.storeNow c t (e.pa va) e.attr bs with
      | (true, s) => .ok (s.charge (s.core c).tenancy 0 n)
      | (false, _) => .error .hold

/-- Makes a list of template stores in order; what stops one, with the state the earlier ones left. -/
def State.tstoreAll (s : State) (c t : Nat) (th : Thread) : List TStore → Option Stop × State
  | [] => (none, s)
  | st :: l =>
    match s.tstore c t th st with
    | .error e => (some e, s)
    | .ok s => s.tstoreAll c t th l

/-- The instruction word of the unit at the thread's PC; 0 where it cannot be fetched. -/
def State.unitWord (s : State) (c : Nat) (th : Thread) : Word :=
  match (s.fetchUnit c th).1 with
  | .unit (.ok _ n) ws => ws.getD (n - 1) 0
  | .unit (.trap _ _ w) _ => w
  | _ => 0

/-- How the template stores of an item end: made, waiting, or the item is stopped before its first unit. -/
inductive Pre where
  | done (s : State)
  | wait
  | stopped (s : State)

/-- The template stores of a stamped item before its first unit (R193): a page fault parks the item; a fault is raised
at its first unit. They are made again when the item resumes there. -/
def State.prestore (s : State) (c t : Nat) (th : Thread) : Pre :=
  match s.tstoreAll c t th (s.itemStores c t th) with
  | (none, s) => .done (s.modThr c t fun th => { th with tsDone := true })
  | (some (.page va), s) => .stopped (s.pageFault c t th va th.pc)
  | (some (.off pa), s) => .stopped { s with bad := some pa }
  | (some (.trap cls kind info _), s) =>
    if kind = 29 ∧ s.replayable c then .stopped (s.rollback (s.nodeNum c) info)
    else .stopped (s.takeTrap c t cls kind info th.head th.pc (s.unitWord c th))
  | (some _, _) => .wait

end Sys2Proof.Machine
end

