-- ==== Sys2Proof/Machine/Issue.lean ====
section
/-! DEFINITION. When a thread's next unit can issue, the PC table's READY and HELD, spray formation and the choice
of the unit that issues (R143, R205..R213, R215, R268, R305). -/

namespace Sys2Proof.Machine

/-! ### Conditions of issue (R211) -/

/-- The scratchpad offsets of the ax elements a unit names. -/
def axOffsets (th : Thread) (i : Instr) : List Nat :=
  (i.srcs.filterMap fun r => match r with | .f (.ax n) _ => some (th.axElem n) | _ => none)
  ++ (i.dsts.filterMap fun r => match r with | .f (.ax n) _ => some (th.axElem n) | _ => none)
  ++ (match i with
      | .movx _ n k _ _ | .stx n k _ _ _ => [arrElem (th.ar n) (th.ix k.toNat)]
      | _ => [])

/-- Registers of one row of a register-resident tile: allocation entries from register x upward (R66). -/
def Thread.rowEnts (th : Thread) (x cols efmt : Nat) : List Nat :=
  (List.range (cdiv (cols * efmtBits efmt) 32)).map (th.win.wbase + x + ·)

/-- The allocation entries of the register-resident tile that a unit names in the thread at position t, and whether the
unit writes them (R66, R176, R178). -/
def State.tileEnts (s : State) (c t : Nat) (th : Thread) (i : Instr) : List Nat × Bool :=
  let hdr (n : Nat) : Option Hdr := (tget? (s.core c).slots n).map fun sl => Hdr.of sl.hdr
  let tile (n : Nat) : Option Hdr :=
    ((tget? (s.core c).slots n).filter fun sl => bindKind sl.bind == 2).map fun sl => Hdr.of sl.hdr
  let row (x : Nat) (shape fmt : Option Hdr) : List Nat :=
    match shape, fmt with
    | some a, some b => if posLane t < a.rows then th.rowEnts x a.cols b.efmt else []
    | _, _ => []
  match i with
  | .mmaReg _ _ x _ h | .mmazReg _ _ x _ h | .accldReg _ x _ h => (row x.toNat (tile h.toNat) (tile h.toNat), false)
  | .accstReg _ _ x y h => (row x.toNat (hdr h.toNat) (tile y.toNat), true)
  | _ => ([], false)

/-- Whether a register the unit reads or writes is pending (R143), or a load into an ax element that it comes after (R251).
The registers of an LDM's later beats hold nothing back: no unit but the LDM's own chain can run before they complete
(R150). -/
def Thread.pendingFor (th : Thread) (i : Instr) : Bool :=
  let xs := axOffsets th i
  th.touches i (th.pend.filter (·.engine != 1))
    || th.pend.any fun p => p.ax.any xs.contains || (p.ax.isSome && i.afterAx)

/-- Whether a latch the unit reads still waits for its load (R143). -/
def Thread.latchWait (th : Thread) (i : Instr) : Bool :=
  i.latches.any fun k => match th.lats[k - 1]? with | some (.load _) => true | _ => false

def Thread.oc (th : Thread) (k : EngClass) : Nat :=
  match k with | .cp => th.ocCp | .mx => th.ocMx | .ga => th.ocGa | .co => th.ocCo

/-- Whether the FENCE's conditions hold for the thread (R253, R269). ATOMG are applied, and HOB instructions complete, at
their own step; what can be outstanding is a load not bound, a load into an ax element that has not written it, a deferred
access, a late store and a REPL store not applied on every die. -/
def State.fenceOk (s : State) (c : Nat) (th : Thread) (k : FenceKind) (sc : Scope) : Bool :=
  if sc = .t then true
  else
    let loads := th.pend.all Pend.settled
    let owed := s.fwds.any (s.owes c th)
    loads && (k = .acq || (s.storesMade c th && (!(sc = .x || sc = .f) || !owed)))

/-- Units that a FENCE.rel holds: stores of either space, atomics, HOB units and engine operations (R253, R271). -/
def isStoreUnit (i : Instr) : Bool :=
  (match i with
    | .stg .. | .sts .. | .stm .. | .stx .. | .atomg .. | .atoms .. => true
    | i => i.isHob || i.isE)
  || i.dsts.any fun r => match r with | .f (.ax _) _ => true | _ => false

/-- Whether a load, a late store or a REPL store that an earlier FENCE.rel orders is still outstanding (R253, R269). -/
def State.relPending (s : State) (c : Nat) (th : Thread) : Bool :=
  (th.pend.any fun p => !p.settled && th.relWait.loads.contains p.id)
    || (s.core c).late.any (fun w => th.relWait.late.contains w.tag)
    || (s.recordsOf c th).any (fun r => th.relWait.late.contains r.tag)
    || s.fwds.any fun f => th.relWait.repl.contains f.tag

/-- Whether the thread's stores that a HOB unit or an engine operation comes after have been applied (R258, R271). -/
def State.storesDone (s : State) (c : Nat) (th : Thread) (i : Instr) : Bool :=
  !(i.isHob || i.isE) || ((s.core c).lateOf th).isEmpty

/-- The window fault of the registers of a register-resident tile that a unit names from code r (R17, R66). -/
def State.tileWindow (s : State) (c t : Nat) (r : Option Nat) (i : Instr) : Except Stop Unit :=
  match r, s.thr? c t with
  | some r, some th => windowFault th.win r (s.tileEnts c t th i).1.length
  | _, _ => .ok ()

def Core.partQueue (k : Core) (p : Nat) : List MxOp := k.mxq.filter (·.part == p)

/-- The scoreboard entries of a thread: a pending load into zr writes no register and has none (R356). -/
def Thread.boardUse (th : Thread) : Nat := (th.pend.filter (!·.latch)).length

/-- Scoreboard entries a unit needs (R356). -/
def boardNeed (i : Instr) : Nat :=
  match i with
  | .ldg _ .zr .. | .lds _ .zr .. => 0
  | .ldg .. | .lds .. | .ldm .. | .accstReg .. | .mmaReg .. | .mmazReg .. | .accldReg .. => 1
  | _ => 0

/-- Units that take the whole window with them: they wait for its pending loads (R143, R195, R225). -/
def movesWindow (i : Instr) : Bool := match i with | .freeze .. | .migr .. => true | _ => false

/-- Whether the engine that a unit issues to has no free entry (R236, R243). -/
def Core.engineFull (k : Core) (t : Nat) (i : Instr) : Bool :=
  match i with
  | .cpy .. | .cpyg .. => decide (Config.spoutEntries ≤ k.copies.length)
  | i => i.cls == some .mx && decide (Config.queueEntries ≤ (k.partQueue (posPart t)).length)

/-- Whether the conditions of a FENCE hold, or those of the fence that a MIGR performs (R195, R253). -/
def State.fenceIssues (s : State) (c : Nat) (th : Thread) (i : Instr) : Bool :=
  match i with
  | .fence fk sc _ _ => fk == .rel || s.fenceOk c th fk sc
  | .migr .. => s.fenceOk c th .full .d
  | _ => true

/-- Whether the home die of the object of a HOB unit differs from the thread's die (R269): the object at its address, or the
one its record names as the thread's die shows it; a record that the die holds no copy of counts as far. -/
def State.hobFar (s : State) (c t : Nat) (i : Instr) : Bool :=
  let ten := (s.core c).tenancy
  let va (a : Src) : Nat := s.regionAddr c t (s.src c t a).toNat
  let far (v : Nat) : Bool := match s.walkFor ten v .load with | .ok e => homeDie (e.pa v) != dieOf c | _ => false
  match i with
  | .hann _ a _ _ | .hrun _ a _ _ | .pxpush _ _ a | .launch _ _ a =>
    match s.walkFor ten (va a) .load with
    | .ok e =>
      match s.sliceRead (dieOf c) (e.pa (va a)) e.attr 32 with
      | some (r, _) => far (fieldAt r 8 8 % 2 ^ 57)
      | none => true
    | _ => false
  | .hinit _ a _ _ | .happ _ a _ _ | .hpeek _ a _ _ | .hpois _ a _ _ | .hclr a _ _ => far (va a)
  | _ => false

/-- Whether the conditions of the release that a unit performs hold (R258, R259, R269). -/
def State.releaseOk (s : State) (c t : Nat) (th : Thread) (i : Instr) : Bool :=
  !i.releases || s.fenceOk c th .rel (if i.isStep then (if s.hobFar c t i then .x else .d) else .c)

/-- Whether a WAITC's counter is low enough (R111). -/
def Thread.waitcOk (th : Thread) (i : Instr) : Bool :=
  match i with | .waitc q n _ _ => decide (th.oc q ≤ n.toNat) | _ => true

/-- Whether an effect of one thread stops the thread. -/
def resStops (r : Res) : Bool :=
  match r with | .error _ => true | .ok _ => false

/-- Whether a unit that the weir holds stops the thread at a fault or a page fault all the same: weir holds come after
these conditions (R169). The unit is tried with no budget in force. -/
def State.stopsAnyway (s : State) (c t : Nat) (th : Thread) (i : Instr) : Bool :=
  let s := s.modTen (s.core c).tenancy fun x => { x with budgets := [] }
  let at_ (va : Nat) (acc : Acc) : Bool := match s.xlate c t va acc with | .error _ => true | .ok _ => false
  (match checkUnit i noPre s c t th with | .error _ => true | .ok _ => false)
    || match i with
      | .ldg x d a sz _ off => resStops (ldgBody x d a sz off s c t)
      | .stg x d a sz _ off => resStops (stgBody x d a sz off s c t)
      | .atomg x m d a op _ off => resStops (atomgBody x m d a op off s c t)
      | .ldm _ f b n sp off => resStops (ldmBody f b n sp off s c t)
      | .stm _ f b n sp off => resStops (stmBody f b n sp off s c t)
      | .hinit d a _ _ => resStops (hinitBody d a s c t)
      | .hann d a _ _ => resStops (hannBody d a s c t)
      | .happ d a _ _ => resStops (happBody d a s c t)
      | .hrun d a _ _ => resStops (hrunBody d a s c t)
      | .hres d a _ _ => resStops (hresBody d a s c t)
      | .hpeek d a _ _ => resStops (hpeekBody d a s c t)
      | .hpois d a _ _ => resStops (hpoisBody 6 (some d) a s c t)
      | .hclr a _ _ => !th.handler || resStops (hpoisBody 7 none a s c t)
      | .hld _ x _ _ =>
        let ea := (s.src c t x).toNat
        ea % 32 != 0 || at_ (s.regionAddr c t ea) .load
      | .hst _ h | .hev _ h =>
        match tget? (s.core c).slots h.toNat with
        | some sl => bindKind sl.bind == 0 && at_ ((bindLoc sl.bind + 2 ^ 57 - 32) % 2 ^ 57) .store
        | none => true
      | _ => false

/-- Whether the weir holds a unit at issue (R169, R296, R298). -/
def State.weirStops (s : State) (c t : Nat) (th : Thread) (i : Instr) : Bool :=
  let ten := (s.core c).tenancy
  ((i.isGlobal && s.weirHolds ten 0) || (i.isStep && s.weirHolds ten 6)) && !s.stopsAnyway c t th i

/-- Whether the next unit of a thread can issue (R211, R213, R236, R243, R298, R356). -/
def State.canIssue (s : State) (c t : Nat) (th : Thread) (i : Instr) : Bool :=
  if th.yround.isSome then false
  else if !guardHolds th.win.preds i.guard then true
  else match th.stopsAt i with
  | some l => l.phase != .walking
  | none =>
    let k := s.core c
    let full := k.engineFull t i
    let tile := (s.tileEnts c t th i).1
    !th.latchWait i && !th.pendingFor i
      && !(th.pend.any fun p => p.engine != 1 && p.ents.any tile.contains)
      && !(movesWindow i && th.pend.any fun p => p.engine == 0)
      && th.waitcOk i
      && (match i.cls with | some q => decide (th.oc q < 255) | none => true)
      && !s.weirStops c t th i
      && !full && s.fenceIssues c th i && s.releaseOk c t th i && !(isStoreUnit i && s.relPending c th)
      && s.storesDone c th i
      && !(i.accesses && !th.acqWait.isEmpty)
      && decide (th.boardUse + boardNeed i ≤ 31)

/-! ### The PC table (R211, R215) -/

/-- A thread whose next unit is a MERGE becomes MERGED (R215); a chain that has reached the MERGE is left behind. -/
def State.merge (s : State) (c t : Nat) (th : Thread) : State :=
  let s := s.setThr c t { th with
    st := .merged, head := th.pc, lats := [], retry := 0, prog := none, rrCount := th.rrCount + th.rrChain, rrChain := 0 }
  s.modPart c (posPart t) fun p =>
    if p.groups.any fun g => g.pc == th.pc && g.region == th.region then p
    else { p with groups := p.groups ++ [{ pc := th.pc, region := th.region, since := s.cycle }] }

/-- Whether the unit is a MERGE at which the thread becomes MERGED (R215). -/
def Thread.mergesAt (th : Thread) (i : Instr) : Bool :=
  match i with
  | .merge _ => guardHolds th.win.preds i.guard && !th.released && (th.stopsAt i).isNone
  | _ => false

/-- Brings a thread's row up to date: READY, HELD or MERGED by its next unit (R211, R215). -/
def State.refreshUnit (s : State) (c t : Nat) : State :=
  match s.thr? c t with
  | none => s
  | some th =>
      match s.fetchUnit c th with
      | (.wait, s) => if th.st = .held then s else s.setThr c t { th with st := .held }
      | (.unit (.ok i _) _, s) =>
        if th.mergesAt i then s.merge c t th
        else if s.canIssue c t th i then
          if th.st = .ready then s else s.setThr c t { th with st := .ready, readyAt := s.cycle }
        else if th.st = .held then s else s.setThr c t { th with st := .held }
      | _ => if th.st = .ready then s else s.setThr c t { th with st := .ready, readyAt := s.cycle }

/-- A thread that reaches a MERGE inside a chain leaves its spray and becomes MERGED (R215, notes/assumptions/65). -/
def State.mergeMember (s : State) (c t : Nat) (th : Thread) : State :=
  match th.st with
  | .spray _ =>
    if th.lats.isEmpty then s
    else match s.fetchUnit c th with
      | (.unit (.ok i _) _, s) => if th.mergesAt i then s.merge c t th else s
      | _ => s
  | _ => s

/-- Brings a thread's row up to date; the template stores of a stamped item come before its first unit (R193). -/
def State.refreshOne (s : State) (c t : Nat) : State :=
  match s.thr? c t with
  | none => s
  | some th =>
    if th.st ≠ .ready ∧ th.st ≠ .held then s.mergeMember c t th
    else if th.tsDone ∨ th.handler then s.refreshUnit c t
    else
      match s.prestore c t th with
      | .wait => s.setThr c t { th with st := .held }
      | .stopped s => s
      | .done s => s.refreshUnit c t

/-- Whether a MERGE group is released now (R215). -/
def State.mergeDue (s : State) (c p : Nat) (g : Group) : Bool :=
  let ts := (s.core c).threads.filter fun e => posPart e.1 == p
  let mine := ts.filter fun e => e.2.st == .merged && e.2.pc == g.pc && e.2.region == g.region
  decide (64 ≤ s.cycle - g.since)
    || (List.range Config.lanes).all (fun l => mine.any fun e => posLane e.1 == l)
    || !(ts.any fun e => match e.2.st with | .ready | .held | .spray _ => true | _ => false)

/-- Releases a MERGE group: every member is READY with one ready-time (R215). -/
def State.mergeFree (s : State) (c p : Nat) (g : Group) : State :=
  let s := (s.modPart c p fun q => { q with groups := q.groups.filter (· != g) }).bump c p 21 1
  s.modCore c fun k =>
    { k with threads := k.threads.map fun e =>
        if posPart e.1 = p ∧ e.2.st = .merged ∧ e.2.pc = g.pc ∧ e.2.region = g.region then
          (e.1, { e.2 with st := .ready, readyAt := s.cycle, released := true })
        else e }

/-- Releases the groups of a partition that are due at this moment and that sel picks. -/
def State.mergeRelease (s : State) (c p : Nat) (sel : Group → Bool) : State :=
  ((s.part c p).groups.filter fun g => sel g && s.mergeDue c p g).foldl (fun s g => s.mergeFree c p g) s

def State.refresh (s : State) (c p : Nat) : State := ((s.core c).positions p).foldl (State.refreshOne · c ·) s

/-- Members of a spray, in ascending lane order (R172, R212). -/
def Core.members (k : Core) (p id : Nat) : List Nat :=
  let ts := (k.threads.filter fun e => posPart e.1 == p && e.2.st == .spray id).map (·.1)
  (List.range Config.lanes).flatMap fun l => ts.filter fun t => posLane t == l

/-- Whether a thread is older than another (R209): by age, then the lower $thread. -/
def older (a b : Nat × Thread) : Bool := decide (a.2.age < b.2.age) || (a.2.age == b.2.age && decide (a.1 < b.1))

/-- Ready-time first, then age (R212). -/
def sooner (a b : Nat × Thread) : Bool :=
  decide (a.2.readyAt < b.2.readyAt) || (a.2.readyAt == b.2.readyAt && older a b)

/-- Forms at most one spray (R212), when the issue window has a free entry (R213). -/
def State.form (s : State) (c p : Nat) : State :=
  let k := s.core c
  let q := k.part p
  if 3 ≤ q.window.length then s
  else
    let ready := k.threads.filter fun e => posPart e.1 == p && e.2.st == .ready
    match leastBy sooner ready with
    | none => s
    | some (t, first) =>
      let same := ready.filter fun e => e.2.pc == first.pc && e.2.region == first.region
      let chosen := (List.range Config.lanes).filterMap fun l =>
        if l = posLane t then some (t, first) else leastBy older (same.filter fun e => posLane e.1 == l)
      let id := q.nextId
      let s := chosen.foldl (fun s e => s.modThr c e.1 fun th => { th with st := .spray id }) s
      let s := s.modPart c p fun q => { q with nextId := id + 1, window := q.window ++ [id] }
      (s.bump c p 2 1).bump c p 3 chosen.length

/-- A YIELD round advances when one of the threads it waits for has been formed into a spray or has left READY
(R194). -/
def State.yields (s : State) (c p : Nat) : State :=
  (((s.core c).positions p).foldl fun s t =>
    match s.thr? c t with
    | some th =>
      match th.yround with
      | some us =>
        let left := us.filter fun u => (s.core c).threads.any fun e => e.2.uid == u && e.2.st == .ready
        s.setThr c t { th with yround := if left.isEmpty then none else some left }
      | none => s
    | none => s) s

/-- Sprays of the window that still have members (R213). -/
def State.prune (s : State) (c p : Nat) : State :=
  let k := s.core c
  let w := (k.part p).window.filter fun id => !(k.members p id).isEmpty
  if w = (k.part p).window then s else s.modPart c p fun q => { q with window := w }

/-- The members of a spray whose unit issues next: where some have completed a unit that others are still at, the others
(R213). -/
def Core.behind (k : Core) (ts : List Nat) : List Nat :=
  let done (t : Nat) : Nat := match k.thr? t with | some th => th.lats.length | none => 0
  ts.filter fun t => ts.all fun u => decide (done t ≤ done u)

/-- Whether every member of a spray can issue its next unit (R213). -/
def State.sprayReady (s : State) (c : Nat) (ts : List Nat) : Bool :=
  ((s.core c).behind ts).all fun t =>
    match s.thr? c t with
    | none => true
    | some th =>
      match (s.fetchUnit c th).1 with
      | .unit (.ok i _) _ => s.canIssue c t th i
      | .wait => false
      | _ => true

/-- A decode trap (R79, R82, R87), which reports a word of the unit: its address in the first info word
(notes/assumptions/19); a thread with a deferred access stops on it instead (R305). -/
def State.decodeTrap (s : State) (c t : Nat) (th : Thread) (k : DecTrap) (at_ : Nat) (w : Word) : State :=
  match th.log.filter fun l => l.kind != 3 with
  | some l => s.stopDeferred c t th l
  | none =>
    let addr := th.pc + BitVec.ofNat 32 (4 * at_)
    s.takeTrap c t 0 (match k with | .illegalInstruction => 1 | .illegalPrefix => 2) [addr] th.head th.pc w

/-- Fetches the unit of one member; answers the members that will execute it, with the unit (R87). The record of an access
fault of the fetch has no instruction word, so 0 (DESIGN CHOICE, notes/assumptions/69). -/
def fetchMember (c : Nat) (acc : State × Option (Instr × Word × Nat) × List Nat) (t : Nat) :
    State × Option (Instr × Word × Nat) × List Nat :=
  let (s, u, ts) := acc
  match s.thr? c t with
  | none => acc
  | some th =>
    match s.fetchUnit c th with
    | (.unit (.trap k a w) _, s) => (s.decodeTrap c t th k a w, u, ts)
    | (.page va, s) => (s.pageFault c t th va th.pc, u, ts)
    | (.access va k, s) =>
      (match th.log.filter fun l => l.kind != 3 with
        | some l => s.stopDeferred c t th l
        | none => s.takeTrap c t 1 12 [BitVec.ofNat 32 va, BitVec.ofNat 32 (va / 2 ^ 32), wd k] th.head th.pc 0, u, ts)
    | (.off pa, s) => ({ s with bad := some pa }, u, ts)
    | (.wait, s) => (s, u, ts)
    | (.unit (.ok i n) ws, s) =>
      if i.maxLatch > th.lats.length then
        (match th.log.filter fun l => l.kind != 3 with
          | some l => s.stopDeferred c t th l
          | none => s.takeTrap c t 0 3 [th.pc + BitVec.ofNat 32 (4 * (n - 1))] th.head th.pc (ws.getD (n - 1) 0), u, ts)
      else
        match u with
        | none => (s, some (i, ws.getD (n - 1) 0, n), ts ++ [t])
        | some (j, _, _) => if i = j then (s, u, ts ++ [t]) else (s, u, ts)

/-- What an issue slot of a partition does: nothing can issue; the members stopped at the fetch; or a unit issues. -/
inductive Slotted where
  | idle (s : State)
  | stopped (s : State)
  | unit (i : Instr) (s : State)

/-- The checker mismatch that hits a unit: in the member of its lane whose guard is true, where the checker checks the unit
(R332). -/
def State.upsetOf (s : State) (c : Nat) (i : Instr) (ts : List Nat) : Option (Nat × Nat) :=
  match s.upset with
  | none => none
  | some (k, lane) =>
    if k < 3 ∧ i.checkedBy k then
      (ts.find? fun t => posLane t == lane && (s.thr? c t).any fun th => guardHolds th.win.preds i.guard).map fun t => (k, t)
    else none

/-- Partition p of core c takes its issue slot, where its cascade belongs to the tenancy of its context (R212, R213,
R293): the unit that issues, with the cursor set for the members that execute it. -/
def State.takeSlot (s : State) (c p : Nat) : Slotted :=
  let k := s.core c
  if !(s.coreOwned c && k.ctx.any (·.started)) then .idle s
  else
    let stopped := (k.part p).halted || k.draining
    let s := s.prune c p
    let s := if stopped then s
      else ((((s.yields c p).refresh c p).mergeRelease c p fun _ => true).form c p).yields c p
    match (s.part c p).window.find? fun id => s.sprayReady c ((s.core c).members p id) with
    | none => .idle s
    | some id =>
      let ts := (s.core c).behind ((s.core c).members p id)
      match ts.foldl (fetchMember c) (s, none, []) with
      | (s, some (i, w, n), ts) =>
        let chk := s.upsetOf c i ts
        .unit i { s with cur := { core := c, part := p, members := ts, word := w, len := n, upset := chk }
                         upset := if chk.isSome then none else s.upset }
      | (s, none, _) => .stopped { s with cur := .none }

/-- The values of the registers that a unit names, in a thread whose guard holds (R353). -/
def State.valuesOf (s : State) (c t : Nat) (i : Instr) (es : Thread → List Nat) : List Word :=
  match s.thr? c t with
  | some th => if guardHolds th.win.preds i.guard then (es th).map fun e => ((s.core c).entry t e).1 else []
  | none => []

/-- Whether a thread has completed, between states s and t, the unit at which it stood. -/
def State.passed (s t : State) (c u : Nat) : Bool :=
  match s.thr? c u, t.thr? c u with
  | some a, some b => a.pc != b.pc && b.st != .parked && a.handler == b.handler
  | _, _ => false

/-- What is counted of the slot that has just issued a unit for the threads of the cursor: the threads that have left the
place where they stood have issued it (R216), and the spray has issued a unit where none of its members had gone on
before, and the unit is not between two of its steps (R353). -/
def State.countUnit (i : Instr) (s t : State) : State :=
  let c := s.cur.core
  let fresh (u : Nat) : Bool :=
    (s.thr? c u).any fun th => th.prog.isNone && !(th.log.any fun l => l.kind == 3) && t.thr? c u != some th
  let gone := s.cur.members.filter fresh
  let ids := s.cur.members.filterMap fun u => (s.thr? c u).bind fun th => match th.st with | .spray id => some id | _ => none
  let whole := ids.all fun id => ((s.core c).members s.cur.part id).all s.cur.members.contains
  let t := if !gone.isEmpty && whole then t.bump c s.cur.part 1 1 else t
  let t := gone.foldl (fun t u => t.countTags c s.cur.part (s.valuesOf c u i fun th => readEnts th.win i.srcs)) t
  let t := s.cur.members.foldl (fun t u =>
    if s.passed t c u then t.countTags c s.cur.part (t.valuesOf c u i fun th => writeEnts th.win i.written) else t) t
  { t with issued := (s.cycle, c, gone) }

/-- After the slot that has issued a unit. -/
def counted (i : Instr) (s : State) (o : Host.Outcome State Fault Refusal) : Host.Outcome State Fault Refusal :=
  match o with | .next t => .next (s.countUnit i t) | o => o

end Sys2Proof.Machine
end

