-- ==== Sys2Proof/Machine/Clock.lean ====
section
/-! DEFINITION. The passing of time (R26, R354), the order of issue slots, and the placing of a word for
withFetchWord (notes/assumptions/2 and 11). -/

namespace Sys2Proof.Machine

/-- Units of timeFrac in a nanosecond, and in a cycle of the arithmetic clock (R2: 2.7 GHz). -/
def nsUnits : Nat := 13500
def cycleUnits : Nat := 5000

/-- Time passes: n units, of which $time slews by at most 1 in 5,000, 200 parts per million, toward its correction; it never
decreases (R123, R354). -/
def State.advance (s : State) (n : Nat) : State :=
  let k : Int := (n / cycleUnits : Nat)
  let d : Int := if 0 < s.slew then min s.slew k else max s.slew (-k)
  let f := s.timeFrac + (n + d).toNat
  { s with time := BitVec.ofNat 64 (s.time.toNat + f / nsUnits), timeFrac := f % nsUnits, slew := s.slew - d }

/-- Idle nanoseconds: 27 cycles of the arithmetic clock in 10 ns (R2). -/
def State.elapse (s : State) (ns : Nat) : State :=
  State.rotateAll { s.advance (ns * nsUnits) with cycle := s.cycle + ns * 27 / 10 }

/-- One cycle of the arithmetic clock. -/
def State.tick (s : State) : State := State.rotateAll { s.advance cycleUnits with cycle := s.cycle + 1 }

/-- The issue slots (core x 4 + partition) of partitions that hold threads, from n upward. -/
def State.slotsFrom (s : State) (n : Nat) : List Nat :=
  (s.cores.flatMap fun e =>
    (List.range 4).filterMap fun p =>
      if e.2.threads.any fun x => posPart x.1 == p then some (e.1 * 4 + p) else none).filter (n ≤ ·)

/-- Physical page and virtual address at which placeWord puts the instruction: the text base of R372. -/
def placePa : Nat := 0x10000000
def placePc : Word := 0x10000000

/-- A leaf entry: V, LEAF, W, X, CAUSAL (R302). -/
def leafEntry (pa : Nat) : Nat := pa + 0xF

/-- The machine with bytes placed as the next unit of a single thread: tenancy 0 owns cascade 0 and maps the first
GiB of its region 0 by three tables; core 0 holds a started context of node 0 with one thread at position 0, whose
window is 256 registers of 0. -/
def State.placeWord (s : State) (bytes : List Byte) : State :=
  let mem := cellsWrite s.mem 0x200000 (toBytes 8 (0x400000 + 1))
  let mem := cellsWrite mem 0x400000 (toBytes 8 (leafEntry 0))
  let mem := cellsWrite mem (placePa) bytes
  let ten := { Tenancy.reset with ctl := 0x47000001, root := 0x200000 }
  let node : Node :=
    { record := 0, ten := 0, queue := 0, entry := 0x10000000, first := 0, count := 1, gang := 1, flags := 0
      tmpl := 3, win := 31, shape := 0, trap := 0, pred := 0, succ := [], disp := 0, attempts := 1, cores := [0]
      staged := [], commits := [], arrivals := [], placing := false, placed := true, requeued := false, retired := false
      failed := false, fell := (0, []), waiting := none
      saved := false }
  let th := Thread.blank 0 placePc 0 (Window.launch 256 .zero)
  let core := { Core.reset with
    ctx := some { node := 0, index := 0, ten := 0, region := 0, started := true, frozen := false }
    threads := [(0, th)], nextUid := 1 }
  { s with mem := mem, tens := tset s.tens 0 ten, nodes := tset s.nodes 0 node, cores := tset s.cores 0 core
           running := true, plan := [], turn := 0, upset := none, delay := false, bad := none }

end Sys2Proof.Machine
end

