-- ==== Sys2Proof/Machine/Array.lean ====
section
/-! DEFINITION. Array access: MOVX, STX, IXSET, IXADD, ABSET (R151..R153). -/

namespace Sys2Proof.Machine

/-- Sets index register k. -/
def Window.setIx (w : Window) (k : BitVec 2) (v : BitVec 16) : Window :=
  match k.toNat with
  | 0 => { w with ix0 := v } | 1 => { w with ix1 := v } | 2 => { w with ix2 := v } | _ => { w with ix3 := v }

def Window.setAr (w : Window) (n : Bool) (p : ArrPair) : Window :=
  if n then { w with ar1 := p } else { w with ar0 := p }

/-- The scratchpad offset e of an element access (R152). -/
def State.element (s : State) (c t : Nat) (n : Bool) (k : BitVec 2) : Nat :=
  match s.thr? c t with
  | none => 0
  | some th => arrElem (th.ar n) (th.ix k.toNat)

/-- MOVX, element form, for one thread (R152). -/
def movxBody (d : Dst) (n : Bool) (k : BitVec 2) (s : State) (c t : Nat) : Res := do
  let e := s.element c t n k
  s.dstOwned c t d
  checkPresent (s.core c) e 4
  checkSpPoison (s.core c) e 4
  let v := wd (ofBytes ((s.core c).spRead e 4))
  .ok ((s.bump c (posPart t) 26 1).dst c t d v, latch v)

/-- MOVX, index form, for one thread (R152). -/
def movxIndexBody (d : Dst) (k : BitVec 2) (s : State) (c t : Nat) : Res :=
  let v := match s.thr? c t with | some th => wd (th.ix k.toNat).toNat | none => 0
  .ok (s.dst c t d v, latch v)

/-- STX for one thread (R152). -/
def stxBody (n : Bool) (k : BitVec 2) (a : Src) (s : State) (c t : Nat) : Res := do
  let e := s.element c t n k
  checkOwned (s.core c) e 4
  s.srcsPresent c t [a]
  let v := s.src c t a
  .ok ((s.bump c (posPart t) 26 1).modCore c (·.spStore e (toBytes 4 v.toNat)), noLatch)

/-- The state after one thread's index register k takes v. -/
def State.setIx (s : State) (c t : Nat) (k : BitVec 2) (v : BitVec 16) : State :=
  s.modThr c t fun th => { th with win := th.win.setIx k v }

/-- IXSET for one thread (R152). -/
def ixsetBody (k : BitVec 2) (a : Src) (s : State) (c t : Nat) : Res :=
  .ok (s.setIx c t k ((s.src c t a).setWidth 16), noLatch)

/-- IXADD for one thread (R152). -/
def ixaddBody (k : BitVec 2) (a : Src) (s : State) (c t : Nat) : Res :=
  let ix := match s.thr? c t with | some th => th.ix k.toNat | none => 0
  .ok (s.setIx c t k (ix + (s.src c t a).setWidth 16), noLatch)

/-- Whether ABSET accepts a base and a limit (R153). -/
def arrayOk (base lim : Nat) : Bool :=
  base % 4 == 0 && decide (base < Config.spBytes) && decide (lim ≤ 65535)
    && decide (base + 4 * lim ≤ Config.spBytes)

/-- ABSET for one thread (R153). -/
def absetBody (n : Bool) (a : Src) (s : State) (c t : Nat) : Res :=
  let v := (s.src64 c t a).toNat
  let base := v % 2 ^ 32
  let lim := v / 2 ^ 32
  if arrayOk base lim then
    .ok (s.modThr c t fun th => { th with win := th.win.setAr n ⟨wd base, BitVec.ofNat 16 lim⟩ }, noLatch)
  else flt 14 [wd n.toNat, wd base, wd lim]

/-- MOVX axN, ixK (R152). -/
def execMovx (d : Dst) (n : Bool) (k : BitVec 2) (g : Guard) (ch : Bool) (s : State) :
    Host.Outcome State Fault Refusal :=
  runThreads (.movx d n k g ch) noPre (movxBody d n k) s

/-- MOVX ixK (R152). -/
def execMovxIndex (d : Dst) (k : BitVec 2) (g : Guard) (ch : Bool) (s : State) :
    Host.Outcome State Fault Refusal :=
  runThreads (.movxIndex d k g ch) noPre (movxIndexBody d k) s

/-- STX (R152). -/
def execStx (n : Bool) (k : BitVec 2) (a : Src) (g : Guard) (ch : Bool) (s : State) :
    Host.Outcome State Fault Refusal :=
  runThreads (.stx n k a g ch) noPre (stxBody n k a) s

/-- IXSET (R152). -/
def execIxset (k : BitVec 2) (a : Src) (g : Guard) (ch : Bool) (s : State) : Host.Outcome State Fault Refusal :=
  runThreads (.ixset k a g ch) noPre (ixsetBody k a) s

/-- IXADD (R152). -/
def execIxadd (k : BitVec 2) (a : Src) (g : Guard) (ch : Bool) (s : State) : Host.Outcome State Fault Refusal :=
  runThreads (.ixadd k a g ch) noPre (ixaddBody k a) s

/-- ABSET (R153). -/
def execAbset (n : Bool) (a : Src) (g : Guard) (ch : Bool) (s : State) : Host.Outcome State Fault Refusal :=
  runThreads (.abset n a g ch) noPre (absetBody n a) s

end Sys2Proof.Machine
end

