-- ==== Sys2Proof/Machine/Control.lean ====
section
/-! DEFINITION. Branches, calls and budget words (R104..R107). -/

namespace Sys2Proof.Machine

/-- Grows a window's allocation to n: the new entries are private, their values undefined (R107, R120). -/
def Window.grow (w : Window) (n seed : Nat) : Window :=
  { w with alloc := n
           ents := (List.range (n - w.alloc)).foldl (fun t j =>
             tset t (w.alloc + j) (.own (Config.freeWord seed (w.alloc + j)))) w.ents }

/-- The thread's allocation becomes n. -/
def State.growTo (s : State) (c t n : Nat) : State :=
  let (seed, s) := s.draw
  s.modThr c t fun th => { th with win := th.win.grow n seed }

/-- Whether the lane can grow the thread's allocation by n entries now: free entries, and no older waiter (R107). -/
def State.canGrow (s : State) (c t n : Nat) (th : Thread) : Bool :=
  decide (n ≤ (s.core c).freeEnts (posPart t) (posLane t)) && !(s.core c).olderWaiter t th

/-- The registers of a budget word (R107 item 2). -/
def budgetOf (w : Word) : Option Nat :=
  if bits w.toNat 31 26 = 0x3F ∧ bits w.toNat 25 5 = 0 then some (8 * (w.toNat % 32 + 1)) else none

/-- How the fetch of a budget word ends. -/
inductive Budget where
  | none
  | some (n : Nat)
  | wait

/-- The budget word of an entry t: not read when t is a multiple of 0x1_0000; fetched at t - 4 (R107, R190). -/
def State.budgetWord (s : State) (c : Nat) (region : BitVec 25) (entry : Word) : Except Stop (Budget × State) :=
  if entry.toNat % 0x10000 = 0 then .ok (.none, s)
  else
    let va := regionVa region (entry - 4)
    match s.fetchWord c va with
    | (.inr (.page va), _) => .error (.page va)
    | (.inr (.access va k), _) => accessFault va k
    | (.inr (.off pa), _) => .error (.off pa)
    | (.inr _, s) => .ok (.wait, s)
    | (.inl w, s) => .ok (match budgetOf w with | some n => .some n | none => .none, s)

/-- How the budget rule ends. -/
inductive Ruled where
  | ok (s : State)
  | wait (s : State)

/-- The budget rule for a call to target (R107). -/
def State.budgetRule (s : State) (c t : Nat) (target : Word) : Except Stop Ruled :=
  match s.thr? c t with
  | none => .ok (.ok s)
  | some th => do
    let (b, s) ← s.budgetWord c th.region target
    match b with
    | .wait => .ok (.wait s)
    | .none => .ok (.ok s)
    | .some n =>
      let need := th.win.wbase + n
      if 256 < need then flt 18 [target, wd n, wd th.win.wbase]
      else if need ≤ th.win.alloc then .ok (.ok s)
      else if s.canGrow c t (need - th.win.alloc) th then .ok (.ok (s.growTo c t need))
      else .error (.grant (need - th.win.alloc) (some need) [])

/-- PC + 4 x SX(off22, 22), modulo 2^32 (R104, R105). -/
def branchTarget (pc : Word) (off : BitVec 22) : Word := pc + (off.signExtend 32 <<< 2)

/-- The PC of the thread at position t. -/
def State.pcOf (s : State) (c t : Nat) : Word := match s.thr? c t with | some th => th.pc | none => 0

/-- BR for one thread (R105). -/
def brBody (off : BitVec 22) (s : State) (c t : Nat) : Res := .ok (s, .jump (branchTarget (s.pcOf c t) off))

/-- The link register of a call is written once the budget rule has been met: a copy fault there leaves the grant
(R124). -/
def State.link (s : State) (c t : Nat) (d : Dst) (v target : Word) : State × Done :=
  match s.thr? c t with
  | none => (s, .gone)
  | some th =>
    match checkCopy (s.core c) t th (writeEnts th.win [.f d 1]) with
    | .error e => (s.stopAt c t e, .gone)
    | .ok _ => (s.dst c t d v, .jump target)

/-- CALL for one thread (R105, R107). -/
def callBody (off : BitVec 22) (s : State) (c t : Nat) : Res := do
  let pc := s.pcOf c t
  let target := branchTarget pc off
  match ← s.budgetRule c t target with
  | .wait s => .ok (s, .gone)
  | .ok s => .ok (s.link c t (.w 0) (pc + 4) target)

/-- JMPI for one thread (R106, R107). -/
def jmpiBody (d : Dst) (a : Src) (s : State) (c t : Nat) : Res := do
  let pc := s.pcOf c t
  let target := s.src c t a
  if target.toNat % 4 ≠ 0 then flt 17 [pc, target]
  else if d = .zr then .ok (s, .jump target)
  else
    match ← s.budgetRule c t target with
    | .wait s => .ok (s, .gone)
    | .ok s => .ok (s.link c t d (pc + 4) target)

/-- BR (R105). -/
def execBr (g : Guard) (off : BitVec 22) (s : State) : Host.Outcome State Fault Refusal :=
  runThreads (.br g off) noPre (brBody off) s

/-- CALL (R105, R107). -/
def execCall (g : Guard) (off : BitVec 22) (s : State) : Host.Outcome State Fault Refusal :=
  runThreads (.call g off) noPre (callBody off) s

/-- JMPI (R106, R107). -/
def execJmpi (d : Dst) (a : Src) (g : Guard) (s : State) : Host.Outcome State Fault Refusal :=
  runThreads (.jmpi d a g) noPre (jmpiBody d a) s

end Sys2Proof.Machine
end

