-- ==== Sys2Proof/Machine/Pred.lean ====
section
/-! DEFINITION. Predicate instructions and integer compares (R100..R103). -/

namespace Sys2Proof.Machine

/-- The predicates of a thread. -/
def State.preds (s : State) (c t : Nat) : BitVec 7 :=
  match s.thr? c t with | some th => th.win.preds | none => 0

def State.setPreds (s : State) (c t : Nat) (ps : BitVec 7) : State :=
  s.modThr c t fun th => { th with win := { th.win with preds := ps } }

/-- Writes one predicate; the latch holds the value written (R18, R100). -/
def bodyPred (pd : BitVec 3) (f : BitVec 7 → Bool) (s : State) (c t : Nat) : Res :=
  let ps := s.preds c t
  .ok (s.setPreds c t (predSet ps pd (f ps)), latchBit (f ps))

/-- Writes a compare's two predicates; the latch holds t (R101). -/
def bodyCmp (pt pf : BitVec 3) (cond : State → Nat → Nat → Bool) (s : State) (c t : Nat) : Res :=
  let v := cond s c t
  .ok (s.setPreds c t (predPair (s.preds c t) pt pf v), latchBit v)

/-- A source predicate with its negate bit (R100). -/
def predSrc (ps : BitVec 7) (p : BitVec 3) (n : Bool) : Bool := predGet ps p != n

/-- PAND (R100). -/
def execPand (pd pa : BitVec 3) (na : Bool) (pb : BitVec 3) (nb : Bool) (g : Guard) (ch : Bool) (s : State) :
    Host.Outcome State Fault Refusal :=
  runThreads (.pand pd pa na pb nb g ch) noPre (bodyPred pd fun ps => predSrc ps pa na && predSrc ps pb nb) s

/-- POR (R100). -/
def execPor (pd pa : BitVec 3) (na : Bool) (pb : BitVec 3) (nb : Bool) (g : Guard) (ch : Bool) (s : State) :
    Host.Outcome State Fault Refusal :=
  runThreads (.por pd pa na pb nb g ch) noPre (bodyPred pd fun ps => predSrc ps pa na || predSrc ps pb nb) s

/-- PXOR (R100). -/
def execPxor (pd pa : BitVec 3) (na : Bool) (pb : BitVec 3) (nb : Bool) (g : Guard) (ch : Bool) (s : State) :
    Host.Outcome State Fault Refusal :=
  runThreads (.pxor pd pa na pb nb g ch) noPre (bodyPred pd fun ps => predSrc ps pa na != predSrc ps pb nb) s

/-- MOVP (R100). -/
def execMovp (pd pa : BitVec 3) (na : Bool) (g : Guard) (ch : Bool) (s : State) :
    Host.Outcome State Fault Refusal :=
  runThreads (.movp pd pa na g ch) noPre (bodyPred pd fun ps => predSrc ps pa na) s

/-- SETP (R100). -/
def execSetp (pd : BitVec 3) (v : Bool) (g : Guard) (ch : Bool) (s : State) : Host.Outcome State Fault Refusal :=
  runThreads (.setp pd v g ch) noPre (bodyPred pd fun _ => v) s

/-- P2W (R100). -/
def execP2w (d : Dst) (g : Guard) (ch : Bool) (s : State) : Host.Outcome State Fault Refusal :=
  runThreads (.p2w d g ch) noPre (fun s c t => putN s c t false d (predWord (s.preds c t)).toNat) s

/-- W2P (R100): p0..p6 from bits 6:0; the latch holds those bits. -/
def execW2p (a : Src) (g : Guard) (ch : Bool) (s : State) : Host.Outcome State Fault Refusal :=
  runThreads (.w2p a g ch) noPre
    (fun s c t =>
      let v := s.src c t a
      .ok (s.setPreds c t (v.setWidth 7), .go (.val ((v.setWidth 7).setWidth 64)))) s

/-- CMP (R101). -/
def execCmp (m : Option Mode) (pt pf : BitVec 3) (a b : Src) (g : Guard) (cc : Cc) (s : State) :
    Host.Outcome State Fault Refusal :=
  runThreads (.cmp m pt pf a b g cc) noPre
    (bodyCmp pt pf fun s c t =>
      intCond (width (modeW m)) (modeN m) cc (s.srcN c t (modeW m) a) (s.srcN c t (modeW m) b)) s

/-- CMPI's immediate as an n-bit pattern: 11 bits by sign, or by zero under N; the 32-bit imm of R80 under EXT; to
64 bits under W by sign, or by zero under N (R102). -/
def cmpiImm (x : Option (BitVec 21)) (m : Option Mode) (imm : BitVec 11) : Nat :=
  match x with
  | some p =>
    let v := (p ++ imm).toNat
    if modeW m then (if modeN m then v else modInt 64 (sxInt v 32)) else v
  | none =>
    if modeN m then imm.toNat else modInt (width (modeW m)) (sxInt imm.toNat 11)

/-- CMPI (R102). -/
def execCmpi (x : Option (BitVec 21)) (gp : Option Guard) (m : Option Mode) (pt pf : BitVec 3) (a : Src) (cc : Cc)
    (imm : BitVec 11) (s : State) : Host.Outcome State Fault Refusal :=
  runThreads (.cmpi x gp m pt pf a cc imm) noPre
    (bodyCmp pt pf fun s c t =>
      intCond (width (modeW m)) (modeN m) cc (s.srcN c t (modeW m) a) (cmpiImm x m imm)) s

end Sys2Proof.Machine
end

