-- ==== Sys2Proof/Machine/Float.lean ====
section
/-! DEFINITION. FP32 and packed-half arithmetic, single-operand functions and floating-point compares (R125..R135). -/

namespace Sys2Proof.Machine

/-! ### Values -/

/-- FMIN, FMAX (R128): the non-NaN operand beside a NaN; −0 below +0. -/
def fpMinMax (mx : Bool) (x y : Ex) : Ex :=
  if x.isNan then y
  else if y.isNan then x
  else if x.eqv y then (if (x.sign && !y.sign) != mx then x else if (y.sign && !x.sign) != mx then y else x)
  else if x.lt y != mx then x else y

/-- The value of a three-register operation (R127, R132): 0 add, 1 sub, 2 mul, 3 fma, 4 fms, 5 min, 6 max. -/
def fpOp3 (op rm : Nat) (x y z : Ex) : Ex :=
  match op with
  | 0 => x.add rm y
  | 1 => x.add rm y.neg
  | 2 => x.mul y
  | 3 => (x.mul y).add rm z
  | 4 => (x.mul y).add rm z.neg
  | 5 => fpMinMax false x y
  | _ => fpMinMax true x y

/-- One format's three-register result (R127, R132). -/
def fpVal3 (f : Fp) (op : Nat) (r : Rnd) (a b d : Nat) : Nat :=
  f.round r (fpOp3 op r.rm (f.widen r.fzi a) (f.widen r.fzi b) (f.widen r.fzi d))

/-- An operation on each half of packed registers (R132). -/
def halves2 (f : Nat → Nat → Nat → Nat) (a b d : Nat) : Nat :=
  f (a % 2 ^ 16) (b % 2 ^ 16) (d % 2 ^ 16) + 2 ^ 16 * f (a / 2 ^ 16) (b / 2 ^ 16) (d / 2 ^ 16)

/-- A value rounded to an integer under rm, keeping the sign of a zero (R45, R130). -/
def Ex.toIntegral (rm : Nat) : Ex → Ex
  | .fin s m e => .fin s (roundShift rm s m e) 0
  | x => x

/-- FCLS (R131). -/
def fpClass (fzi : Bool) (v : Nat) : Nat :=
  match fp32.widen fzi v with
  | .nan => 2 ^ 8
  | .inf s => if s then 1 else 2 ^ 7
  | .fin s m e =>
    if m = 0 then (if s then 2 ^ 3 else 2 ^ 4)
    else if (log2 m : Int) + e < -126 then (if s then 2 ^ 2 else 2 ^ 5)
    else (if s then 2 ^ 1 else 2 ^ 6)

/-- The exactly rounded functions of one operand (R52, R130, R133): 0 neg, 1 abs, 2 sqrt, 3 rcp, 4 floor, 5 ceil,
6 trunc, 7 rint. -/
def fpFun1 (op rm : Nat) (x : Ex) : Ex :=
  match op with
  | 0 => x.neg
  | 1 => x.abs
  | 2 => x.sqrt
  | 3 => x.rcp
  | 4 => x.toIntegral 3
  | 5 => x.toIntegral 2
  | 6 => x.toIntegral 1
  | _ => x.toIntegral rm

def fpVal1 (f : Fp) (op : Nat) (r : Rnd) (a : Nat) : Nat := f.round r (fpFun1 op r.rm (f.widen r.fzi a))

/-- 2^n for an integral value in −149..127, where FEX2 is exact (R53). -/
def exactExp (neg : Bool) (m : Nat) (e : Int) : Option Int :=
  let n := roundShift 1 neg m e
  if (Ex.fin false m e).eqv (.fin false n 0) then
    let v : Int := if neg then -(n : Int) else n
    if -149 ≤ v ∧ v ≤ 127 then some v else none
  else none

/-- The approximate functions (R52, R53): 0 FRSQ, 1 FEX2, 2 FLG2, 3 FSIN, 4 FCOS; rm is ignored. FEX2 beyond ±1024 takes
2^±1000 for the exact result: no pattern of FP32 tells the two apart. -/
def fpApprox (fn : Nat) (r0 : Rnd) (a : Word) : Nat :=
  let r := { r0 with rm := 0 }
  match fn, fp32.widen r.fzi a.toNat with
  | _, .nan => fp32.nan
  | 0, .inf s => if s then fp32.nan else 0
  | 1, .inf s => if s then 0 else fp32.round r (.inf false)
  | 2, .inf s => if s then fp32.nan else fp32.round r (.inf false)
  | _, .inf _ => fp32.nan
  | 0, .fin s m e => if m = 0 then fp32.round r (.inf s) else if s then fp32.nan else approxAt 0 a s m e r
  | 1, .fin s m e =>
    match exactExp s m e with
    | some n => fp32.round r (.fin false 1 n)
    | none =>
      if (Ex.fin false 1 10).lt (.fin false m e) then
        if s then approxPick 1 a false (.fin false 1 (-1000)) r else fp32.round r (.fin false 1 1000)
      else approxAt 1 a s m e r
  | 2, .fin s m e =>
    if m = 0 then fp32.round r (.inf true)
    else if s then fp32.nan
    else if 2 ^ log2 m = m then fp32.round r (Ex.ofInt ((log2 m : Int) + e))
    else approxAt 2 a s m e r
  | 3, .fin s m e => if m = 0 then fp32.signed s 0 else approxAt 3 a s m e r
  | _, .fin s m e => if m = 0 then fp32.round r (Ex.ofInt 1) else approxAt 4 a s m e r

/-- The condition of FCMP and HCMP (R134). -/
def fpCond (cc : Fcc) (x y : Ex) : Bool :=
  match cc with
  | .eq => x.eqv y
  | .lt => x.lt y
  | .le => x.lt y || x.eqv y
  | .un => x.isNan || y.isNan

/-- A T-format unit on 32-bit operands; d is read too where the operation reads it (R129). -/
def bodyF3 (d : Dst) (a b : Src) (f : Nat → Nat → Nat → Nat) (s : State) (c t : Nat) : Res :=
  putN s c t false d (f (s.src c t a).toNat (s.src c t b).toNat (s.src c t (Dst.toSrc d)).toNat)

/-! ### Meanings -/

/-- FADD (R127: x + y). -/
def execFadd (m : Option Mode) (d : Dst) (a b : Src) (g : Guard) (ch : Bool) (s : State) :
    Host.Outcome State Fault Refusal :=
  runThreads (.fadd m d a b g ch) noPre (bodyF3 d a b (fpVal3 fp32 0 (rndOf m))) s

/-- FSUB (R127: x − y). -/
def execFsub (m : Option Mode) (d : Dst) (a b : Src) (g : Guard) (ch : Bool) (s : State) :
    Host.Outcome State Fault Refusal :=
  runThreads (.fsub m d a b g ch) noPre (bodyF3 d a b (fpVal3 fp32 1 (rndOf m))) s

/-- FMUL (R127: x × y). -/
def execFmul (m : Option Mode) (d : Dst) (a b : Src) (g : Guard) (ch : Bool) (s : State) :
    Host.Outcome State Fault Refusal :=
  runThreads (.fmul m d a b g ch) noPre (bodyF3 d a b (fpVal3 fp32 2 (rndOf m))) s

/-- FFMA (R127, R129: x × y + z, rounded once). -/
def execFfma (m : Option Mode) (d : Dst) (a b : Src) (g : Guard) (ch : Bool) (s : State) :
    Host.Outcome State Fault Refusal :=
  runThreads (.ffma m d a b g ch) noPre (bodyF3 d a b (fpVal3 fp32 3 (rndOf m))) s

/-- FFMS (R127, R129: x × y − z, rounded once). -/
def execFfms (m : Option Mode) (d : Dst) (a b : Src) (g : Guard) (ch : Bool) (s : State) :
    Host.Outcome State Fault Refusal :=
  runThreads (.ffms m d a b g ch) noPre (bodyF3 d a b (fpVal3 fp32 4 (rndOf m))) s

/-- FMIN (R128). -/
def execFmin (m : Option Mode) (d : Dst) (a b : Src) (g : Guard) (ch : Bool) (s : State) :
    Host.Outcome State Fault Refusal :=
  runThreads (.fmin m d a b g ch) noPre (bodyF3 d a b (fpVal3 fp32 5 (rndOf m))) s

/-- FMAX (R128). -/
def execFmax (m : Option Mode) (d : Dst) (a b : Src) (g : Guard) (ch : Bool) (s : State) :
    Host.Outcome State Fault Refusal :=
  runThreads (.fmax m d a b g ch) noPre (bodyF3 d a b (fpVal3 fp32 6 (rndOf m))) s

/-- HADD2 (R132). -/
def execHadd2 (m : Option Mode) (d : Dst) (a b : Src) (g : Guard) (ch : Bool) (s : State) :
    Host.Outcome State Fault Refusal :=
  runThreads (.hadd2 m d a b g ch) noPre (bodyF3 d a b (halves2 (fpVal3 fp16 0 (rndOf m)))) s

/-- HMUL2 (R132). -/
def execHmul2 (m : Option Mode) (d : Dst) (a b : Src) (g : Guard) (ch : Bool) (s : State) :
    Host.Outcome State Fault Refusal :=
  runThreads (.hmul2 m d a b g ch) noPre (bodyF3 d a b (halves2 (fpVal3 fp16 2 (rndOf m)))) s

/-- HFMA2 (R132). -/
def execHfma2 (m : Option Mode) (d : Dst) (a b : Src) (g : Guard) (ch : Bool) (s : State) :
    Host.Outcome State Fault Refusal :=
  runThreads (.hfma2 m d a b g ch) noPre (bodyF3 d a b (halves2 (fpVal3 fp16 3 (rndOf m)))) s

/-- HMIN2 (R132). -/
def execHmin2 (m : Option Mode) (d : Dst) (a b : Src) (g : Guard) (ch : Bool) (s : State) :
    Host.Outcome State Fault Refusal :=
  runThreads (.hmin2 m d a b g ch) noPre (bodyF3 d a b (halves2 (fpVal3 fp16 5 (rndOf m)))) s

/-- HMAX2 (R132). -/
def execHmax2 (m : Option Mode) (d : Dst) (a b : Src) (g : Guard) (ch : Bool) (s : State) :
    Host.Outcome State Fault Refusal :=
  runThreads (.hmax2 m d a b g ch) noPre (bodyF3 d a b (halves2 (fpVal3 fp16 6 (rndOf m)))) s

/-- FNEG (R52, R53, R130). -/
def execFneg (m : Option Mode) (d : Dst) (a : Src) (g : Guard) (ch : Bool) (s : State) :
    Host.Outcome State Fault Refusal :=
  runThreads (.fneg m d a g ch) noPre (body1 false d a (fpVal1 fp32 0 (rndOf m))) s

/-- FABS (R52, R53, R130). -/
def execFabs (m : Option Mode) (d : Dst) (a : Src) (g : Guard) (ch : Bool) (s : State) :
    Host.Outcome State Fault Refusal :=
  runThreads (.fabs m d a g ch) noPre (body1 false d a (fpVal1 fp32 1 (rndOf m))) s

/-- FSQRT (R52, R53, R130). -/
def execFsqrt (m : Option Mode) (d : Dst) (a : Src) (g : Guard) (ch : Bool) (s : State) :
    Host.Outcome State Fault Refusal :=
  runThreads (.fsqrt m d a g ch) noPre (body1 false d a (fpVal1 fp32 2 (rndOf m))) s

/-- FRCP (R52, R53, R130). -/
def execFrcp (m : Option Mode) (d : Dst) (a : Src) (g : Guard) (ch : Bool) (s : State) :
    Host.Outcome State Fault Refusal :=
  runThreads (.frcp m d a g ch) noPre (body1 false d a (fpVal1 fp32 3 (rndOf m))) s

/-- FFLR (R52, R53, R130). -/
def execFflr (m : Option Mode) (d : Dst) (a : Src) (g : Guard) (ch : Bool) (s : State) :
    Host.Outcome State Fault Refusal :=
  runThreads (.fflr m d a g ch) noPre (body1 false d a (fpVal1 fp32 4 (rndOf m))) s

/-- FCEIL (R52, R53, R130). -/
def execFceil (m : Option Mode) (d : Dst) (a : Src) (g : Guard) (ch : Bool) (s : State) :
    Host.Outcome State Fault Refusal :=
  runThreads (.fceil m d a g ch) noPre (body1 false d a (fpVal1 fp32 5 (rndOf m))) s

/-- FTRNC (R52, R53, R130). -/
def execFtrnc (m : Option Mode) (d : Dst) (a : Src) (g : Guard) (ch : Bool) (s : State) :
    Host.Outcome State Fault Refusal :=
  runThreads (.ftrnc m d a g ch) noPre (body1 false d a (fpVal1 fp32 6 (rndOf m))) s

/-- FRINT (R52, R53, R130). -/
def execFrint (m : Option Mode) (d : Dst) (a : Src) (g : Guard) (ch : Bool) (s : State) :
    Host.Outcome State Fault Refusal :=
  runThreads (.frint m d a g ch) noPre (body1 false d a (fpVal1 fp32 7 (rndOf m))) s

/-- FRSQ (R52, R53, R130). -/
def execFrsq (m : Option Mode) (d : Dst) (a : Src) (g : Guard) (ch : Bool) (s : State) :
    Host.Outcome State Fault Refusal :=
  runThreads (.frsq m d a g ch) noPre (body1 false d a fun v => fpApprox 0 (rndOf m) (BitVec.ofNat 32 v)) s

/-- FEX2 (R52, R53, R130). -/
def execFex2 (m : Option Mode) (d : Dst) (a : Src) (g : Guard) (ch : Bool) (s : State) :
    Host.Outcome State Fault Refusal :=
  runThreads (.fex2 m d a g ch) noPre (body1 false d a fun v => fpApprox 1 (rndOf m) (BitVec.ofNat 32 v)) s

/-- FLG2 (R52, R53, R130). -/
def execFlg2 (m : Option Mode) (d : Dst) (a : Src) (g : Guard) (ch : Bool) (s : State) :
    Host.Outcome State Fault Refusal :=
  runThreads (.flg2 m d a g ch) noPre (body1 false d a fun v => fpApprox 2 (rndOf m) (BitVec.ofNat 32 v)) s

/-- FSIN (R52, R53, R130). -/
def execFsin (m : Option Mode) (d : Dst) (a : Src) (g : Guard) (ch : Bool) (s : State) :
    Host.Outcome State Fault Refusal :=
  runThreads (.fsin m d a g ch) noPre (body1 false d a fun v => fpApprox 3 (rndOf m) (BitVec.ofNat 32 v)) s

/-- FCOS (R52, R53, R130). -/
def execFcos (m : Option Mode) (d : Dst) (a : Src) (g : Guard) (ch : Bool) (s : State) :
    Host.Outcome State Fault Refusal :=
  runThreads (.fcos m d a g ch) noPre (body1 false d a fun v => fpApprox 4 (rndOf m) (BitVec.ofNat 32 v)) s

/-- FCLS (R131). -/
def execFcls (m : Option Mode) (d : Dst) (a : Src) (g : Guard) (ch : Bool) (s : State) :
    Host.Outcome State Fault Refusal :=
  runThreads (.fcls m d a g ch) noPre (body1 false d a (fpClass (rndOf m).fzi)) s

/-- HNEG2 (R133). -/
def execHneg2 (m : Option Mode) (d : Dst) (a : Src) (g : Guard) (ch : Bool) (s : State) :
    Host.Outcome State Fault Refusal :=
  runThreads (.hneg2 m d a g ch) noPre (body1 false d a fun v => halves2 (fun x _ _ => fpVal1 fp16 0 (rndOf m) x) v 0 0) s

/-- HABS2 (R133). -/
def execHabs2 (m : Option Mode) (d : Dst) (a : Src) (g : Guard) (ch : Bool) (s : State) :
    Host.Outcome State Fault Refusal :=
  runThreads (.habs2 m d a g ch) noPre (body1 false d a fun v => halves2 (fun x _ _ => fpVal1 fp16 1 (rndOf m) x) v 0 0) s

/-- HSQRT2 (R133). -/
def execHsqrt2 (m : Option Mode) (d : Dst) (a : Src) (g : Guard) (ch : Bool) (s : State) :
    Host.Outcome State Fault Refusal :=
  runThreads (.hsqrt2 m d a g ch) noPre (body1 false d a fun v => halves2 (fun x _ _ => fpVal1 fp16 2 (rndOf m) x) v 0 0) s

/-- HRCP2 (R133). -/
def execHrcp2 (m : Option Mode) (d : Dst) (a : Src) (g : Guard) (ch : Bool) (s : State) :
    Host.Outcome State Fault Refusal :=
  runThreads (.hrcp2 m d a g ch) noPre (body1 false d a fun v => halves2 (fun x _ _ => fpVal1 fp16 3 (rndOf m) x) v 0 0) s

/-- FCMP (R134). -/
def execFcmp (m : Option Mode) (pt pf : BitVec 3) (a b : Src) (g : Guard) (cc : Fcc) (s : State) :
    Host.Outcome State Fault Refusal :=
  runThreads (.fcmp m pt pf a b g cc) noPre
    (bodyCmp pt pf fun s c t =>
      fpCond cc (fp32.widen (rndOf m).fzi (s.src c t a).toNat) (fp32.widen (rndOf m).fzi (s.src c t b).toNat)) s

/-- HCMP (R134): bits 15:0. -/
def execHcmp (m : Option Mode) (pt pf : BitVec 3) (a b : Src) (g : Guard) (cc : Fcc) (s : State) :
    Host.Outcome State Fault Refusal :=
  runThreads (.hcmp m pt pf a b g cc) noPre
    (bodyCmp pt pf fun s c t =>
      fpCond cc (fp16.widen (rndOf m).fzi ((s.src c t a).toNat % 2 ^ 16))
        (fp16.widen (rndOf m).fzi ((s.src c t b).toNat % 2 ^ 16))) s

end Sys2Proof.Machine
end

