-- ==== Sys2Proof/Machine/Convert.lean ====
section
/-! DEFINITION. CVT (R49..R51, R136, R137) and quantising to E2M1S (R38..R40). -/

namespace Sys2Proof.Machine

/-- The candidates of a block (R40): every code's value, the spare's left out when it is NaN or not wanted. -/
def e2m1sCands (sc v : Nat) (spare : Bool) : List (Nat × Ex) :=
  (List.range 16).filterMap fun c =>
    if c = 8 then
      let x := e2m1sValue false 8 sc v
      if spare && !x.isNan then some (8, x) else none
    else some (c, e2m1sValue false c sc v)

/-- |x − y| of finite values. -/
def Ex.dist (x y : Ex) : Ex := (x.add 0 y.neg).abs

/-- The candidate that the rounding mode chooses (R40): equal values keep the lower code; a tie that R40 does not
decide keeps the lower code (notes/assumptions/12). -/
def chooseCand (rm : Nat) (x : Ex) (cs : List (Nat × Ex)) : Nat × Ex :=
  let x := match x with | .inf s => Ex.fin s 1 1000 | x => x
  let better := fun (a b : Nat × Ex) =>                  -- a before b
    let da := x.dist a.2
    let db := x.dist b.2
    da.lt db || (da.eqv db && !a.2.eqv b.2 &&
      (if rm = 4 then b.2.abs.lt a.2.abs else a.1 % 2 == 0 && b.1 % 2 == 1))
  let nearest := fun (l : List (Nat × Ex)) => leastBy better l
  let within := fun (a : Nat × Ex) =>
    if x.sign then !(Ex.zero.lt a.2) && !a.2.lt x else !a.2.lt Ex.zero && !(x.lt a.2)
  let least := fun (l : List (Nat × Ex)) => leastBy (fun a b => a.2.lt b.2) l
  let most := fun (l : List (Nat × Ex)) => leastBy (fun a b => b.2.lt a.2) l
  let pick := match rm with
    | 1 => nearest (cs.filter within)
    | 2 => (least (cs.filter fun a => !a.2.lt x)).orElse fun _ => most cs
    | 3 => (most (cs.filter fun a => !x.lt a.2)).orElse fun _ => least cs
    | _ => nearest cs
  pick.getD (0, Ex.zero)

/-- The code that quantising x chooses (R40). -/
def e2m1sQuant (rm : Nat) (x : Ex) (sc v : Nat) : Nat :=
  if x.isNan || sc % 256 == 0xFF then 0 else (chooseCand rm x (e2m1sCands sc v true)).1

/-- CVT's result from a 32-bit source, for the minors whose source and destination are single registers (R49, R50). -/
def cvtVal (k : Cvt) (r : Rnd) (v : Nat) : Nat :=
  let x32 := fp32.widen r.fzi v
  match k with
  | .f32i32 => fp32.round r (Ex.ofInt (sxInt v 32))
  | .f32n32 => fp32.round r (Ex.ofInt v)
  | .i32f32 => modInt 32 (roundInt 32 false r.rm x32)
  | .n32f32 => modInt 32 (roundInt 32 true r.rm x32)
  | .f32f16 => fp32.round r (fp16.widen r.fzi (v % 2 ^ 16))
  | .f16f32 => fp16.round r x32
  | .f32bf16 => fp32.round r (bf16.widen r.fzi (v % 2 ^ 16))
  | .bf16f32 => bf16.round r x32
  | .f32e4m3 => fp32.round r (e4m3.widen r.fzi (v % 2 ^ 8))
  | .e4m3f32 => e4m3.round r x32
  | .f32e5m2 => fp32.round r (e5m2.widen r.fzi (v % 2 ^ 8))
  | .e5m2f32 => e5m2.round r x32
  | .f32e2m1 => fp32.round r (e2m1.widen r.fzi (v % 2 ^ 4))
  | .e2m1f32 => e2m1.round r x32
  | .f32e2m1s => fp32.round r (e2m1sValue r.fzi (v % 16) (v / 2 ^ 16 % 256) (v / 2 ^ 8 % 256))
  | .f32i8 => fp32.round r (Ex.ofInt (sxInt v 8))
  | .f32n8 => fp32.round r (Ex.ofInt (v % 2 ^ 8 : Nat))
  | .i8f32 => modInt 32 (roundInt 8 false r.rm x32)
  | .n8f32 => modInt 32 (roundInt 8 true r.rm x32)
  | .f32i4 => fp32.round r (Ex.ofInt (sxInt v 4))
  | .f32n4 => fp32.round r (Ex.ofInt (v % 2 ^ 4 : Nat))
  | .i4f32 => modInt 32 (roundInt 4 false r.rm x32)
  | .n4f32 => modInt 32 (roundInt 4 true r.rm x32)
  | .f16x2f32 | .bf16x2f32 | .f32x2f16x2 | .e2m1sf32 => v

/-- CVT (R49, R50): minors 23, 24 and 26 read a pair, minor 25 writes one. -/
def execCvt (m : Option Mode) (d : Dst) (a : Src) (k : Cvt) (g : Guard) (ch : Bool) (s : State) :
    Host.Outcome State Fault Refusal :=
  let r := rndOf m
  runThreads (.cvt m d a k g ch) noPre
    (fun s c t =>
      match k with
      | .f16x2f32 | .bf16x2f32 =>
        let f := if k = .f16x2f32 then fp16 else bf16
        let p := (s.src64 c t a).toNat
        putN s c t false d
          (f.round r (fp32.widen r.fzi (p % 2 ^ 32)) + 2 ^ 16 * f.round r (fp32.widen r.fzi (p / 2 ^ 32)))
      | .f32x2f16x2 =>
        let v := (s.src c t a).toNat
        putN s c t true d
          (fp32.round r (fp16.widen r.fzi (v % 2 ^ 16)) + 2 ^ 32 * fp32.round r (fp16.widen r.fzi (v / 2 ^ 16)))
      | .e2m1sf32 =>
        let p := (s.src64 c t a).toNat
        let hi := p / 2 ^ 32
        putN s c t false d (e2m1sQuant r.rm (fp32.widen r.fzi (p % 2 ^ 32)) (hi / 2 ^ 16 % 256) (hi / 2 ^ 8 % 256))
      | k => putN s c t false d (cvtVal k r (s.src c t a).toNat)) s

end Sys2Proof.Machine
end

