-- ==== Sys2Proof/Machine/Engine.lean ====
section
/-! DEFINITION. What every engine shares: its accesses to memory and scratchpad, issue, errors, retirement and tile
brackets (R173, R181, R271, R272, R296, R338, R373). -/

namespace Sys2Proof.Machine

/-! ### Accesses -/

/-- Translation for an engine of core c: the core TLB, else a walk (R303, R304). -/
def State.engXlate (s : State) (c va : Nat) (acc : Acc) : Walk × State :=
  match (s.core c).tlb.find? (·.covers va) with
  | some e => (s.checkEntry e va acc, s)
  | none =>
    match s.walkFor (s.core c).tenancy va acc with
    | .ok e => (.ok e, s.modCore c fun k => { k with tlb := (e :: k.tlb).take Config.tlbEntries })
    | r => (r, s)

/-- How an engine's read of one line ends: bytes; it must wait (a copy in flight, a fill, a clock, the weir); a page
fault; an error of a fault kind; poison in a replayable node (R341); a table outside memory (R301). -/
inductive EngRead where
  | ok (bs : List Byte) (s : State)
  | wait (s : State)
  | page (va : Nat)
  | err (kind : Nat) (more : List Word)
  | rollback (info : List Word)
  | off (pa : Nat)

/-- Poison met by an engine (R338, R341). -/
def State.engPoison (s : State) (c : Nat) (info : List Word) : EngRead :=
  if s.replayable c then .rollback info
  else .err 29 [info.getD 1 0, info.getD 2 0 + info.getD 0 0 * BitVec.ofNat 32 (2 ^ 28)]

/-- The fields of an access fault in an engine's record (R146, R168): the address, and its kind from bit 28 up. -/
def accessMore (va kind : Nat) : List Word := [wd va, wd (va / 2 ^ 32 + kind * 2 ^ 28)]

/-- The loads that the participants issued before operation id are bound where they read n bytes at pa: they come before
what the operation reads and writes there (R249, R271). -/
def State.bindOlder (s : State) (c : Nat) (uids : List Nat) (id pa n : Nat) : Bool × State :=
  uids.foldl (fun acc u =>
    match (acc.2.core c).byUid u with
    | some (t, th) =>
      if acc.1 then acc.2.bindList c t (overlapping (th.pend.filter fun p => decide (p.id < id)) pa n) else acc
    | none => acc) (true, s)

/-- Whether a store of a participant to n bytes at pa is not yet applied on its own die, also where the participant has ended
(R268, R271, R274). -/
def State.engOwed (s : State) (c : Nat) (uids : List Nat) (pa n : Nat) : Bool :=
  let k := s.core c
  uids.any fun u => match k.byUid u with
    | some (_, th) => s.replOwed c th pa n
    | none =>
      k.late.any (fun w => w.uid == u && w.meets pa n)
        || s.fwds.any fun f => f.die == dieOf c && rangesMeet (f.pa, f.bytes.length) (pa, n)
          && (k.owing.contains f.tag || k.ghosts.any fun g => g.uid == u && g.owing.contains f.tag)

/-- An engine's read of n bytes of one line of global memory, without the weir, for operation id of the participants (R252,
R271). -/
def State.engFetch (s : State) (c : Nat) (uids : List Nat) (id va n : Nat) : EngRead :=
  match s.engXlate c va .load with
  | (.page, _) => .page va
  | (.access k, _) => .err 12 (accessMore va k)
  | (.off pa, _) => .off pa
  | (.ok e, s) =>
    if s.engOwed c uids (e.pa va) n then .wait s
    else
      match s.bindOlder c uids id (e.pa va) n with
      | (false, s) => .wait s
      | (true, s) =>
        match s.readNow c (e.pa va) e.attr n with
        | .wait s => .wait s
        | .bytes bs poisoned s => if poisoned then s.engPoison c (poisonInfo va) else .ok bs s

/-- An engine's beat of n bytes of one line of global memory, held and charged by the weir (R296). -/
def State.engLoad (s : State) (c : Nat) (uids : List Nat) (id va n : Nat) : EngRead :=
  if s.weirHolds (s.core c).tenancy 0 then .wait s
  else
    match s.engFetch c uids id va n with
    | .ok bs s => .ok bs (s.charge (s.core c).tenancy 0 n)
    | r => r

/-- An engine's read of n bytes of one scratchpad line (R338, R373). -/
def State.engSpLoad (s : State) (c o n : Nat) : EngRead :=
  let k := s.core c
  let a := k.lineAttr (o / 128)
  if a.pres then
    match (List.range n).find? fun j => k.spPoison.contains ((o + j) / 4) with
    | some j => s.engPoison c [1, wd (o + j), 0]
    | none => .ok (k.spRead o n) s
  else if a.pend = 0 then .err 22 [wd (o / 128 * 128)]
  else .wait s

/-- What a header mismatch names (R68, notes/assumptions/54): the line offset; the line tag, with the tile's swizzle from bit 8
up and its slot from bit 16 up. -/
def Core.tagMore (k : Core) (slot line swz : Nat) : List Word :=
  [wd (line * 128), wd ((k.lineAttr line).tag.toNat + swz * 2 ^ 8 + slot * 2 ^ 16)]

/-- How an engine's store to one line can end before it is made. -/
inductive EngWrite where
  | ok (pa : Nat) (attr : BitVec 2) (s : State)
  | page (va : Nat)
  | err (kind : Nat) (more : List Word)
  | off (pa : Nat)

/-- The conditions of an engine's store of n bytes to one line: translation, staging room (R303, R339). -/
def State.engCheck (s : State) (c va n : Nat) : EngWrite :=
  match s.engXlate c va .store with
  | (.page, _) => .page va
  | (.access k, _) => .err 12 (accessMore va k)
  | (.off pa, _) => .off pa
  | (.ok e, s) =>
    match s.checkStage c (e.pa va) n with
    | .error _ => .err 28 []
    | .ok _ => .ok (e.pa va) e.attr s

/-- Whether an engine's store may be applied now (R267). -/
def State.engReady (s : State) (c pa : Nat) (attr : BitVec 2) : Bool :=
  attr != 1 || s.replayable c || s.atomicReady (dieOf c) pa

/-- An engine's write to one line, as a store of the core's die (R272). One to a REPL page counts as owing for the core's
threads until every die has applied it: whoever observes the operation has it before its later accesses and fences
(R268, R273). -/
def State.engPut (s : State) (c pa : Nat) (attr : BitVec 2) (bytes : List Byte) : State :=
  let (tag, s) := s.draw
  let s := s.coreStore c pa attr bytes tag
  if attr = 2 then s.modCore c fun k => { k with owing := tag :: k.owing } else s

/-- An engine's write, charged to the weir (R296). -/
def State.engStore (s : State) (c pa : Nat) (attr : BitVec 2) (bytes : List Byte) : State :=
  (s.engPut c pa attr bytes).charge (s.core c).tenancy 0 bytes.length

/-- Reads the listed ranges of one space, each within a line, for operation id of a thread; nothing is charged (R296). -/
def State.engGather (s : State) (c uid id : Nat) (sp : Bool) : List (Nat × Nat) → List Host.Cell → EngRead ⊕ List Host.Cell × State
  | [], acc => .inr (acc, s)
  | (a, n) :: ps, acc =>
    if sp && decide (Config.spBytes < a + n) then .inl (.err 11 [wd a, wd n])
    else
      match (if sp then s.engSpLoad c a n else s.engFetch c [uid] id (a % 2 ^ 57) n) with
      | .ok bs s => s.engGather c uid id sp ps (cellsWrite acc a bs)
      | r => .inl r

/-- Consecutive addresses as ranges. -/
def runsOf : List Nat → List (Nat × Nat)
  | [] => []
  | a :: l =>
    match runsOf l with
    | (b, n) :: rs => if b = a + 1 then (a, n + 1) :: rs else (a, 1) :: (b, n) :: rs
    | [] => [(a, 1)]

/-- A page fault of an engine: the record of class 2 kind 2 and its token (R173, R308). -/
def State.engPage (s : State) (c : Nat) (pc : Word) (va : Nat) : Word × State :=
  s.sendRec (s.core c).tenancy { plainRec 2 2 [] va with core := c, rpc := pc, ipc := pc }

/-! ### Issue, errors, retirement (R25, R173, R194) -/

def Thread.addOc (th : Thread) (q : EngClass) : Thread :=
  match q with
  | .cp => { th with ocCp := th.ocCp + 1 }
  | .mx => { th with ocMx := th.ocMx + 1 }
  | .ga => { th with ocGa := th.ocGa + 1 }
  | .co => { th with ocCo := th.ocCo + 1 }

def Thread.subOc (th : Thread) (q : EngClass) : Thread :=
  match q with
  | .cp => { th with ocCp := th.ocCp - 1 }
  | .mx => { th with ocMx := th.ocMx - 1 }
  | .ga => { th with ocGa := th.ocGa - 1 }
  | .co => { th with ocCo := th.ocCo - 1 }

/-- The number of an engine class, in the order of R25. -/
def clsNum (q : EngClass) : Nat := match q with | .cp => 0 | .mx => 1 | .ga => 2 | .co => 3

/-- What a bracket counts of an operation (R181): a copy or gather; MMA or MMAZ; ACCST or QNT; another matrix
operation; a collective operation. -/
inductive OpSort where
  | copy | mma | out | mx | co
deriving DecidableEq, Repr

/-- An operation is issued inside an open bracket (R181). -/
def Bracket.issue (b : Bracket) (id now : Nat) (k : OpSort) : Bracket :=
  let b := { b with ops := id :: b.ops }
  let out (b : Bracket) : Bracket :=
    if b.nmma = 0 then b else { b with couts := id :: b.couts, coutAt := some (b.coutAt.getD now) }
  match k with
  | .copy =>
    let b := if b.mx then b else { b with cins := id :: b.cins, cinAt := some (b.cinAt.getD now) }
    out b
  | .mma => { b with mx := true, nmma := b.nmma + 1, couts := [], coutAt := none, bout := 0 }
  | .out => { out b with mx := true }
  | .mx => { b with mx := true }
  | .co => b

/-- An operation of the bracket retires: bytes moved, units charged. -/
def Bracket.retire (b : Bracket) (id now bytes units : Nat) (k : OpSort) : Bracket :=
  let b := { b with ops := b.ops.erase id, last := now }
  let b := if b.cins.contains id then { b with cins := b.cins.erase id, bin := b.bin + bytes, cinEnd := now } else b
  let b := if b.couts.contains id then { b with couts := b.couts.erase id, bout := b.bout + bytes } else b
  match k with
  | .mma => { b with units := b.units + units, mmaEnd := now }
  | _ => b

/-- Changes every bracket of core c that has operation id outstanding; a closed one with none left is recorded. -/
def State.modBrackets (s : State) (c id : Nat) (f : Bracket → Bracket) : State :=
  let k := s.core c
  let g (b : Bracket) : Bracket := if b.ops.contains id then f b else b
  let threads := k.threads.map fun e =>
    match e.2.bracket with
    | some b => if b.ops.contains id then (e.1, { e.2 with bracket := some (f b) }) else e
    | none => e
  let closing := k.closing.map g
  let s := s.setCore c { k with threads, closing := closing.filter fun b => !b.ops.isEmpty }
  (closing.filter (·.ops.isEmpty)).foldl (fun s b => s.emitTileRec c b) s

/-- An operation issues for a thread: its class counter and its open bracket (R25, R181). -/
def State.engIssue (s : State) (c t id : Nat) (q : EngClass) (k : OpSort) : State :=
  s.modThr c t fun th =>
    { th.addOc q with bracket := th.bracket.map fun b => b.issue id s.time.toNat k }

/-- The partition of a thread by uid, whether it runs or has ended. -/
def Core.uidPart (k : Core) (uid : Nat) : Nat :=
  match k.byUid uid with
  | some (t, _) => posPart t
  | none => match k.ghosts.find? (·.uid == uid) with | some g => g.part | none => 0

/-- A class counter of an ended thread falls; its allocation returns when all reach 0 (R194). -/
def Core.ghostDone (k : Core) (uid : Nat) (q : EngClass) : Core :=
  let dec (g : Ghost) : Ghost :=
    if g.uid = uid then { g with oc := g.oc.set (clsNum q) (g.oc.getD (clsNum q) 0 - 1) } else g
  { k with ghosts := (k.ghosts.map dec).filter (fun g => g.uid != uid || g.oc.any (· != 0)) }

/-- An operation retires for its participants (R25, R173). -/
def State.engRetire (s : State) (c id : Nat) (uids : List Nat) (q : EngClass) (bytes units : Nat) (k : OpSort) :
    State :=
  let s := uids.foldl (fun s u =>
    match (s.core c).byUid u with
    | some (t, _) => s.modThr c t (·.subOc q)
    | none => s.modCore c (·.ghostDone u q)) s
  s.modBrackets c id fun b => b.retire id s.time.toNat bytes units k

/-- An error after issue (R173): the record of class 2 kind 3 with the engine class, the fault kind from bit 8 up, and
what the fault names (notes/assumptions/54), and the error mark of the class, with the fields of the engine-fault trap
(R203), in every participant that still runs; a mark that is already set stays. gauge is the offset of the gauge that a
failed copy counted. -/
def State.engError (s : State) (c : Nat) (uids : List Nat) (q : EngClass) (e : EngErr) (pc : Word)
    (gauge : Option Nat) : State :=
  let info := wd (clsNum q + e.kind * 2 ^ 8) :: e.arg :: e.more
  let (_, s) := s.sendRec (s.core c).tenancy { plainRec 2 3 info 0 with core := c, rpc := pc, ipc := pc }
  let mark := [wd (clsNum q), wd e.kind, pc, e.arg] ++ [match gauge with | some o => wd (o + 1) | none => 0]
  uids.foldl (fun s u =>
    match (s.core c).byUid u with
    | some (t, _) => s.modThr c t fun th =>
        if (tget? th.errs (clsNum q)).isSome then th else { th with errs := tset th.errs (clsNum q) mark }
    | none => s) s

/-! ### Tile records (R181) -/

/-- The record of a tile record that is not made: an access fault, or no staging room. -/
def State.tileRecError (s : State) (r : TileRec) (kind : Nat) : State :=
  let pc : Word := BitVec.ofNat 32 (fieldAt r.bytes 56 4)
  (s.sendRec r.ten { plainRec 2 3 [wd (kind * 2 ^ 8)] r.va with core := r.core, rpc := pc, ipc := pc }).2

/-- A tile record is charged as memory bytes and as class 7 traffic (R296, R318). -/
def State.chargeTile (s : State) (ten : Nat) : State := (s.charge ten 0 64).sendBytes ten .tile 64

/-- Tries to write one tile record, as a store by its thread (R181); none once it is written or given up. -/
def State.writeTileRec (s : State) (r : TileRec) : State × Option TileRec :=
  let c := r.core
  if r.held.isSome ∨ s.weirHolds r.ten 0 ∨ s.trafficHeld r.ten .tile then (s, some r)
  else
    match s.walkFor r.ten r.va .store with
    | .off pa => ({ s with bad := some pa }, none)
    | .page =>
      let (tok, s) := s.sendRec r.ten { plainRec 2 2 [] r.va with core := c }
      (s, some { r with held := some tok })
    | .access _ => (s.tileRecError r 12, none)
    | .ok e =>
      let pa := e.pa r.va
      let bytes := setBytes r.bytes 8 (toBytes 8 s.time.toNat)
      let nd := (tget? s.nodes r.node).filter (·.flag 0)
      if nd.isSome then
        if nd.any (·.stageRoom [(pa, 64)]) then ((s.modNode r.node (·.stage pa bytes)).chargeTile r.ten, none)
        else (s.tileRecError r 28, none)
      else if e.attr = 1 ∧ s.atomicReady (dieOf c) pa = false then (s, some r)
      else
        match (if s.nodeNum c = r.node then (s.core c).byUid r.uid else none) with
        | some (t, _) =>
          match s.bindEarlier c t pa 64 with
          | (false, s) => (s, some r)
          | (true, s) => ((s.storeTagged c t pa e.attr bytes r.tag).chargeTile r.ten, none)
        | none => (((s.fillSectors pa 64).dieStore (dieOf c) pa e.attr bytes r.tag).l1Update (s.l1Copy c pa) c pa bytes
            |>.chargeTile r.ten, none)

/-- Writes the tile records that can be written now, in the order they were made. -/
def State.flushTileRecs (s : State) : State :=
  if s.tileRecs.isEmpty then s
  else
    let rs := s.tileRecs
    rs.foldl (fun s r =>
      let (s, r) := s.writeTileRec r
      { s with tileRecs := s.tileRecs ++ r.toList }) { s with tileRecs := [] }

end Sys2Proof.Machine
end

