-- ==== Sys2Proof/Machine/Header.lean ====
section
/-! DEFINITION. Header slots and the units that act on them: HLD, HEV, HST, HSET, HGET; MXSTAT, TOPEN, TCLOSE (R28,
R64, R65, R67, R70, R71, R174, R180, R181). -/

namespace Sys2Proof.Machine

/-! ### Slots -/

def Core.slot (k : Core) (h : Nat) : Option Slot := tget? k.slots h
def Core.setSlot (k : Core) (h : Nat) (v : Slot) : Core := { k with slots := tset k.slots h v }
def Core.emptySlot (k : Core) (h : Nat) : Core := { k with slots := tdel k.slots h }

def Slot.h (sl : Slot) : Hdr := Hdr.of sl.hdr
def Slot.kind (sl : Slot) : Nat := bindKind sl.bind
def Slot.loc (sl : Slot) : Nat := bindLoc sl.bind

/-- The header-slot fault of an empty slot (R28). -/
def checkSlot (h : Nat) (s : State) (c : Nat) : Except Stop Slot :=
  match (s.core c).slot h with
  | some v => .ok v
  | none => flt 3 [wd h]

/-- The unsupported-combination fault of one slot (R70). -/
def unsupported {α : Type} (h : Nat) (f : Nat × Nat) : Except Stop α := flt 7 [wd h, wd f.1, wd f.2]

/-- Scratchpad lines that a tile's data covers (R67, R68): of a macro tile its whole footprint (DESIGN CHOICE,
notes/assumptions/52). -/
def Hdr.dataLines (h : Hdr) (data : Nat) (rd : Nat → Byte) : List Nat :=
  ((h.footRanges data h.pitch rd).flatMap fun r => linesOf r.1 r.2).eraseDups

/-- The fill-tag check of one data line (R68). -/
def tagAccepts (swz tag : Nat) : Bool := tag == 8 + swz || (tag == 0 && swz == 0)

/-- The fill field as a slot reads it (R67). -/
def Core.fillOf (k : Core) (sl : Slot) : Nat :=
  if sl.kind ≠ 1 then 0
  else
    match (sl.h.dataLines sl.loc (cellGet k.sp)).map fun l => (k.lineAttr l).tag.toNat with
    | [] => 0
    | t :: ts => if ts.all (· == t) then t else 0xF

/-- The image HST writes and HGET reads: fill reduced, crc fresh (R65). -/
def Core.slotImage (k : Core) (sl : Slot) : BitVec 256 := ({ sl.h with fill := k.fillOf sl } : Hdr).image

/-- The binding of an image at an address in a space (R65): the address 32 bytes on. -/
def imageBind (sp : Bool) (addr : Nat) : BitVec 64 := BitVec.ofNat 64 ((addr + 32) % 2 ^ 57 + b2n sp)

/-- The participant with the lowest lane, from which a spray operation reads its registers (R172). -/
def lead (ps : List Nat) : Nat := ps.headD 0

/-- A unit of a spray that stays where it is: it waits. -/
def stay (s : State) : Except Stop (State × (Nat → Done)) := .ok (s, fun _ => .gone)

/-- Every participant goes on. -/
def goOn (s : State) : Except Stop (State × (Nat → Done)) := .ok (s, fun _ => noLatch)

/-- A spray operation's access of n bytes at pa has its place in each participant's program order: their earlier loads of the
bytes are bound (R248, R249). -/
def State.bindParts (s : State) (c : Nat) (ps : List Nat) (pa n : Nat) : Bool × State :=
  ps.foldl (fun acc t => if acc.1 then acc.2.bindEarlier c t pa n else acc) (true, s)

/-- Whether a REPL store of a participant to the bytes is still to be applied by the die. -/
def State.partsOwed (s : State) (c : Nat) (ps : List Nat) (pa n : Nat) : Bool :=
  ps.any fun t => match s.thr? c t with | some th => s.replOwed c th pa n | none => false

/-- The participants share what the first of them owes (R248, R268). -/
def State.shareOwing (s : State) (c : Nat) (ps : List Nat) : State :=
  match (s.thr? c (lead ps)).bind (·.owing.head?) with
  | none => s
  | some tag => (ps.drop 1).foldl (fun s t => s.modThr c t fun th => { th with owing := tag :: th.owing }) s

/-! ### HLD (R65, R174) -/

/-- Takes a header image read at an address: its crc, then the rows marked Any; then the slot is CLEAN. -/
def takeImage (h : Nat) (sp : Bool) (addr ea : Nat) (bs : List Byte) (s : State) (c : Nat) :
    Except Stop (State × (Nat → Done)) :=
  let w := BitVec.ofNat 256 (ofBytes bs)
  let hd := Hdr.of w
  let b := imageBind sp addr
  if hd.crc ≠ crc16 (bs.take 30) then flt 6 [wd h, wd ea, wd hd.crc, wd (crc16 (bs.take 30))]
  else
    match hd.anyFault b with
    | some f => unsupported h f
    | none => goOn (s.modCore c (·.setSlot h { hdr := w, bind := b, dirty := false }))

def hldBody (x : Src) (h : Nat) (sp : Bool) (s : State) (c : Nat) (ps : List Nat) :
    Except Stop (State × (Nat → Done)) := do
  let t := lead ps
  let ea := (s.src c t x).toNat
  checkAligned ea 32
  if sp then
    checkSpBounds ea 32
    checkPresent (s.core c) ea 32
    checkSpPoison (s.core c) ea 32
    takeImage h true ea ea ((s.core c).spRead ea 32) s c
  else
    let va := s.regionAddr c t ea
    let (e, s) ← s.xlate c t va .load
    match s.bindParts c ps (e.pa va) 32 with
    | (false, s) => stay s
    | (true, s) =>
      if s.partsOwed c ps (e.pa va) 32 then stay s
      else match s.loadNow c (e.pa va) e.attr 32 true with
      | .wait s => stay s
      | .bytes bs poisoned s =>
        if poisoned then flt 29 (poisonInfo va)
        else takeImage h false va ea bs (s.charge (s.core c).tenancy 0 32) c

/-- HLD (R174). -/
def execHld (gp : Option Guard) (x : Src) (h : BitVec 5) (sp : Bool) (s : State) : Host.Outcome State Fault Refusal :=
  runSpray (.hld gp x h sp) noPre (hldBody x h.toNat sp) s

/-! ### HST, HEV (R65) -/

/-- Writes a slot's header to its image address; then continues. -/
def storeImage (sl : Slot) (s : State) (c : Nat) (ps : List Nat) (f : State → Except Stop (State × (Nat → Done))) :
    Except Stop (State × (Nat → Done)) := do
  let bs := toBytes 32 ((s.core c).slotImage sl).toNat
  let at_ := (sl.loc + 2 ^ 57 - 32) % 2 ^ 57
  if sl.kind = 1 then
    if Config.spBytes < at_ + 32 then flt 11 [wd at_, 32]
    else
      checkPresent (s.core c) at_ 32
      f (s.modCore c (·.spPut at_ bs))
  else
    let (e, s) ← s.xlate c (lead ps) at_ .store
    s.checkStage c (e.pa at_) 32
    match s.bindParts c ps (e.pa at_) 32 with
    | (false, s) => stay s
    | (true, s) =>
      match s.storeNow c (lead ps) (e.pa at_) e.attr bs with
      | (false, s) => stay s
      | (true, s) => f ((if e.attr = 2 then s.shareOwing c ps else s).charge (s.core c).tenancy 0 32)

def hstBody (h : Nat) (s : State) (c : Nat) (ps : List Nat) : Except Stop (State × (Nat → Done)) := do
  let sl ← checkSlot h s c
  storeImage sl s c ps fun s => goOn (s.modCore c (·.setSlot h { sl with dirty := false }))

/-- HST's slot: not EMPTY, and of kind 0 or 1 (R174). -/
def hstPre (h : Nat) (s : State) (c _ : Nat) : Except Stop Unit := do
  let sl ← checkSlot h s c
  if 2 ≤ sl.kind then unsupported h (13, lowWord sl.bind.toNat) else .ok ()

/-- HST (R174). -/
def execHst (gp : Option Guard) (h : BitVec 5) (s : State) : Host.Outcome State Fault Refusal :=
  runSpray (.hst gp h) (hstPre h.toNat) (hstBody h.toNat) s

def hevBody (h : Nat) (s : State) (c : Nat) (ps : List Nat) : Except Stop (State × (Nat → Done)) :=
  let clear (s : State) : Except Stop (State × (Nat → Done)) := goOn (s.modCore c (·.emptySlot h))
  match (s.core c).slot h with
  | some sl => if sl.dirty && decide (sl.kind < 2) then storeImage sl s c ps clear else clear s
  | none => goOn s

/-- HEV (R174). -/
def execHev (gp : Option Guard) (h : BitVec 5) (s : State) : Host.Outcome State Fault Refusal :=
  runSpray (.hev gp h) noPre (hevBody h.toNat) s

/-! ### HSET, HGET (R174) -/

def hsetBody (x : Nat) (y : Src) (h : Nat) (s : State) (c : Nat) (ps : List Nat) :
    Except Stop (State × (Nat → Done)) :=
  let t := lead ps
  let bs := (List.range 8).flatMap fun j => toBytes 4 (s.reg c t (x + j)).toNat
  let hd := Hdr.of (BitVec.ofNat 256 (ofBytes bs))
  let b := s.src64 c t y
  match hd.anyFault b with
  | some f => unsupported h f
  | none => goOn (s.modCore c (·.setSlot h { hdr := hd.image, bind := b, dirty := true }))

/-- HSET (R174). -/
def execHset (gp : Option Guard) (x : BitVec 7) (y : Src) (h : BitVec 5) (s : State) :
    Host.Outcome State Fault Refusal :=
  runSpray (.hset gp x y h) noPre (hsetBody x.toNat y h.toNat) s

def hgetBody (x : Nat) (y : Dst) (h : Nat) (s : State) (c t : Nat) : Res := do
  let sl ← checkSlot h s c
  let v := ((s.core c).slotImage sl).toNat
  let s := (List.range 8).foldl (fun s j => s.setReg c t (x + j) (BitVec.ofNat 32 (v / 2 ^ (32 * j)))) s
  .ok (s.dst64 c t y sl.bind, noLatch)

/-- A unit that reads slot h (R31 item 5). -/
def slotPre (h : Nat) (s : State) (c _ : Nat) : Except Stop Unit := do
  let _ ← checkSlot h s c

/-- HGET (R174). -/
def execHget (gp : Option Guard) (x : BitVec 7) (y : Dst) (h : BitVec 5) (s : State) :
    Host.Outcome State Fault Refusal :=
  runThreads (.hget gp x y h) (slotPre h.toNat) (hgetBody x.toNat y h.toNat) s

/-! ### MXSTAT (R180) -/

def Bank.isReady : Bank → Bool | .ready .. => true | .empty => false
def Bank.efmt : Bank → Nat | .ready h .. => (Hdr.of h).efmt | .empty => 0

def Core.activeBank (k : Core) : Bank := if k.active then k.bank1 else k.bank0
def Core.idleBank (k : Core) : Bank := if k.active then k.bank0 else k.bank1

/-- The first word of MXSTAT. -/
def Core.mxStat (k : Core) (p : Nat) : Nat :=
  let a := k.activeBank
  let b := k.idleBank
  b2n a.isReady + 2 * b2n b.isReady + 4 * b2n k.active + 2 ^ 8 * a.efmt + 2 ^ 16 * b.efmt
    + 2 ^ 24 * min 255 ((k.mxq.filter (·.part == p)).length)

def mxstatBody (x : Dst) (s : State) (c t : Nat) : Res :=
  let u : Word := match s.thr? c t with | some th => th.mxUnits | none => 0
  .ok (s.dst64 c t x (pair (wd ((s.core c).mxStat (posPart t))) u), noLatch)

/-- MXSTAT (R180). -/
def execMxstat (gp : Option Guard) (x : Dst) (s : State) : Host.Outcome State Fault Refusal :=
  runThreads (.mxstat gp x) noPre (mxstatBody x) s

/-! ### TOPEN, TCLOSE (R181) -/

def topenBody (x y : Src) (s : State) (c t : Nat) : Res :=
  match s.thr? c t with
  | none => .ok (s, noLatch)
  | some th => do
    let ea := (s.src c t x).toNat
    checkAligned ea 64
    if th.bracket.isSome then flt 27 [1, wd ea]
    else
      let b : Bracket :=
        { addr := s.regionAddr c t ea, tag := s.src c t y, topen := s.time.toNat, pc := th.pc, tid := t
          ops := [], mx := false, cins := [], couts := [], bin := 0, bout := 0, nmma := 0, units := 0, cinAt := none
          cinEnd := 0, mmaAt := none, mmaEnd := 0, coutAt := none, last := 0, uid := th.uid }
      .ok (s.modThr c t fun th => { th with bracket := some b }, noLatch)

/-- TOPEN (R181). -/
def execTopen (gp : Option Guard) (x y : Src) (s : State) : Host.Outcome State Fault Refusal :=
  runThreads (.topen gp x y) noPre (topenBody x y) s

def tcloseBody (s : State) (c t : Nat) : Res :=
  match (s.thr? c t).bind (·.bracket) with
  | none => flt 27 [2, 0]
  | some b => .ok ((s.closeBracket c b).modThr c t fun th => { th with bracket := none }, noLatch)

/-- TCLOSE (R181). -/
def execTclose (gp : Option Guard) (s : State) : Host.Outcome State Fault Refusal :=
  runThreads (.tclose gp) noPre tcloseBody s

end Sys2Proof.Machine
end

