-- ==== Sys2Proof/Machine/Quant.lean ====
section
/-! DEFINITION. The arithmetic of the matrix pipeline: block sums (R54..R57), conversions out of and into the cistern
(R178), quantising to E2M1S (R179), the toggle estimate (R242, R244), the headers of results and the combinations that
consumers do not support (R64, R66, R69, R70). -/

namespace Sys2Proof.Machine

/-! ### Sums (R54..R56) -/

/-- Splits into blocks of 32 in ascending K. -/
def blocks32 {α : Type} (l : List α) : List (List α) :=
  (List.range (cdiv l.length 32)).map fun k => (l.drop (32 * k)).take 32

/-- The exact sum of exact products (R55). -/
def sumEx : List Ex → Ex
  | [] => .zero
  | x :: l => l.foldl (fun a b => a.add 0 b) x

/-- One element of an FP32 accumulation (R54): two roundings for each block. -/
def accBlocks (r : Rnd) (acc : Nat) (products : List Ex) : Nat :=
  (blocks32 products).foldl (fun a b =>
    let s := fp32.round r (sumEx b)
    fp32.round r ((fp32.widen false a).add 0 (fp32.widen false s))) acc

/-- The integer of an exact value that is one. -/
def Ex.toInt : Ex → Int
  | .fin s m e => let n : Int := roundShift 1 s m e; if s then -n else n
  | _ => 0

/-- One element of an integer accumulation (R56). -/
def accInts (sat : Bool) (acc : Nat) (products : List Ex) : Nat :=
  modInt 32 ((blocks32 products).foldl (fun a b =>
    let v := a + (b.map Ex.toInt).foldl (· + ·) 0
    if sat then max (-(2 ^ 31 : Nat)) (min ((2 ^ 31 : Nat) - 1) v) else sxInt (modInt 32 v) 32) (sxInt acc 32))

/-- Whether an MMA of these operands takes the integer path (R56, R69). -/
def intPath (a w : Hdr) : Bool := efmtNarrow a.efmt && efmtNarrow w.efmt && a.sfmt == 0 && w.sfmt == 0

/-- Results of an MMA or MMAZ, row by row: acc gives the initial accumulators (R54, R56, R57). -/
def mmaResults (m : Option Mode) (a w : Hdr) (as ws : List (List Nat)) (acc : Nat → Nat) : List Nat :=
  let r := { rndOf m with rm := 0 }
  let av := as.map fun row => row.map (a.value r.fzi)
  let wv := ws.map fun row => row.map (w.value r.fzi)
  let cols := (List.range w.cols).map fun j => wv.map fun row => row.getD j .zero
  let n := w.cols
  (List.range av.length).flatMap fun i =>
    (List.range n).map fun j =>
      let ps := (av.getD i []).zipWith Ex.mul (cols.getD j [])
      if intPath a w then accInts r.sat (acc (i * n + j)) ps else accBlocks r (acc (i * n + j)) ps

/-! ### The toggle estimate (R242, R244) -/

/-- Planes sent for an element (R242). -/
def planes (f : Nat) : Nat := match f with | 3 | 4 => 2 | 7 | 8 | 1 | 2 => 4 | _ => 8

/-- The mantissa with its implicit bit (R242). -/
def significand (f : Fp) (v : Nat) : Nat :=
  v % 2 ^ f.m + (if v / 2 ^ f.m % 2 ^ f.e = 0 then 0 else 2 ^ f.m)

/-- The bits whose planes are sent: an E2M1S spare code as zero planes (R242). -/
def planeBits (f v : Nat) : Nat :=
  match f with
  | 3 => significand e2m1 v
  | 4 => if v % 16 = 8 then 0 else significand e2m1 v
  | 7 => significand e4m3 v
  | 8 => significand e5m2 v
  | 11 => significand bf16 v
  | 1 | 2 => v % 16
  | _ => v % 256

/-- Toggles of one line of bits, sent after a 0. -/
def togglesOf : Bool → List Bool → Nat
  | _, [] => 0
  | p, b :: l => b2n (p != b) + togglesOf b l

/-- T of R244: each K position goes to the four macros of its row of macros, and the macros have 512. -/
def toggles (f : Nat) (rows : List (List Nat)) (cols : Nat) : Nat :=
  4 * sumBy (fun k =>
    togglesOf false (rows.flatMap fun row =>
      (List.range (planes f)).map fun b => bitOf (planeBits f (row.getD k 0 % 2 ^ 32)) b)) (List.range (min cols 512))

/-! ### QNT (R179) -/

/-- The least e with m ≤ 6 × 2^e, clamped to −127..127 (R179 item 1). -/
def quantScale (xs : List Ex) : Int :=
  let big := xs.foldl (fun b x =>
    match x with | .fin _ m e => if b.lt (.fin false m e) then Ex.fin false m e else b | _ => b) Ex.zero
  match big with
  | .fin _ m e =>
    if m = 0 then -127
    else
      let l := (log2 m : Int) + e
      let k := if (Ex.fin false 3 (l - 1)).lt big then l - 1 else l - 2
      max (-127) (min 127 k)
  | _ => -127

/-- The spare's position: the lowest with the largest error (R179 item 2). -/
def quantWorst (rm sc : Nat) (xs : List Ex) : Nat × Ex :=
  let err (x : Ex) : Ex :=
    match x with
    | .inf _ => .inf false
    | x => x.dist (chooseCand rm x (e2m1sCands sc 0 false)).2
  ((List.range xs.length).foldl (fun b j =>
    let e := err (xs.getD j .zero)
    if b.2.lt e then (j, e) else b) (0, Ex.zero))

/-- Scale and spare of a block (R179 items 1..3). -/
def quantPair (rm : Nat) (xs : List Ex) : Nat × Nat :=
  if xs.any Ex.isNan then (0xFF, 0x7F)
  else
    let e := quantScale xs
    let sc := (e + 127).toNat
    let w := quantWorst rm sc xs
    if w.2.isZero then (sc, 0)
    else (sc, e4m3.round ⟨rm, false, false, true⟩ ((xs.getD w.1 .zero).mul (.fin false 1 (-e))))

/-- A block's codes, scale and spare (R179). -/
def quantBlock (rm : Nat) (xs : List Ex) : List Nat × Nat × Nat :=
  let p := quantPair rm xs
  (xs.map fun x => e2m1sQuant rm x p.1 p.2, p.1, p.2)

/-! ### Result headers (R69) -/

/-- The cistern header that an operation infers (R69); soff is 0 in it (DESIGN CHOICE, notes/assumptions/52). -/
def cisternHdr (int : Bool) (rows cols : Nat) : Hdr :=
  { ver := 1, efmt := if int then 14 else 13, sfmt := 0, sblk := 0, sparse := 0, order := 0, swz := 0, fill := 0
    rows, cols, pitch := cols * 4, soff := 0, moff := 0, res := 0, crc := 0 }

/-- The header that ACCST or QNT gives its destination (R69). -/
def outHdr (quant : Bool) (cist dst : Hdr) : Hdr :=
  { ver := 1, efmt := if quant then 4 else dst.efmt, sfmt := if quant then 3 else 0, sblk := if quant then 2 else 0
    sparse := 0, order := dst.order, swz := dst.swz, fill := 0, rows := cist.rows, cols := cist.cols
    pitch := dst.pitch, soff := dst.soff, moff := 0, res := 0, crc := 0 }

/-- The first field in which two headers disagree, of those that describe a tile (R70 field 14). -/
def firstDiffer (a b : Hdr) : Option Nat :=
  (firstFault
    [(a.efmt != b.efmt, 1, 0), (a.sfmt != b.sfmt, 2, 0), (a.sblk != b.sblk, 3, 0), (a.sparse != b.sparse, 4, 0),
     (a.swz != b.swz, 5, 0), (a.order != b.order, 6, 0), (a.rows != b.rows, 7, 0), (a.cols != b.cols, 8, 0),
     (a.pitch != b.pitch, 9, 0), (a.soff != b.soff, 10, 0), (a.moff != b.moff, 11, 0)]).map (·.1)

/-! ### Consumers (R64, R66, R70) -/

/-- How a unit uses a slot; reg where the unit names a register-resident tile. -/
inductive Role where
  | a (reg : Bool)
  | w
  | ld (reg : Bool)
  | st (reg : Bool)
  | qnt
  | cist
  | copy
deriving DecidableEq, Repr

/-- Whether a role takes a binding of a kind (R64, R66, R176). -/
def Role.takes (r : Role) (kind : Nat) : Bool :=
  match r with
  | .cist => kind == 3
  | .a reg | .ld reg | .st reg => if reg then kind == 2 else kind == 0 || kind == 1
  | _ => kind == 0 || kind == 1

/-- Element formats that A and weight tiles may not have (R70). -/
def notOperand (f : Nat) : Bool := f == 10 || f == 13 || f == 12 || f == 14 || f == 15

/-- The rows of R70 that consumers check on one slot, in table order. A footprint that goes too far is field 13 with the
binding, and a kind 2 tile outside R66 is the field that goes outside (DESIGN CHOICE, notes/assumptions/52). -/
def Hdr.useFault (h : Hdr) (b : BitVec 64) (r : Role) : Option (Nat × Nat) :=
  let kind := bindKind b
  let bad := lowWord b.toNat
  let isW := r == .w
  let isA := match r with | .a _ => true | _ => false
  firstFault
    [(h.swz != 0 && kind != 1, 5, h.swz), (h.swz != 0 && bindLoc b % 128 != 0, 5, h.swz),
     (h.swz == 4 && !isW, 5, h.swz), (!r.takes kind, 13, bad),
     (kind == 2 && decide (32 < h.rows), 7, h.rows),
     (kind == 2 && decide (1024 < h.cols * efmtBits h.efmt), 8, h.cols),
     (kind == 2 && h.sfmt != 0, 2, h.sfmt), (kind == 2 && h.sparse != 0, 4, h.sparse),
     (kind == 1 && h.beyond (bindLoc b), 13, bad),
     (kind == 3 && decide (Config.cisternWords < bindAcc b + h.rows * h.cols), 13, bad),
     ((isW || isA) && notOperand h.efmt, 1, h.efmt),
     (isW && decide (512 < h.rows), 7, h.rows), (isW && decide (256 < h.cols), 8, h.cols),
     ((h.sparse == 1 || h.sparse == 2) && !(isW && h.order == 1), 4, h.sparse),
     (h.sparse == 3 && !isW && !isA, 4, h.sparse)]

/-- The checks of a result's header with its slot's binding. -/
def Hdr.resultFault (h : Hdr) (b : BitVec 64) (r : Role) : Option (Nat × Nat) :=
  (h.anyFault b).orElse fun _ => h.useFault b r

end Sys2Proof.Machine
end

