-- ==== Sys2Proof/Machine/Copy.lean ====
section
/-! DEFINITION. Copies, gathers, gauges and presence control: CPY, CPYG, GARM, GADD, GTST, PRCLR; a copy's lines arriving
and its retirement (R182..R189, R233, R236..R239). -/

namespace Sys2Proof.Machine

/-! ### Requests (R182, R183, R203) -/

/-- A copy request as read. -/
structure Req where
  src  : Nat
  dst  : Nat
  len  : Nat
  ctl  : Nat
  aux0 : Nat
  aux1 : Nat

def Req.of (bs : List Byte) : Req :=
  { src := fieldAt bs 0 8, dst := fieldAt bs 8 8, len := fieldAt bs 16 4, ctl := fieldAt bs 20 4
    aux0 := fieldAt bs 24 4, aux1 := fieldAt bs 28 4 }

def Req.ga (r : Req) : Bool := bitOf r.ctl 0
def Req.ds (r : Req) : Bool := bitOf r.ctl 1
def Req.ss (r : Req) : Bool := bitOf r.ctl 2
def Req.sh (r : Req) : Bool := bitOf r.ctl 3
def Req.dh (r : Req) : Bool := bitOf r.ctl 4
def Req.st (r : Req) : Bool := bitOf r.ctl 5
def Req.goff (r : Req) : Nat := r.ctl / 2 ^ 16 * 16
def Req.handle (r : Req) : Bool := r.sh || r.dh

/-- Whether an address of n bytes is out of range: beyond the scratchpad or the address space; a slot number with other
bits set (R182, R203 cause 3). -/
def badRange (a n : Nat) (sp handle : Bool) : Bool :=
  if handle then decide (32 ≤ a) else decide ((if sp then Config.spBytes else 2 ^ 57) < a + max 1 n)

/-- The first cause of a copy-request fault (R203), for a copy (rows none) or a gather of so many rows. -/
def copyCause (k : Core) (r : Req) (rows : Option Nat) : Option Nat :=
  let gather := rows.isSome
  let n := rows.getD 1
  let byAddr := gather && !r.handle
  (firstFault
    [(bits r.ctl 15 6 != 0 || (r.goff != 0 && !r.ga) || (r.aux1 != 0 && !byAddr)
        || (r.aux0 != 0 && !r.st && !gather), 1, 0),
     (if r.handle then r.len != 0
      else r.len == 0 || decide ((if gather then 65536 else 0x100000) < r.len), 2, 0),
     (gather && (n == 0 || decide (65535 < n)), 2, 0),
     (badRange r.src (if gather then 0 else r.len) r.ss r.sh || badRange r.dst (n * r.len) r.ds r.dh
        || (r.ga && (decide (Config.spBytes < r.goff + 16) || (k.lineAttr (r.goff / 128)).own))
        || (r.st && !gather &&
            (r.aux0 % 8 != 0 || decide (Config.spBytes < r.aux0 + 8) || !(k.lineAttr (r.aux0 / 128)).own)), 3, 0),
     ((r.ss && r.sh) || (r.ds && r.dh), 4, 0),
     (r.st && (gather || r.handle), 5, 0), (r.sh != r.dh, 4, 0),
     (gather && (r.aux0 % 4 != 0 || decide (Config.spBytes < r.aux0 + 4 * n)), 6, 0)]).map (·.1)

/-- The slot that a request names under SH or DH; none where it names none, as with a bit above 4:0 set
(R182, R183, notes/assumptions/67). -/
def namedSlot (k : Core) (named : Bool) (n : Nat) : Except Stop (Option Slot) :=
  if !named || decide (32 ≤ n) then .ok none
  else match k.slot (n % 32) with | some x => .ok (some x) | none => flt 3 [wd (n % 32)]

/-- The rows of R70 on a named slot. -/
def slotUse (n : Nat) (x : Option Slot) : Except Stop Unit :=
  match x.bind fun x => x.h.useFault x.bind .copy with | some f => unsupported (n % 32) f | none => .ok ()

/-- The header faults of a copy that names slots: empty slots, the rows of R70 on each, then the two headers (R70, R71,
R204). -/
def handleFault (k : Core) (r : Req) (rows : Option Nat) : Except Stop (Option Slot × Option Slot) := do
  let a := r.src % 32
  let b := r.dst % 32
  let x ← namedSlot k r.sh r.src
  let y ← namedSlot k r.dh r.dst
  slotUse r.src x
  slotUse r.dst y
  match x, y with
  | some x, some y =>
      match firstFault
          [(x.h.efmt != y.h.efmt, 1, 0), (x.h.sfmt != y.h.sfmt, 2, 0), (x.h.sblk != y.h.sblk, 3, 0),
           (x.h.sparse != y.h.sparse, 4, 0), (y.h.rows != rows.getD x.h.rows, 7, 0), (x.h.cols != y.h.cols, 8, 0)] with
      | some f => flt 7 [wd a, wd b, 14, wd f.1]
      | none => .ok (some x, some y)
  | _, _ => .ok (none, none)

/-! ### What each destination byte takes -/

/-- Where a destination byte comes from: a source byte, two half bytes, one half byte under one that no element fills
(notes/assumptions/5), or a value that the manual does not give. -/
inductive ByteSrc where
  | byte (a : Nat)
  | nibs (a : Nat) (ha : Bool) (b : Nat) (hb : Bool)
  | half (a : Nat) (ha : Bool) (n : Nat)
  | free (n : Nat)
deriving DecidableEq, Repr

/-- Addresses a byte needs. -/
def ByteSrc.addrs : ByteSrc → List Nat
  | .byte a | .half a _ _ => [a]
  | .nibs a _ b _ => if a = b then [a] else [a, b]
  | .free _ => []

def halfOf (b : Byte) (hi : Bool) : Nat := if hi then b.toNat / 16 else b.toNat % 16

def ByteSrc.value (rd : Nat → Byte) (seed : Nat) : ByteSrc → Byte
  | .byte a => rd a
  | .nibs a ha b hb => BitVec.ofNat 8 (halfOf (rd a) ha + 16 * halfOf (rd b) hb)
  | .half a ha n => BitVec.ofNat 8 (halfOf (rd a) ha + 16 * ((Config.freeWord seed n).toNat % 16))
  | .free n => (Config.freeWord seed n).setWidth 8

/-- The source row of destination row i. -/
def Copy.row (cp : Copy) (i : Nat) : Nat := if cp.gather then cp.rows.getD i 0 else i

/-- Address of element number n of b bits in line l, and which half of the byte holds it. -/
def elemAddr (h : Hdr) (data l n : Nat) : Nat × Bool :=
  let b := efmtBits h.efmt
  (data + l * h.pitch + swizzle h.swz l (n * b / 8), b == 4 && n % 2 == 1)

/-- The element of the source that destination line l, inner position q takes. -/
def Copy.srcElem (cp : Copy) (hs hd : Hdr) (data l q : Nat) : Nat × Bool :=
  let i := cp.row (if hd.order = 0 then l else q)
  let j := if hd.order = 0 then q else l
  if hs.order = 0 then elemAddr hs data i j else elemAddr hs data j i

/-- The data bytes of line l of a handle copy: destination addresses and sources (R60, R62, R69, R185). -/
def Copy.lineSrc (cp : Copy) (hs hd : Hdr) (sdata ddata l : Nat) : List (Nat × ByteSrc) :=
  let b := efmtBits hd.efmt
  let same := hs.order == hd.order && (!cp.gather || hd.order == 0)
  (List.range hd.lineBytes).map fun o =>
    let at_ := ddata + l * hd.pitch + swizzle hd.swz l o
    if same then
      let sl := if hd.order = 0 then cp.row l else l
      (at_, .byte (sdata + sl * hs.pitch + swizzle hs.swz sl o))
    else if b = 4 then
      let x := cp.srcElem hs hd sdata l (2 * o)
      if hd.inner ≤ 2 * o + 1 then (at_, .half x.1 x.2 at_)
      else
        let y := cp.srcElem hs hd sdata l (2 * o + 1)
        (at_, .nibs x.1 x.2 y.1 y.2)
    else
      let n := b / 8
      (at_, .byte ((cp.srcElem hs hd sdata l (o / n)).1 + o % n))

/-- The source scale of destination scale x, where the two tiles number scales alike; none where the manual gives no
value (block scales of tiles of different order). -/
def Copy.srcScale (cp : Copy) (hs hd : Hdr) (x : Nat) : Option Nat :=
  match hd.sblk with
  | 5 => some (cp.row x)
  | 6 => some x
  | 7 => some 0
  | b =>
    let per := cdiv hd.inner (sblkLen b)
    if hs.order ≠ hd.order then none
    else if cp.gather then (if hd.order = 0 then some (cp.row (x / per) * per + x % per) else none)
    else some x

/-- The scale bytes of a handle copy (R38, R60, R69). -/
def Copy.scaleSrc (cp : Copy) (hs hd : Hdr) (sdata ddata : Nat) : List (Nat × ByteSrc) :=
  let n := sfmtBytes hd.sfmt
  (List.range hd.scales).flatMap fun x =>
    (List.range n).map fun j =>
      (headAt ddata hd.soff + x * n + j,
        match cp.srcScale hs hd x with
        | some y => .byte (headAt sdata hs.soff + y * n + j)
        | none => .free (x * n + j))

/-- The bytes of a copy whose destination lies in 128-byte line L. -/
def Copy.lineMap (cp : Copy) (L : Nat) : List (Nat × ByteSrc) :=
  match cp.srcSlot, cp.dstSlot with
  | some x, some y =>
    let hs := x.h
    let hd := y.h
    let lines := (List.range hd.lines).filter fun l =>
      decide ((y.loc + l * hd.pitch) / 128 ≤ L) && decide (L ≤ (y.loc + l * hd.pitch + hd.wide) / 128)
    ((lines.flatMap fun l => cp.lineSrc hs hd x.loc y.loc l) ++ cp.scaleSrc hs hd x.loc y.loc).filter fun e =>
      e.1 / 128 == L
  | _, _ =>
    let total := if cp.gather then cp.rows.length * cp.len else cp.len
    let lo := max cp.dst (L * 128)
    let hi := min (cp.dst + total) (L * 128 + 128)
    (List.range (hi - lo)).map fun j =>
      let k := lo + j - cp.dst
      if cp.gather then (lo + j, .byte (cp.src + cp.rows.getD (k / cp.len) 0 * cp.pitch + k % cp.len))
      else (lo + j, .byte (cp.src + k))

/-- The destination lines of a copy, ascending. -/
def Copy.allLines (cp : Copy) : List Nat :=
  match cp.srcSlot, cp.dstSlot with
  | some _, some y =>
    let hd := y.h
    ((((List.range hd.lines).flatMap fun l => linesOf (y.loc + l * hd.pitch) hd.wide)
      ++ linesOf (headAt y.loc hd.soff) (hd.scales * sfmtBytes hd.sfmt)).eraseDups).filter fun L =>
        !(cp.lineMap L).isEmpty
  | _, _ => linesOf cp.dst (if cp.gather then cp.rows.length * cp.len else cp.len)

/-! ### Issue (R184, R185) -/

/-- Issues a copy whose request has passed: tagged with its gauge's phase, its destination lines absent, counted. -/
def State.issueCopy (s : State) (c t : Nat) (th : Thread) (cp : Copy) (r : Req) : Res :=
  let k := s.core c
  let id := k.nextOp + 1
  let lines := cp.allLines
  if Config.spoutEntries ≤ k.copies.length ∨ (cp.dstSp ∧ k.lineFull lines) then .error .hold
  else
    let gauge := if r.ga then some (r.goff, (k.gauge r.goff).phase) else none
    let cp := { cp with id, uid := th.uid, pc := th.pc, inst := s.cur.word, gauge, lines }
    let s := s.modCore c fun k =>
      { (if cp.dstSp then k.copyIssue lines else k) with nextOp := id, copies := k.copies ++ [cp] }
    let s := s.bump c (posPart t) (if cp.gather then 33 else 31) 1
    .ok (s.engIssue c t id (if cp.gather then .ga else .cp) .copy, noLatch)

/-- A copy before it is issued. -/
def Req.copy (r : Req) (q : Nat) (x y : Option Slot) (rows : Option (List Nat)) : Copy :=
  { id := 0, uid := 0, gather := rows.isSome, pc := 0, inst := 0, q
    srcSp := match x with | some v => v.kind == 1 | none => r.ss
    dstSp := match y with | some v => v.kind == 1 | none => r.ds
    src := r.src, dst := r.dst, len := r.len, pitch := r.aux1, srcSlot := x, dstSlot := y, dstNum := r.dst % 32
    rows := rows.getD [], stamp := if r.st then some r.aux0 else none, gauge := none, lines := [], stored := []
    moved := 0, err := none, held := none }

/-- Reads a request at an offset (R204): alignment, bounds, presence, poison. -/
def readReq (s : State) (c q : Nat) : Except Stop Req := do
  checkAligned q 32
  checkSpBounds q 32
  checkPresent (s.core c) q 32
  checkSpPoison (s.core c) q 32
  .ok (Req.of ((s.core c).spRead q 32))

def cpyBody (x : Src) (s : State) (c t : Nat) : Res := do
  let q := (s.src c t x).toNat
  let r ← readReq s c q
  let (a, b) ← handleFault (s.core c) r none
  match copyCause (s.core c) r none, s.thr? c t with
  | some k, _ => flt 23 [wd q, wd k]
  | none, none => .ok (s, noLatch)
  | none, some th => s.issueCopy c t th (r.copy q a b none) r

/-- CPY (R184). -/
def execCpy (gp : Option Guard) (x : Src) (s : State) : Host.Outcome State Fault Refusal :=
  runThreads (.cpy gp x) noPre (cpyBody x) s

def cpygBody (x y : Src) (s : State) (c t : Nat) : Res := do
  let q := (s.src c t x).toNat
  let n := (s.src c t y).toNat
  let r ← readReq s c q
  let (a, b) ← handleFault (s.core c) r (some n)
  match copyCause (s.core c) r (some n), s.thr? c t with
  | some k, _ => flt 23 [wd q, wd k]
  | none, none => .ok (s, noLatch)
  | none, some th =>
    checkPresent (s.core c) r.aux0 (4 * n)
    checkSpPoison (s.core c) r.aux0 (4 * n)
    let list := (s.core c).spRead r.aux0 (4 * n)
    let rows := (List.range n).map fun j => fieldAt list (4 * j) 4
    let cp := r.copy q a b (some rows)
    let bad := match a with | some v => rows.findIdx? fun i => decide (v.h.rows ≤ i) | none => none
    s.issueCopy c t th { cp with err := bad.map fun j => { kind := 23, arg := wd q, more := [3, wd j] } } r

/-- CPYG (R185). -/
def execCpyg (gp : Option Guard) (x y : Src) (s : State) : Host.Outcome State Fault Refusal :=
  runThreads (.cpyg gp x y) noPre (cpygBody x y) s

/-! ### Delivery (R184, R233, R238) -/

def State.modCopy (s : State) (c id : Nat) (f : Copy → Copy) : State :=
  s.modCore c fun k => { k with copies := k.copies.map fun cp => if cp.id = id then f cp else cp }

/-- The bytes of a list of (address, byte) as runs. -/
def byteRuns (l : List (Nat × Byte)) : List (Nat × List Byte) :=
  l.foldr (fun e acc =>
    match acc with
    | (a, bs) :: rs => if a = e.1 + 1 then (e.1, e.2 :: bs) :: rs else (e.1, [e.2]) :: (a, bs) :: rs
    | [] => [(e.1, [e.2])]) []

/-- The fill tag of a line after a copy's bytes for it (R67): n of its bytes were written. -/
def Copy.tag (cp : Copy) (a : LineAttr) (line n : Nat) : BitVec 4 :=
  match cp.dstSlot with
  | none => 0
  | some y =>
    let tag := BitVec.ofNat 4 (8 + y.h.swz)
    if cp.stored.contains line then 0 else if n = 128 ∨ a.tag = tag then tag else 0

/-- The tag check on the source lines of a copy by handle: the fields of the mismatch (R68). -/
def Core.badTag (k : Core) (cp : Copy) (src : List (Nat × ByteSrc)) : Option (List Word) :=
  match cp.srcSlot with
  | none => none
  | some x =>
    if !cp.srcSp then none
    else
      ((x.h.dataLines x.loc (cellGet k.sp)).find? fun l =>
        (src.any fun e => e.2.addrs.any fun a => a / 128 == l) && !tagAccepts x.h.swz (k.lineAttr l).tag.toNat).map
      fun l => k.tagMore (cp.src % 32) l x.h.swz

/-- Writes one line of a copy, with its tag, gauge and presence; then charges the weir (R67, R184, R233, R296). -/
def State.deliverLine (s : State) (c : Nat) (cp : Copy) (L n glob : Nat) (write : State → State) : State :=
  let ten := (s.core c).tenancy
  let s := write s
  let s := if cp.dstSp then s.modCore c (·.modLine L fun a => { a with tag := cp.tag a L n }) else s
  let s := ((s.charge ten 4 n).charge ten 0 glob).bump c ((s.core c).uidPart cp.uid) 32 n
  let s := s.modCopy c cp.id fun cp => { cp with lines := cp.lines.erase L, moved := cp.moved + n }
  let s := match cp.gauge with | some (o, ph) => s.countGauge c o ph n | none => s
  if cp.dstSp then s.copyArrive c L else s

/-- A copy meets a condition that ends it (R173). -/
def State.failCopy (s : State) (c : Nat) (cp : Copy) (kind : Nat) (more : List Word) : State :=
  s.modCopy c cp.id fun cp => { cp with err := some { kind, arg := wd cp.q, more } }

/-- A page fault holds a copy (R173). -/
def State.holdCopy (s : State) (c : Nat) (cp : Copy) (va : Nat) : State :=
  let (tok, s) := s.engPage c cp.pc va
  s.modCopy c cp.id fun cp => { cp with held := some (va, tok) }

/-- What an engine's read that did not succeed does to a copy. -/
def State.copyStop (s : State) (c : Nat) (cp : Copy) (r : EngRead) : State :=
  match r with
  | .ok _ s | .wait s => s
  | .page va => s.holdCopy c cp va
  | .err k more => s.failCopy c cp k more
  | .rollback info => s.rollback (s.nodeNum c) info
  | .off pa => { s with bad := some pa }

/-- Delivers destination line L of a copy: its source lines are present before their tags are checked (R68, R373). -/
def State.copyLine (s : State) (c : Nat) (cp : Copy) (L : Nat) : State :=
  let ten := (s.core c).tenancy
  let m := cp.lineMap L
  let n := m.length
  let glob := n * (b2n (!cp.srcSp) + b2n (!cp.dstSp))
  if s.weirHolds ten 4 || (decide (0 < glob) && s.weirHolds ten 0) then s
  else
    match s.engGather c cp.uid cp.id cp.srcSp (cutLines (runsOf (m.flatMap fun e => e.2.addrs))) [] with
    | .inl r => s.copyStop c cp r
    | .inr (buf, s) =>
      match (s.core c).badTag cp m with
      | some more => s.failCopy c cp 8 more
      | none =>
      let (seed, s) := s.draw
      let bytes := m.map fun e => (e.1, e.2.value (cellGet buf) seed)
      let runs := byteRuns bytes
      if cp.dstSp then
        s.deliverLine c cp L n glob fun s => s.modCore c fun k => runs.foldl (fun k r => k.spPut r.1 r.2) k
      else
        match s.engCheck c (L * 128 % 2 ^ 57) 1 with
        | .page va => s.holdCopy c cp va
        | .err k more => s.failCopy c cp k more
        | .off pa => { s with bad := some pa }
        | .ok pa attr s =>
          if !s.engReady c pa attr then s
          else
          match s.bindOlder c [cp.uid] cp.id pa 128 with
          | (false, s) => s
          | (true, s) => s.deliverLine c cp L n glob fun s =>
            runs.foldl (fun s r => s.engPut c (pa + r.1 % 128) attr r.2) s

/-! ### Retirement (R173, R184, R188) -/

/-- Whether a copy may retire: the oldest of its thread and class, with every line written or an error (R173). -/
def Core.copyDone (k : Core) (cp : Copy) : Bool :=
  (cp.lines.isEmpty || cp.err.isSome)
    && ((k.copies.find? fun o => o.uid == cp.uid && o.gather == cp.gather).any (·.id == cp.id))

/-- The offset of the gauge a copy counts into. -/
def Copy.gaugeOff (cp : Copy) : Option Nat := cp.gauge.map fun g => g.1

/-- The retirement of a copy tagged to a gauge: SHORT. That a copy of the gauge's phase has retired short is kept as long as
the phase lasts (R188). -/
def State.gaugeRetire (s : State) (c : Nat) (cp : Copy) : State :=
  match cp.gauge with
  | none => s
  | some (o, ph) =>
    let k := s.core c
    let short := cp.err.isSome || k.shorts.contains (o, ph)
    if k.copies.any fun x => x.gauge == some (o, ph) then
      if short && !k.shorts.contains (o, ph) then s.modCore c fun k => { k with shorts := (o, ph) :: k.shorts } else s
    else
      let g := k.gauge o
      let keep (e : Nat × Word) : Bool := e.1 != o || e.2 == g.phase || k.copies.any fun x => x.gauge == some e
      let s := s.modCore c fun k =>
        { k with shorts := (if short && !k.shorts.contains (o, ph) then (o, ph) :: k.shorts else k.shorts).filter keep }
      if short && g.phase == ph && decide (g.arrived.toNat < g.expected.toNat) then
        (s.modCore c (·.setGauge o { g with marks := g.marks ||| 2#8 })).evalGauge c o
      else s

/-- The lines that a short copy did not deliver become present, with their old bytes and tag 0 (R188). -/
def State.undelivered (s : State) (c : Nat) (cp : Copy) : State :=
  if cp.dstSp then
    cp.lines.foldl (fun s l => (s.modCore c (·.modLine l fun a => { a with tag := 0 })).copyArrive c l) s
  else s

/-- The header of a handle copy's destination (R69). -/
def copyHdr (src dst : Hdr) (rows : Nat) : Hdr :=
  { ver := 1, efmt := src.efmt, sfmt := src.sfmt, sblk := src.sblk, sparse := src.sparse, order := dst.order
    swz := dst.swz, fill := 0, rows, cols := src.cols, pitch := dst.pitch, soff := dst.soff, moff := dst.moff, res := 0
    crc := 0 }

def State.putCopyHeader (s : State) (c : Nat) (cp : Copy) : State :=
  match cp.srcSlot, cp.dstSlot with
  | some x, some y =>
    s.modCore c fun k =>
      let bind := match k.slot cp.dstNum with | some v => v.bind | none => y.bind
      let rows := if cp.gather then cp.rows.length else x.h.rows
      k.setSlot cp.dstNum { hdr := (copyHdr x.h y.h rows).image, bind, dirty := true }
  | _, _ => s

/-- A copy or gather retires when it is the oldest of its thread and class and is complete or failed (R173, R184). -/
def State.retireCopy (s : State) (c id : Nat) : State :=
  let k := s.core c
  match k.copies.find? (·.id == id) with
  | none => s
  | some cp =>
    if !k.copyDone cp then s
    else
      let q := if cp.gather then EngClass.ga else .cp
      let s := s.modCore c fun k => { k with copies := k.copies.filter (·.id != id) }
      let s := match cp.err with
        | some e => (s.engError c [cp.uid] q e cp.pc cp.gaugeOff).undelivered c cp
        | none => s.putCopyHeader c cp
      (s.gaugeRetire c cp).engRetire c id [cp.uid] q cp.moved 0 .copy

/-- What follows a copy's last byte at once: its stamp, which waits for no older copy (R184, R236), and its retirement where
no older copy of its thread and class holds it back (notes/assumptions/53). -/
def State.copyEnd (s : State) (c id : Nat) : State :=
  match (s.core c).copies.find? (·.id == id) with
  | none => s
  | some cp =>
    if !cp.lines.isEmpty then s
    else (match cp.stamp with | some o => s.bumpStamp c o | none => s).retireCopy c id

/-- COPY_LINE_ARRIVAL (R233): a copy's bytes for its next destination line are written. -/
def execCopyLineArrival (core id : Nat) (s : State) : Host.Outcome State Fault Refusal :=
  match (s.core core).copies.find? (·.id == id) with
  | none => .next s
  | some cp =>
    match cp.lines with
    | L :: _ => if cp.err.isSome || cp.held.isSome then .next s else .next ((s.copyLine core cp L).copyEnd core id)
    | [] => .next s

/-- COPY_RETIRE (R184): a copy or gather retires, in issue order of its thread and class. -/
def execCopyRetire (core id : Nat) (s : State) : Host.Outcome State Fault Refusal := .next (s.retireCopy core id)

/-! ### Gauges (R187) -/

/-- The access checks of a gauge instruction: alignment, bounds, ownership, presence (R187, R234, R235). -/
def checkGauge (s : State) (c o : Nat) : Except Stop Unit := do
  checkAligned o 16
  checkSpBounds o 16
  checkOwned (s.core c) o 16
  checkPresent (s.core c) o 16
  checkSpPoison (s.core c) o 16

def garmBody (x y : Src) (s : State) (c t : Nat) : Res := do
  let o := (s.src c t x).toNat
  checkGauge s c o
  let g := (s.core c).gauge o
  let g' : Gauge :=
    { expected := s.src c t y, arrived := 0, phase := g.phase + 1, owner := BitVec.ofNat 16 t, marks := 0 }
  .ok ((s.modCore c (·.spStore o g'.bytes)).evalGauge c o, noLatch)

/-- GARM (R187). -/
def execGarm (gp : Option Guard) (x y : Src) (s : State) : Host.Outcome State Fault Refusal :=
  runThreads (.garm gp x y) noPre (garmBody x y) s

def gaddBody (x y : Src) (s : State) (c t : Nat) : Res := do
  let o := (s.src c t x).toNat
  checkGauge s c o
  let g := (s.core c).gauge o
  let e := g.expected + s.src c t y
  let g' := { g with expected := e, marks := if e.toNat < g.arrived.toNat then g.marks ||| 1#8 else g.marks }
  .ok ((s.modCore c (·.spStore o g'.bytes)).evalGauge c o, noLatch)

/-- GADD (R187, R238 item 6). -/
def execGadd (gp : Option Guard) (x y : Src) (s : State) : Host.Outcome State Fault Refusal :=
  runThreads (.gadd gp x y) noPre (gaddBody x y) s

/-- GTST's result (R187). -/
def Gauge.test (g : Gauge) : Nat :=
  b2n (decide (g.expected.toNat ≤ g.arrived.toNat)) + 2 * b2n g.over + 4 * b2n g.short
    + 2 ^ 16 * (g.phase.toNat % 2 ^ 16)

def gtstBody (x : Dst) (y : Src) (s : State) (c t : Nat) : Res := do
  let o := (s.src c t y).toNat
  checkGauge s c o
  .ok (s.dst c t x (wd ((s.core c).gauge o).test), noLatch)

/-- GTST (R187). -/
def execGtst (gp : Option Guard) (x : Dst) (y : Src) (s : State) : Host.Outcome State Fault Refusal :=
  runThreads (.gtst gp x y) noPre (gtstBody x y) s

/-! ### PRCLR (R189) -/

/-- The lines that PRCLR acts on. -/
def prclrLines (o n : Nat) : Except Stop (List Nat) :=
  if o % 128 ≠ 0 ∨ n % 128 ≠ 0 then flt 10 [wd o, 128]
  else if n < 128 ∨ 0x100000 < n ∨ Config.spBytes < o + n then flt 11 [wd o, wd n]
  else .ok ((List.range (n / 128)).map (o / 128 + ·))

def prclrBody (x y : Src) (f : LineAttr → LineAttr) (wake : Bool) (s : State) (c t : Nat) : Res := do
  let ls ← prclrLines (s.src c t x).toNat (s.src c t y).toNat
  let s := s.modCore c fun k => ls.foldl (fun k l => k.modLine l f) k
  .ok (if wake then ls.foldl (fun s l => s.wakePresence c l) s else s, noLatch)

/-- PRCLR (R189): clears the presence bits. -/
def execPrclr (gp : Option Guard) (x y : Src) (s : State) : Host.Outcome State Fault Refusal :=
  runThreads (.prclr gp x y) noPre (prclrBody x y (fun a => { a with pres := false }) false) s

/-- PRCLR.OWN (R189): marks the lines engine-owned. -/
def execPrclrOwn (gp : Option Guard) (x y : Src) (s : State) : Host.Outcome State Fault Refusal :=
  runThreads (.prclrOwn gp x y) noPre (prclrBody x y (fun a => { a with own := true }) false) s

/-- PRCLR.REL (R189): sets presence and clears engine-owned. -/
def execPrclrRel (gp : Option Guard) (x y : Src) (s : State) : Host.Outcome State Fault Refusal :=
  runThreads (.prclrRel gp x y) noPre (prclrBody x y (fun a => { a with pres := true, own := false }) true) s

end Sys2Proof.Machine
end

