-- ==== Sys2Proof/Machine/Dies.lean ====
section
/-! DEFINITION. The steps by which writes and fills pass between the dies (R264, R265, R268). -/

namespace Sys2Proof.Machine

/-- The home slice serves fill k of die e once its clock covers the requester's (R265). -/
def State.serveFill (s : State) (e k : Nat) : State :=
  match (s.die e).fills[k]? with
  | none => s
  | some f =>
    let h := homeDie (f.line * 128)
    if f.served.isSome || !covers (s.vc h) f.clock then s
    else
      let s := s.fillSectors (f.line * 128) 128
      let x := (s.homeLine f.line, s.vc h)
      s.setDie e { s.die e with fills := (s.die e).fills.set k { f with served := some x } }

/-- Die e installs fill k once its clock covers the fill's (R265). -/
def State.arriveFill (s : State) (e k : Nat) : State :=
  match (s.die e).fills[k]? with
  | none => s
  | some f =>
    match f.served with
    | some (g, v) =>
      if covers (s.vc e) v then
        s.installGuest e f.line (f.late.foldl (fun (g : GuestLine) w => g.put w.1 w.2.1 w.2.2) g)
      else s
    | none => s

/-- CAUSAL_DELIVERY: write k of die's inbound buffer is delivered when its clock allows (R264). -/
def execCausalDelivery (die k : Nat) (s : State) : Host.Outcome State Fault Refusal :=
  .next (if die < Config.dies then s.deliver die k else s)

/-- GUEST_FILL: fill k of die is served at its home, and installed once the die's clock covers it (R265). -/
def execGuestFill (die k : Nat) (s : State) : Host.Outcome State Fault Refusal :=
  .next (if die < Config.dies then (s.serveFill die k).arriveFill die k else s)

/-- REPL_FORWARD: forward k is applied at its die's copy (R268). -/
def execReplForward (k : Nat) (s : State) : Host.Outcome State Fault Refusal := .next (s.forward k)

end Sys2Proof.Machine
end

