-- ==== Sys2Proof/Machine/Sys.lean ====
section
/-! DEFINITION. The SYS group (R109..R123, R26, R27, R253, R269, R348, R352). -/

namespace Sys2Proof.Machine

/-! ### NOP, FENCE, WAITC, AWAIT -/

/-- NOP for one thread (R110). -/
def nopBody (s : State) (_ _ : Nat) : Res := .ok (s, noLatch)

/-- FENCE for one thread, once it issues (R110, R253, R269): an acquire of scope .s or wider drops the lines that are
not local; a release records what later stores wait for; a full or release fence of scope .f is past the stores of its
die at their homes (notes/assumptions/51). -/
def fenceBody (k : FenceKind) (sc : Scope) (s : State) (c t : Nat) : Res :=
  let wide := sc != .t && sc != .c
  let s := if k != .rel && wide then s.l1Drop c else s
  let s :=
    if k = .rel ∧ sc ≠ .t then
      s.modThr c t fun th =>
        let late := ((s.core c).lateOf th).map (·.tag) ++ (s.recordsOf c th).map (·.tag)
        { th with relWait :=
            { loads := th.relWait.loads ++ (th.pend.filter fun p => !p.settled).map (·.id)
              late := th.relWait.late ++ late
              repl := th.relWait.repl ++ if sc = .x ∨ sc = .f then th.owing ++ (s.core c).owing ++ late else []
              home := th.relWait.home ++ if sc = .f then late else [] } }
    else s
  .ok (if sc = .f ∧ k ≠ .acq then s.syncHomes (dieOf c) else s, noLatch)

/-- The error mark of a class (R173). -/
def clsCode (k : EngClass) : Nat := match k with | .cp => 0 | .mx => 1 | .ga => 2 | .co => 3

/-- WAITC for one thread, once its counter is at most n (R111): a set error mark traps, and is cleared (R173). -/
def waitcBody (k : EngClass) (s : State) (c t : Nat) : Res :=
  match s.thr? c t with
  | none => .ok (s, noLatch)
  | some th =>
    match tget? th.errs (clsCode k) with
    | some info =>
      let s := s.modThr c t fun th => { th with errs := tdel th.errs (clsCode k) }
      .ok (s.stopAt c t (.trap 0 6 (info.take 4) false), .gone)
    | none => .ok (s, noLatch)

/-- Whether the thread's AWAIT of a kind, offset and target completes on its met mark (R112), whichever AWAIT left the mark
(DESIGN CHOICE, notes/assumptions/69). -/
def Thread.marked (th : Thread) (kind : BitVec 2) (o : Nat) (target : Word) : Bool :=
  th.mark.any fun m => m.kind == kind && m.key == BitVec.ofNat 64 o && m.arg == target

/-- An AWAIT completes; the mark it completed on is cleared (R112). -/
def State.awaited (s : State) (c t : Nat) (kind : BitVec 2) (o : Nat) (target : Word) : State × Done :=
  (s.modThr c t fun th => if th.marked kind o target then { th with mark := none } else th, noLatch)

/-- AWAIT.G for one thread (R112, R173, R188): a failed copy's error comes before the gauge's own marks
(notes/assumptions/25). -/
def awaitGBody (a : Src) (s : State) (c t : Nat) : Res := do
  let o := (s.src c t a).toNat
  checkAligned o 16
  checkSpBounds o 16
  match s.thr? c t with
  | none => .ok (s, noLatch)
  | some th =>
    let g := (s.core c).gauge o
    if th.marked 0 o 0 then .ok (s.awaited c t 0 o 0)
    else
      match th.errs.find? fun e => e.2.getD 4 0 == wd (o + 1) with
      | some e =>
        let s := s.modThr c t fun th => { th with errs := tdel th.errs e.1 }
        .ok (s.stopAt c t (.trap 0 6 (e.2.take 4) false), .gone)
      | none =>
        if g.short then flt 21 [wd o, g.expected, g.arrived]
        else if g.owner.toNat = t ∧ (g.over ∨ g.expected.toNat < g.arrived.toNat) then
          flt 20 [wd o, g.expected, g.arrived]
        else if g.metFor t then .ok (s, noLatch) else .error (.await 0 o 0)

/-- AWAIT.ST for one thread (R112, R239). -/
def awaitStBody (a : Src) (s : State) (c t : Nat) : Res := do
  let v := s.src64 c t a
  let o := v.toNat % 2 ^ 32
  let target := (v >>> 32).setWidth 32
  checkAligned o 8
  checkSpBounds o 8
  match s.thr? c t with
  | none => .ok (s, noLatch)
  | some th =>
    if th.marked 1 o target then .ok (s.awaited c t 1 o target)
    else if !((s.core c).lineAttr (o / 128)).own then flt 13 [wd o]
    else if stampReached (BitVec.ofNat 32 ((s.core c).stamp o)) target then .ok (s, noLatch)
    else .error (.await 1 o target)

/-- AWAIT.PR for one thread (R112, R234): it parks with PRESENCE (notes/assumptions/56). Its bounds fault reports a size of 1
(DESIGN CHOICE, notes/assumptions/69). -/
def awaitPrBody (a : Src) (s : State) (c t : Nat) : Res := do
  let o := (s.src c t a).toNat
  checkSpBounds o 1
  match s.thr? c t with
  | none => .ok (s, noLatch)
  | some th =>
    let l := (s.core c).lineAttr (o / 128)
    if th.marked 2 o 0 then .ok (s.awaited c t 2 o 0)
    else if l.pres then .ok (s, noLatch)
    else if l.pend = 0 then flt 22 [wd o]
    else .error (.await 2 o 0)

/-! ### TRAP, ERET, BKPT -/

/-- TRAP for one thread (R115): the restart PC is the next unit. -/
def trapBody (n : BitVec 7) (_ : State) (_ _ : Nat) : Res := trp 4 [wd n.toNat] true

/-- ERET for one thread (R116). -/
def eretBody (s : State) (c t : Nat) : Res :=
  match s.thr? c t with
  | none => .ok (s, noLatch)
  | some th => .ok (s.setThr c t th.eret, .jump th.epc)

/-- Whether debugging is enabled for the tenancy on a core (R117, R295). -/
def State.debugOn (s : State) (c : Nat) : Bool := bitOf (s.ten (s.core c).tenancy).ctl.toNat 26

/-- BKPT for one thread (R117): completes under a debugger, else the breakpoint trap. -/
def bkptBody (n : BitVec 7) (s : State) (c _ : Nat) : Res :=
  if s.debugOn c then .ok (s, noLatch) else trp 5 [wd n.toNat] true

/-- After a BKPT that a member has executed, the partition halts (R117, R355). -/
def haltAfter (ran : Bool) (o : Host.Outcome State Fault Refusal) : Host.Outcome State Fault Refusal :=
  match o with
  | .next s => .next (if ran then s.haltPart s.cur.core s.cur.part else s)
  | o => o

/-! ### System registers -/

/-- $topo (R290). -/
def State.topo (s : State) (c : Nat) : Nat :=
  match (s.core c).ctx, s.nodeOf c with
  | some x, some nd =>
    let cas := cascadeOf c
    let mask := nd.cores.foldl (fun m k => if cascadeOf k = cas then m.lor (2 ^ (k % 8)) else m) 0
    cas * 2 ^ 24 + mask * 2 ^ 16 + nd.shape * 2 ^ 8 + (nd.gang - 1) * 2 ^ 4 + x.index
  | _, _ => 0

/-- $clock of a thread (R118). -/
def State.clockOf (s : State) (c : Nat) (th : Thread) : Nat := (s.cycle + (s.core c).skew + th.bias) % 2 ^ 64

/-- The sub-nanosecond bits of $time (R26). -/
def State.subNs (s : State) : Nat := s.timeFrac * 2 ^ 16 / 13500

/-- The value of a system register (R26, R114). -/
def State.sysReg (s : State) (c t : Nat) (th : Thread) (r : Nat) : Nat :=
  match r with
  | 0x00 => posLane t
  | 0x01 => t
  | 0x02 => th.item0.toNat
  | 0x03 => th.item1.toNat
  | 0x04 => th.item2.toNat
  | 0x05 => c
  | 0x06 => cascadeOf c
  | 0x07 => dieOf c
  | 0x08 => s.device.toNat
  | 0x09 => (s.core c).tenancy
  | 0x0A => s.clockOf c th
  | 0x0B => s.time.toNat
  | 0x0C => th.tsub.toNat
  | 0x10 => th.win.alloc
  | 0x11 => th.win.wbase
  | 0x12 => th.ocCp
  | 0x13 => th.ocMx
  | 0x14 => th.ocGa
  | 0x15 => th.ocCo
  | 0x18 => (s.ten (s.core c).tenancy).smpctl.toNat
  | 0x19 => s.topo c
  | 0x40 => th.epc.toNat
  | 0x41 => th.ecause.toNat
  | 0x42 => (th.einfo.getD 0 0).toNat
  | 0x43 => (th.einfo.getD 1 0).toNat
  | 0x44 => (th.einfo.getD 2 0).toNat
  | 0x45 => (th.einfo.getD 3 0).toNat
  | 0x46 => th.einst.toNat
  | 0x47 => th.evec.toNat
  | _ => 0

/-- The privilege fault of a frame register outside handler mode (R27). -/
def framePriv (r : BitVec 7) (s : State) (c t : Nat) : Except Stop Unit :=
  if 0x40 ≤ r.toNat ∧ (s.thr? c t).any (!·.handler) then flt 5 [] else .ok ()

/-- $timesub is latched by a read of $time (R26). -/
def State.latchTime (s : State) (c t : Nat) : State :=
  s.modThr c t fun th => { th with tsub := BitVec.ofNat 16 s.subNs }

/-- GETS for one thread (R118). -/
def getsBody (d : Dst) (r : BitVec 7) (s : State) (c t : Nat) : Res :=
  match s.thr? c t with
  | none => .ok (s, noLatch)
  | some th =>
    let v := s.sysReg c t th r.toNat
    let s := if r = 0x0B then s.latchTime c t else s
    putN s c t (sysRegWide r) d v

/-- The checks of SETS (R27, R31, R348): privilege first, then the system-register fault. -/
def setsPre (r : BitVec 7) (a : Src) (s : State) (c t : Nat) : Except Stop Unit := do
  framePriv r s c t
  if r = 0x18 then
    if bitOf (s.ten (s.core c).tenancy).ctl.toNat 25 then
      let v := (s.src c t a).toNat
      if bits v 30 24 ≠ 0 ∨ bits v 19 0 ≠ 0 then flt 4 [] else .ok ()
    else flt 5 []
  else if r = 0x40 ∨ r = 0x47 then .ok ()
  else flt 4 []

/-- The stored value of $smpctl: ilog 11..15 is stored as 10 (R348). -/
def smpStored (v : Word) : Word :=
  if 10 < bits v.toNat 23 20 then (v &&& 0x80000000) ||| 0x00A00000 else v

/-- Cycles of a sampling interval (R348): a stored ilog is at most 10. -/
def smpInterval (ctl : Word) : Nat := 2 ^ (min 10 (bits ctl.toNat 23 20) + 10)

/-- The partitions of a core start a sampling interval that ends at cycle n. -/
def Core.startIntervals (k : Core) (n : Nat) : Core :=
  { k with p0 := { k.p0 with smpNext := n }, p1 := { k.p1 with smpNext := n }
           p2 := { k.p2 with smpNext := n }, p3 := { k.p3 with smpNext := n } }

/-- The cycle at which an interval that starts now ends for a tenancy. -/
def State.intervalEnd (s : State) (ten : Nat) : Nat := s.cycle + smpInterval (s.ten ten).smpctl

/-- $smpctl is written (R348): the partitions of the tenancy's contexts start an interval. -/
def State.setSmpctl (s : State) (ten : Nat) (v : Word) : State :=
  let v := smpStored v
  let s := s.modTen ten fun x => { x with smpctl := v }
  { s with cores := s.cores.map fun e =>
      if e.2.ctx.any (·.ten == ten) then (e.1, e.2.startIntervals (s.intervalEnd ten)) else e }

/-- SETS for one thread (R118). -/
def setsBody (r : BitVec 7) (a : Src) (s : State) (c t : Nat) : Res :=
  let v := s.src c t a
  if r = 0x18 then .ok (s.setSmpctl (s.core c).tenancy v, noLatch)
  else if r = 0x40 then .ok (s.modThr c t fun th => { th with epc := v }, noLatch)
  else .ok (s.modThr c t fun th => { th with evec := v }, noLatch)

/-! ### WIN, WGROW, TAGRD, CNTRD, TIME -/

/-- WIN for one thread (R119). -/
def winBody (m : State → Nat → Nat → Word) (s : State) (c t : Nat) : Res :=
  match s.thr? c t with
  | none => .ok (s, noLatch)
  | some th =>
    let v := (m s c t).toNat
    if v % 8 ≠ 0 ∨ th.win.alloc < v + 8 then flt 1 [m s c t, wd th.win.alloc]
    else .ok (s.setThr c t { th with win := { th.win with wbase := v } }, noLatch)

/-- WGROW for one thread (R120): d is checked against the window after the growth decision. -/
def wgrowBody (d : Dst) (a : Src) (s : State) (c t : Nat) : Res :=
  match s.thr? c t with
  | none => .ok (s, noLatch)
  | some th => do
    let m := (s.src c t a).toNat
    if m < 8 ∨ 256 < m ∨ m % 8 ≠ 0 then flt 19 [wd m]
    else
      let grows := decide (th.win.alloc < m) && s.canGrow c t (m - th.win.alloc) th
      let ok := decide (m ≤ th.win.alloc) || grows
      let s := if grows then s.growTo c t m else s
      let th := (s.thr? c t).getD th
      let ds := [Wr.f d 1]
      checkWindow th.win [] ds
      checkBounds th [] ds
      checkCopy (s.core c) t th (writeEnts th.win ds)
      checkElems (s.core c) th [] ds
      .ok (s.dst c t d (wd (b2n ok)), latch (wd (b2n ok)))

/-- TAGRD for one thread (R121). -/
def tagrdBody (d : Dst) (k : BitVec 7) (s : State) (c t : Nat) : Res :=
  let v : Word := (widthTag (s.reg c t k.toNat)).setWidth 32
  .ok (s.dst c t d v, latch v)

/-- Whether counters are exposed to the tenancy's threads (R122, R295, R352). -/
def State.countsOn (s : State) (c : Nat) : Bool := bitOf (s.ten (s.core c).tenancy).ctl.toNat 24

/-- CNTRD for one thread (R122, R353): events 45..63 read 0. -/
def cntrdBody (d : Dst) (e : BitVec 6) (s : State) (c t : Nat) : Res :=
  let (n, a) := if s.countsOn c ∧ e.toNat < 45 then tget (0, 0) (s.part c (posPart t)).counts e.toNat else (0, 0)
  let v := pair (wd n) (wd a)
  .ok (s.dst64 c t d v, latch64 v)

/-- TIME for one thread (R123). -/
def timeBody (d : Dst) (s : State) (c t : Nat) : Res :=
  let v := BitVec.ofNat 64 (s.time.toNat * 2 ^ 16 + s.subNs)
  .ok ((s.latchTime c t).dst64 c t d v, latch64 v)

/-! ### The instructions -/

/-- NOP (R110). -/
def execNop (g : Guard) (ch : Bool) (s : State) : Host.Outcome State Fault Refusal :=
  runThreads (.nop g ch) noPre nopBody s

/-- FENCE (R110, R253, R269). -/
def execFence (k : FenceKind) (sc : Scope) (g : Guard) (ch : Bool) (s : State) : Host.Outcome State Fault Refusal :=
  runThreads (.fence k sc g ch) noPre (fenceBody k sc) s

/-- WAITC (R111). -/
def execWaitc (k : EngClass) (n : BitVec 7) (g : Guard) (ch : Bool) (s : State) :
    Host.Outcome State Fault Refusal :=
  runThreads (.waitc k n g ch) noPre (waitcBody k) s

/-- AWAIT.G (R112). -/
def execAwaitG (a : Src) (g : Guard) (ch : Bool) (s : State) : Host.Outcome State Fault Refusal :=
  runThreads (.awaitG a g ch) noPre (awaitGBody a) s

/-- AWAIT.ST (R112). -/
def execAwaitSt (a : Src) (g : Guard) (ch : Bool) (s : State) : Host.Outcome State Fault Refusal :=
  runThreads (.awaitSt a g ch) noPre (awaitStBody a) s

/-- AWAIT.PR (R112). -/
def execAwaitPr (a : Src) (g : Guard) (ch : Bool) (s : State) : Host.Outcome State Fault Refusal :=
  runThreads (.awaitPr a g ch) noPre (awaitPrBody a) s

/-- TRAP (R115). -/
def execTrap (n : BitVec 7) (g : Guard) (s : State) : Host.Outcome State Fault Refusal :=
  runThreads (.trap n g) noPre (trapBody n) s

/-- ERET (R116). -/
def execEret (g : Guard) (s : State) : Host.Outcome State Fault Refusal :=
  runThreads (.eret g) handlerOnly eretBody s

/-- GETS (R118, R27). -/
def execGets (d : Dst) (r : BitVec 7) (g : Guard) (ch : Bool) (s : State) : Host.Outcome State Fault Refusal :=
  runThreads (.gets d r g ch) (framePriv r) (getsBody d r) s

/-- SETS (R118, R27). -/
def execSets (r : BitVec 7) (a : Src) (g : Guard) (ch : Bool) (s : State) : Host.Outcome State Fault Refusal :=
  runThreads (.sets r a g ch) (setsPre r a) (setsBody r a) s

/-- WIN, immediate form (R119). -/
def execWin (m8 : BitVec 5) (g : Guard) (ch : Bool) (s : State) : Host.Outcome State Fault Refusal :=
  runThreads (.win m8 g ch) noPre (winBody fun _ _ _ => wd (8 * m8.toNat)) s

/-- WIN, register form (R119). -/
def execWinReg (a : Src) (g : Guard) (ch : Bool) (s : State) : Host.Outcome State Fault Refusal :=
  runThreads (.winReg a g ch) noPre (winBody fun s c t => s.src c t a) s

/-- WGROW (R120). -/
def execWgrow (d : Dst) (a : Src) (g : Guard) (ch : Bool) (s : State) : Host.Outcome State Fault Refusal :=
  runThreads (.wgrow d a g ch) noPre (wgrowBody d a) s

/-- TAGRD (R121). -/
def execTagrd (d : Dst) (k : BitVec 7) (g : Guard) (ch : Bool) (s : State) : Host.Outcome State Fault Refusal :=
  runThreads (.tagrd d k g ch) noPre (tagrdBody d k) s

/-- Whether BKPT completes for a member of the spray. -/
def bkptRuns (n : BitVec 7) (g : Guard) (s : State) : Bool :=
  s.debugOn s.cur.core && s.cur.upset.isNone && s.cur.members.any fun t =>
    match s.thr? s.cur.core t with
    | some th => guardHolds th.win.preds g && (th.stopsAt (.bkpt n g)).isNone
    | none => false

/-- BKPT (R117). -/
def execBkpt (n : BitVec 7) (g : Guard) (s : State) : Host.Outcome State Fault Refusal :=
  haltAfter (bkptRuns n g s) (runThreads (.bkpt n g) noPre (bkptBody n) s)

/-- CNTRD (R122). -/
def execCntrd (d : Dst) (e : BitVec 6) (g : Guard) (ch : Bool) (s : State) : Host.Outcome State Fault Refusal :=
  runThreads (.cntrd d e g ch) noPre (cntrdBody d e) s

/-- TIME (R123). -/
def execTime (d : Dst) (g : Guard) (ch : Bool) (s : State) : Host.Outcome State Fault Refusal :=
  runThreads (.time d g ch) noPre (timeBody d) s

end Sys2Proof.Machine
end

