-- ==== Sys2Proof/Machine/Thr.lean ====
section
/-! DEFINITION. The THG group and what threads come from: spawn bins, templates and stamping, continuations, register
grants and evictions, migration, cross-lane operations (R190..R197, R209, R215, R219..R230, R259, R312). -/

namespace Sys2Proof.Machine

/-! ### New threads (R30, R209) -/

/-- The trap entry of the node on a core (R114, R282). -/
def State.trapEntry (s : State) (c : Nat) : Word := match s.nodeOf c with | some nd => nd.trap | none => 0

/-- A new thread at position pos, with the age of now. -/
def State.newThread (s : State) (c pos : Nat) (pc : Word) (region : BitVec 25) (win : Window) (st : RowState) : State :=
  let evec := s.trapEntry c
  s.modCore c fun k =>
    let th := { Thread.blank k.nextUid pc region win with st, age := s.cycle, readyAt := s.cycle, evec }
    { k.setThr pos th with nextUid := k.nextUid + 1 }

/-! ### Spawn bins (R190, R220) -/

/-- A 57-bit entry. -/
def entryOf (region : BitVec 25) (e : Word) : BitVec 57 := region ++ e

/-- The code region and the PC bits 31:0 of an entry. -/
def entryRegion (e : BitVec 57) : BitVec 25 := BitVec.ofNat 25 (e.toNat / 2 ^ 32)
def entryPc (e : BitVec 57) : Word := BitVec.ofNat 32 e.toNat

/-- The prologue allocation of the context on a core (R190, R221, R284). -/
def State.prologueAlloc (s : State) (c : Nat) : Nat := match s.nodeOf c with | some nd => 8 * (nd.win + 1) | none => 8

/-- A bin launches: its threads are READY at its entry with one ready-time (R220). -/
def State.launchBin (s : State) (c p n : Nat) : State :=
  match tget? (s.part c p).bins n with
  | none => s
  | some b =>
    let s := b.tids.foldl (fun s t =>
      s.modThr c t fun th => { th with st := .ready, age := s.cycle, readyAt := s.cycle }) s
    s.modPart c p fun q => { q with bins := tdel q.bins n }

/-- The partition's bin for an entry, or a free one opened for it (R190). -/
def Part.binFor (q : Part) (entry : BitVec 57) (alloc due : Nat) : Option (Nat × Bin) :=
  match q.bins.find? (·.2.entry == entry) with
  | some e => some e
  | none =>
    let n := tfree q.bins 16 0
    if n < 16 then some (n, { entry, alloc, due, tids := [] }) else none

/-- The lowest lane position of a bin that can be filled (R190): a free slot, entries, and no waiter in the lane. -/
def Core.binLane (k : Core) (p : Nat) (b : Bin) : Option Nat :=
  (List.range Config.lanes).find? fun l =>
    !(b.tids.any fun t => posLane t == l) && (k.freeSlot p l).isSome && decide (b.alloc ≤ k.freeEnts p l)
      && (k.claims p l).isEmpty

/-- Places one thread into a bin of a partition, with a timer; none when no position can be filled (R190, R220). -/
def State.binPlace (s : State) (c p : Nat) (entry : BitVec 57) (alloc : Nat) (item : Word) (timer : Nat) :
    Option State :=
  let k := s.core c
  let due := s.cycle + timer
  match (k.part p).binFor entry alloc due with
  | none => none
  | some (n, b) =>
    match k.binLane p b with
    | none => none
    | some l =>
      let pos := posOf p ((k.freeSlot p l).getD 0) l
      let (seed, s) := s.draw
      let s := s.newThread c pos (entryPc entry) (entryRegion entry) (Window.launch b.alloc (.free seed)) .bin
      let s := s.modThr c pos fun th => { th with item0 := item }
      let b := { b with due := min b.due due, tids := b.tids ++ [pos] }
      let s := s.modPart c p fun q => { q with bins := tset q.bins n b }
      some (if b.tids.length = Config.lanes then (s.launchBin c p n).bump c p 19 1 else s)

/-- Places up to n threads with items from item upward; how many were placed (R190). -/
def State.binPlaceMany (s : State) (c p : Nat) (entry : BitVec 57) (alloc : Nat) (item : Word) (timer : Nat) :
    Nat → Nat × State
  | 0 => (0, s)
  | n + 1 =>
    match s.binPlace c p entry alloc item timer with
    | none => (0, s)
    | some s =>
      let (m, s) := s.binPlaceMany c p entry alloc (item + 1) timer n
      (m + 1, s)

/-- SPAWN for one thread (R190). -/
def spawnBody (d : Dst) (a : Src) (n tmr : Nat) (s : State) (c t : Nat) : Res := do
  let v := s.src64 c t a
  let e := v.setWidth 32
  let b : Word := (v >>> 32).setWidth 32
  if e.toNat % 4 ≠ 0 then flt 25 [e]
  else
    match s.thr? c t with
    | none => .ok (s, noLatch)
    | some th => do
      let (bud, s) ← s.budgetWord c th.region e
      match bud with
      | .wait => .ok (s, .gone)
      | bud =>
        let alloc := match bud with | .some m => m | _ => s.prologueAlloc c
        let (m, s) := s.binPlaceMany c (posPart t) (entryOf th.region e) alloc b (64 * 4 ^ tmr) n
        .ok (s.dst c t d (wd m), noLatch)

/-! ### Continuations (R221) -/

/-- The budget word of an entry that no thread fetches for: none while a line is on its way. Where it cannot be read
there is none (notes/assumptions/14). -/
def State.entryAlloc (s : State) (c : Nat) (entry : BitVec 57) : Option Nat × State :=
  let none' := some (s.prologueAlloc c)
  if (entryPc entry).toNat % 0x10000 = 0 then (none', s)
  else
    let va := regionVa (entryRegion entry) (entryPc entry - 4)
    match s.walkFor (s.core c).tenancy va .fetch with
    | .ok e =>
      match s.readNow c (e.pa va) e.attr 4 with
      | .wait s => (none, s)
      | .bytes bs _ s =>
        (match budgetOf (BitVec.ofNat 32 (ofBytes bs)) with | some n => some n | none => none', s)
    | _ => (none', s)

/-- Tries to place an item; false when there is no room, or its budget word is on its way (R221). -/
def State.tryItem (s : State) (c : Nat) (x : Later) : Bool × State :=
  match s.entryAlloc c x.entry with
  | (none, s) => (false, s)
  | (some alloc, s) =>
    match s.binPlace c x.part x.entry alloc x.item 64 with
    | some s => (true, s)
    | none => (false, s)

/-- Places an item, or appends it to the backlog behind the items that already wait (R221 item 4). -/
def State.placeItem (s : State) (c : Nat) (x : Later) : State :=
  let wait (s : State) : State := s.modCore c fun k => { k with backlog := k.backlog ++ [x] }
  if (s.core c).backlog.isEmpty then
    match s.tryItem c x with
    | (true, s) => s
    | (false, s) => wait s
  else wait s

/-- CONTINUATION_DELIVERY: message k reaches its core (R221). -/
def execContinuationDelivery (k : Nat) (s : State) : Host.Outcome State Fault Refusal :=
  match s.msgs[k]? with
  | some (.continuation core ten entry items join) =>
    let s := { s with msgs := s.msgs.eraseIdx k }
    if (s.core core).ctx.any (·.ten == ten) then
      let xs := (List.range items.length).map fun j => ({ entry, item := items.getD j 0, part := j / 32 % 4 } : Later)
      .next (xs.foldl (fun s x => s.placeItem core x) (s.observe core))
    else .next (s.sendRec ten { plainRec 2 5 [] join with core }).2
  | _ => .next s

/-- The items of the backlog that there is room for, in order. -/
def State.placeBacklog (s : State) (c : Nat) : Nat → State
  | 0 => s
  | fuel + 1 =>
    match (s.core c).backlog with
    | [] => s
    | x :: xs =>
      match s.tryItem c x with
      | (false, s) => s
      | (true, s) => (s.modCore c fun k => { k with backlog := xs }).placeBacklog c fuel

/-- BACKLOG_PLACEMENT (R221 item 4). -/
def execBacklogPlacement (core : Nat) (s : State) : Host.Outcome State Fault Refusal :=
  .next (s.placeBacklog core (s.core core).backlog.length)

/-- BIN_TIMER_LAUNCH (R220): the bin's timer has reached 0. -/
def execBinTimerLaunch (core part bin : Nat) (s : State) : Host.Outcome State Fault Refusal :=
  match tget? (s.part core part).bins bin with
  | some b => .next (if b.due ≤ s.cycle then (s.launchBin core part bin).bump core part 20 1 else s)
  | none => .next s

/-- MERGE_TIMEOUT (R215): the groups at pc that are due are released. -/
def execMergeTimeout (core part : Nat) (pc : Word) (s : State) : Host.Outcome State Fault Refusal :=
  .next (s.mergeRelease core part fun g => g.pc == pc)

/-! ### FREEZE, STAMP, TSTW (R191..R193, R222..R225) -/

/-- The template fault (R203). -/
def tmplFault {α : Type} (cause : Nat) : Except Stop α := flt 24 [wd cause]

/-- Depth of the template a thread's FREEZE would create (R191): 0 for a launch prologue. -/
def Thread.freezeLevel (th : Thread) : Nat :=
  if th.item2 ≠ 0xFFFFFFFF then 3 else if th.item1 ≠ 0xFFFFFFFF then 2 else if th.item0 ≠ 0xFFFFFFFF then 1 else 0

/-- The faults of FREEZE, in order (R191, R224, R284). -/
def freezeFault (s : State) (c : Nat) (th : Thread) : Except Stop Unit :=
  let lv := th.freezeLevel
  let deep : Bool := match s.nodeOf c with
    | some nd => decide (nd.tmpl ≤ lv) || (lv == 0 && nd.flag 2)
    | none => true
  if lv = 3 ∨ deep then tmplFault 1
  else if th.held.isSome ∨ (lv = 0 ∧ (s.core c).ctx.any (·.frozen)) then tmplFault 2
  else if th.busy then tmplFault 3
  else .ok ()

/-- Entries a FREEZE takes by lane (R223): in every lane of every partition at level 0, of its own partition above; in
its own lane the thread's private entries become the template's. -/
def freezeNeeds (t : Nat) (th : Thread) : List (Nat × Nat) :=
  let own := posPart t * 32 + posLane t
  let lanes := if th.freezeLevel = 0 then List.range 128 else (List.range Config.lanes).map (posPart t * 32 + ·)
  let n := if th.freezeLevel = 0 then th.win.alloc else th.win.held
  if n = 0 then [] else (lanes.filter (· != own)).map fun l => (l, n)

/-- Entries of a lane that a FREEZE has been granted (R223). -/
def Core.granted (k : Core) (th : Thread) (lane : Nat) : Nat :=
  sumBy (fun (g : Grant) => if g.uid = th.uid ∧ g.lane = lane then g.n else 0) k.grants

/-- Whether an older waiter of a lane holds what is free there (R226). -/
def Core.heldOlder (k : Core) (t : Nat) (th : Thread) (lane : Nat) : Bool :=
  (k.claims (lane / 32) (lane % 32)).any fun c => c.older { age := th.age, pos := t + 1, need := 0, tmpl := none }

/-- Whether a FREEZE can take n entries of a lane: granted to it before, or free with no older waiter (R223, R226). -/
def Core.laneOpen (k : Core) (t : Nat) (th : Thread) (lane n : Nat) : Bool :=
  decide (n ≤ k.granted th lane)
    || (decide (n ≤ k.granted th lane + k.freeEnts (lane / 32) (lane % 32)) && !k.heldOlder t th lane)

/-- The shortfall of a lane for a FREEZE: what is neither granted nor free; where an older waiter holds what is free, what is
not granted (R223). -/
def Core.shortfall (k : Core) (t : Nat) (th : Thread) (lane n : Nat) : Nat :=
  n - k.granted th lane - (if k.heldOlder t th lane then 0 else k.freeEnts (lane / 32) (lane % 32))

/-- The lowest free template number in 1..31 (R228). -/
def Part.freeTmpl (q : Part) : Option Nat := ((List.range 31).map (· + 1)).find? fun n => (tget? q.tmpls n).isNone

/-- The template that a thread's FREEZE makes, unstamped (R191, R225). -/
def State.template (s : State) (th : Thread) (start : Word) : Template :=
  { level := th.freezeLevel, win := th.win, item0 := th.item0, item1 := th.item1, region := th.region, start
    stores := th.stores, holder := some th.uid, next := 0, total := 0, first := 0, stride := 1, frozen := s.cycle
    evicted := [] }

/-- Items of a core's share: those i with (i − first) mod gang = index (R222). -/
def shareOf (nd : Node) (index : Nat) : Nat := (nd.count.toNat + nd.gang - 1 - index) / nd.gang

/-- The level-0 FREEZE: the template stands in each partition, the prologue ends, and the share is to be stamped
(R191, R222). -/
def State.freezeTop (s : State) (c t : Nat) (th : Thread) (nd : Node) : State :=
  let index := match (s.core c).ctx with | some x => x.index | none => 0
  let total := shareOf nd index
  let x := { s.template th (s.nextPc th) with
    holder := none, total, first := nd.first + BitVec.ofNat 32 index, stride := nd.gang }
  let s := (List.range 4).foldl (fun s p => s.modPart c p fun q => { q with tmpls := tset q.tmpls 0 x }) s
  let s := s.modCore c fun k => { k with ctx := k.ctx.map fun y => { y with frozen := true } }
  let s := s.endThread c t 0
  if total = 0 then s.signal nd.ten else s

/-- A nested FREEZE: the thread goes on with every entry shared (R191). -/
def State.freezeNested (s : State) (c t n : Nat) (th : Thread) : State :=
  let x := s.template th (s.nextPc th)
  let s := s.modPart c (posPart t) fun q => { q with tmpls := tset q.tmpls n x }
  let s := s.modCore c fun k => { k with grants := k.grants.filter (·.uid != th.uid) }
  s.setThr c t { th with win := { th.win with base := .ref n, ents := [] }, held := some n, stores := [] }

/-- FREEZE for one thread (R191, R223). -/
def freezeBody (s : State) (c t : Nat) : Res :=
  match s.thr? c t, s.nodeOf c with
  | some th, some nd => do
    freezeFault s c th
    let k := s.core c
    let own := posPart t * 32 + posLane t
    let lacks := ((freezeNeeds t th).filter fun e => !k.laneOpen t th e.1 e.2).map fun e =>
      (e.1, k.shortfall t th e.1 e.2)
    let num := if th.freezeLevel = 0 then some 0 else (k.part (posPart t)).freeTmpl
    match lacks, num with
    | [], some n =>
      if th.freezeLevel = 0 then .ok (s.freezeTop c t th nd, .gone)
      else .ok (s.freezeNested c t n th, noLatch)
    | _, _ =>
      let ls := if num.isNone then (own, 0) :: lacks else lacks
      let arg := lacks.foldl (fun m e => max m e.2) 0
      .ok ((s.stopAt c t (.grant arg none [])).modThr c t fun th => { th with need := 0, frz := some ls }, .gone)
  | _, _ => tmplFault 1

/-- STAMP for one thread (R192). -/
def stampBody (a : Src) (s : State) (c t : Nat) : Res :=
  match s.thr? c t with
  | none => .ok (s, noLatch)
  | some th =>
    match th.held with
    | none => tmplFault 4
    | some n =>
      let cnt := (s.src c t a).toNat
      if cnt = 0 ∨ 65536 < cnt then tmplFault 5
      else
        let s := s.modPart c (posPart t) fun q =>
          { q with tmpls := tmod q.tmpls n fun x => { x with holder := none, total := cnt, start := s.nextPc th } }
        .ok ((s.setThr c t { th with held := none }).endThread c t 0, .gone)

/-- TSTW for one thread (R193). -/
def tstwBody (v : Nat) (a : Src) (sz : StSz) (sp : Bool) (s : State) (c t : Nat) : Res :=
  match s.thr? c t with
  | none => .ok (s, noLatch)
  | some th => do
    let p := s.src64 c t a
    let base : Word := p.setWidth 32
    let stride : Word := (p >>> 32).setWidth 32
    checkAligned base.toNat (stBytes sz)
    checkAligned stride.toNat (stBytes sz)
    if 8 ≤ th.stores.length then tmplFault 6
    else .ok (s.setThr c t { th with stores := th.stores ++ [{ v, base, stride, sz, sp }] }, noLatch)

/-- The template whose next item a partition stamps (R192, R222): its lane has a free slot, and none of the templates
the item shares is evicted there (R228). -/
def Core.stampNext (k : Core) (p : Nat) : Option (Nat × Template × Nat) :=
  let q := k.part p
  q.tmpls.findSome? fun e =>
    match e.2.nextPlace p with
    | some (p', l) =>
      if p' = p ∧ (k.freeSlot p l).isSome ∧ q.evictedNeed l (.ref e.1) = 0 then some (e.1, e.2, l) else none
    | none => none

/-- The index registers of item j of a template (R20, R192). -/
def Template.items (x : Template) (j : Nat) : Word × Word × Word :=
  match x.level with
  | 0 => (x.first + BitVec.ofNat 32 (j * x.stride), 0xFFFFFFFF, 0xFFFFFFFF)
  | 1 => (x.item0, BitVec.ofNat 32 j, 0xFFFFFFFF)
  | _ => (x.item0, x.item1, BitVec.ofNat 32 j)

/-- Counts one more item of a template as stamped; the four copies of the level-0 template agree. -/
def State.countStamp (s : State) (c p n : Nat) (x : Template) : State :=
  let up (q : Part) : Part := { q with tmpls := tmod q.tmpls n fun y => { y with next := x.next + 1 } }
  if x.level = 0 then (List.range 4).foldl (fun s p => s.modPart c p up) s else s.modPart c p up

/-- ITEM_STAMP (R192, R222): the next item that partition part can take. -/
def execItemStamp (core part : Nat) (s : State) : Host.Outcome State Fault Refusal :=
  let k := s.core core
  match k.stampNext part with
  | none => .next s
  | some (n, x, l) =>
    let pos := posOf part ((k.freeSlot part l).getD 0) l
    let (i0, i1, i2) := x.items x.next
    let s := s.newThread core pos x.start x.region { x.win with base := .ref n, ents := [] } .ready
    let s := s.modThr core pos fun th =>
      { th with item0 := i0, item1 := i1, item2 := i2, tmpl := some n, tsDone := x.stores.isEmpty }
    let s := s.countStamp core part n x
    .next (if x.level = 0 ∧ x.next + 1 = x.total then s.signal k.tenancy else s)

/-- Whether nothing of a partition shares a template any more, or did before it was flattened (R24, R223). -/
def Core.tmplIdle (k : Core) (p n : Nat) : Bool :=
  let q := k.part p
  !(k.threads.any fun e => posPart e.1 == p && ((q.chain entDepth e.2.win.base).contains n || e.2.flat.contains n))
    && !(q.tmpls.any fun e => match e.2.win.base with | .ref m => m == n | _ => false)

/-- Frees the nested templates of a partition whose items have all been stamped and have ended (R223). -/
def Core.freeNested (k : Core) (p : Nat) : Core :=
  let q := k.part p
  let gone := q.tmpls.filter fun e =>
    e.1 != 0 && e.2.holder.isNone && decide (e.2.total ≤ e.2.next) && k.tmplIdle p e.1
  if gone.isEmpty then k
  else k.setPart p { q with tmpls := q.tmpls.filter fun e => !gone.contains e }

/-- Frees the templates of a core that R223 frees. -/
def Core.freeTmpls (k : Core) : Core :=
  let k := (List.range 4).foldl Core.freeNested k
  let k := (List.range 4).foldl Core.freeNested k
  match tget? k.p0.tmpls 0 with
  | none => k
  | some x =>
    if x.total ≤ x.next ∧ (List.range 4).all (k.tmplIdle · 0) then
      (List.range 4).foldl (fun k p => k.setPart p { k.part p with tmpls := tdel (k.part p).tmpls 0 }) k
    else k

/-- Frees templates on every core. -/
def State.freeTmpls (s : State) : State :=
  if s.cores.any fun e => (List.range 4).any fun p => !(e.2.part p).tmpls.isEmpty then
    { s with cores := s.cores.map fun e => (e.1, e.2.freeTmpls) }
  else s

/-! ### Register grants (R226..R228) -/

/-- The oldest waiter of a lane. -/
def Core.oldest (k : Core) (p lane : Nat) : Option Claim := leastBy Claim.older (k.claims p lane)

/-- Templates evicted in a lane come back with their values (R228). -/
def Core.restoreTmpls (k : Core) (p lane : Nat) (b : Base) : Core :=
  let q := k.part p
  let ns := q.chain entDepth b
  let back (e : Nat × Template) : Nat × Template :=
    if ns.contains e.1 then (e.1, { e.2 with evicted := e.2.evicted.filter (· != lane) }) else e
  k.setPart p { q with tmpls := q.tmpls.map back }

/-- The wait entries of a lane's threads after a restoration or an eviction: evicted, and the entries needed, for a FREEZE the
largest of its needs (R223, R227). -/
def Core.markLane (k : Core) (p lane : Nat) : Core :=
  { k with threads := k.threads.map fun e =>
      if posPart e.1 = p ∧ posLane e.1 = lane ∧ e.2.st = .parked then
        let n := k.savedNeed e.1 e.2
        let w := { e.2.wait with evicted := decide (n ≠ 0) }
        let need := match e.2.frz with
          | none => e.2.need + n
          | some ls => (k.frzNeeds e.1 e.2 ls).foldl (fun m x => max m x.2) 0
        (e.1, { e.2 with wait := if e.2.waitsRegs then { w with arg := wd need } else w })
      else e }

/-- Grants a thread the entries it waits for, and wakes it (R226..R228). -/
def State.grantThr (s : State) (c t : Nat) (th : Thread) : State :=
  let p := posPart t
  let lane := posLane t
  let s := s.modCore c fun k => (k.setThr t { th with saved := false }).restoreTmpls p lane th.win.base
  let s := match th.frz with
    | some ls =>
      let gs := ls.map fun (e : Nat × Nat) => ({ uid := th.uid, lane := e.1, n := e.2 } : Grant)
      s.modCore c fun k => { k with grants := k.grants ++ gs }
    | none => s
  let s := s.modCore c (·.ownEnts t th.copyNew)
  let s := match th.grow with | some n => s.growTo c t n | none => s
  let s := s.modThr c t fun th => { th with need := 0, grow := none, copyNew := [], frz := none }
  let s := s.modCore c (·.markLane p lane)
  let s := s.modThr c t fun th => { th with wait := { th.wait with evicted := false } }
  (s.wakeThr c t false).bump c p 17 1

/-- Whether the oldest waiter of a lane can be served now. -/
def Core.canGrant (k : Core) (p lane : Nat) (cl : Claim) : Bool :=
  match cl.tmpl with
  | some _ => decide (cl.need ≤ k.freeEnts p lane)
  | none =>
    match k.thr? (cl.pos - 1) with
    | none => false
    | some th =>
      match th.frz with
      | none => decide (cl.need ≤ k.freeEnts p lane)
      | some ls =>
        let t := cl.pos - 1
        ((k.frzNeeds t th ls).all fun e =>
          (k.oldest (e.1 / 32) (e.1 % 32)).any (·.pos == cl.pos) && decide (e.2 ≤ k.freeEnts (e.1 / 32) (e.1 % 32)))
          && (th.freezeLevel == 0 || (k.part (posPart t)).freeTmpl.isSome)

/-- REGISTER_GRANT (R226): the oldest waiter of the lane is served when its need fits. -/
def execRegisterGrant (core part lane : Nat) (s : State) : Host.Outcome State Fault Refusal :=
  let k := s.core core
  match k.oldest part lane with
  | none => .next s
  | some cl =>
    if !k.canGrant part lane cl then .next s
    else
      match cl.tmpl with
      | some n => .next (s.modCore core fun k => (k.restoreTmpls part lane (.ref n)).markLane part lane)
      | none =>
        match k.thr? (cl.pos - 1) with
        | some th => .next (s.grantThr core (cl.pos - 1) th)
        | none => .next s

/-- Serves the oldest waiter of a lane while its need fits. -/
def State.grantLane (s : State) (c p lane : Nat) : Nat → State
  | 0 => s
  | fuel + 1 =>
    let k := s.core c
    match k.oldest p lane with
    | none => s
    | some cl =>
      if !k.canGrant p lane cl then s
      else
        match execRegisterGrant c p lane s with
        | .next s => s.grantLane c p lane fuel
        | _ => s

/-- After a step: whenever a lane's free entries reach the oldest waiter's need, it is granted at once (R226). -/
def State.grantAll (s : State) : State :=
  let waits (e : Nat × Core) : Bool :=
    s.coreOwned e.1 && !e.2.draining
      && ((e.2.threads.any fun x => x.2.waitsRegs)
        || (List.range 4).any fun p => (e.2.part p).tmpls.any fun x => !x.2.evicted.isEmpty)
  s.cores.foldl (fun s e =>
    if waits e then
      (List.range 128).foldl (fun s j => s.grantLane e.1 (j / 32) (j % 32) 64) s
    else s) s

/-- The bytes of a backing-store slot (R312): 256 words of values, 64 bytes of width tags, a count word. Words of
entries that are not saved keep what memory holds. -/
def State.backSlot (s : State) (pa : Nat) (w : Window) : State :=
  let own := (List.range 256).filter fun i => decide (i < w.alloc) && w.isOwn i
  let val (i : Nat) : Word := match w.ent i with | .own v => v | .poisoned v => v | .ref _ => 0
  let s := own.foldl (fun s i => s.physWrite (pa + 4 * i) (toBytes 4 (val i).toNat)) s
  let tags := (List.range 64).map fun b => BitVec.ofNat 8
    (sumBy (fun j => if own.contains (4 * b + j) then (widthTag (val (4 * b + j))).toNat * 4 ^ j else 0) (List.range 4))
  s.physWrite (pa + 1024) (tags ++ toBytes 4 own.length)

/-- A core's area of the register backing store (R312). -/
def State.backArea (s : State) (c : Nat) : Nat :=
  bits (s.ten (s.core c).tenancy).back.toNat 51 24 * 2 ^ 24 + c * 2 ^ 24

/-- Whether a thread's private entries can be evicted (R227, R240): parked for a reason other than HALT, some private, no
copy and no ACCST of its own outstanding. -/
def Core.evictable (k : Core) (th : Thread) : Bool :=
  th.st == .parked && th.wait.reason != 1 && !th.saved && th.win.held != 0
    && !(k.copies.any fun x => x.uid == th.uid) && !(k.mxq.any fun o => o.kind == .accst && o.uids.contains th.uid)

/-- The youngest candidate of a lane, other than the waiter (R227). -/
def Core.evictThread (k : Core) (p lane : Nat) (cl : Claim) : Option (Nat × Thread) :=
  leastBy (fun a b => older b a) (k.threads.filter fun e =>
    posPart e.1 == p && posLane e.1 == lane && k.evictable e.2 && e.1 + 1 != cl.pos)

/-- The templates the oldest waiter shares (R228). -/
def Core.claimChain (k : Core) (p : Nat) (cl : Claim) : List Nat :=
  match cl.tmpl with
  | some n => (k.part p).chain entDepth (.ref n)
  | none => match k.thr? (cl.pos - 1) with | some th => (k.part p).chain entDepth th.win.base | none => []

/-- The most recently frozen template of a lane that can be evicted (R228). -/
def Core.evictTmpl (k : Core) (p lane : Nat) (cl : Claim) : Option (Nat × Template) :=
  let q := k.part p
  let mine := k.claimChain p cl
  leastBy (fun a b => decide (b.2.frozen < a.2.frozen) || (a.2.frozen == b.2.frozen && decide (b.1 < a.1)))
    (q.tmpls.filter fun e =>
      !e.2.evicted.contains lane && e.2.win.held != 0 && !mine.contains e.1
        && k.threads.all fun x => posPart x.1 != p || posLane x.1 != lane
            || !(q.chain entDepth x.2.win.base).contains e.1 || (x.2.st == .parked && x.2.wait.reason != 1))

/-- Whether a partition has a thread that can still run: READY, in a spray or HELD (R227). -/
def Core.partRuns (k : Core) (p : Nat) : Bool :=
  k.threads.any fun e => posPart e.1 == p && match e.2.st with | .ready | .held | .spray _ => true | _ => false

/-- Whether a backing-store slot lies in memory; an eviction into one that does not is delayed (R312, notes/assumptions/9). -/
def slotMapped (pa : Nat) : Bool := decide (pa + 2048 ≤ Config.memBytes)

/-- REGISTER_EVICTION (R227, R228, R312): one eviction for the oldest waiter of the lane, which cannot be served. -/
def execRegisterEviction (core part lane : Nat) (s : State) : Host.Outcome State Fault Refusal :=
  let k := s.core core
  match k.oldest part lane with
  | none => .next s
  | some cl =>
    if k.partRuns part ∨ cl.need ≤ k.freeEnts part lane then .next s
    else
      match k.evictThread part lane cl with
      | some (t, th) =>
        let pa := s.backArea core + 2048 * t
        if !slotMapped pa then .next s
        else
          let s := s.backSlot pa th.win
          let w := if th.wait.reason = 3 then { th.wait with met := th.mark.isSome } else th.wait
          let s := s.modCore core fun k => (k.setThr t { th with saved := true, wait := w }).markLane part lane
          .next (s.bump core part 18 1)
      | none =>
        match k.evictTmpl part lane cl with
        | none => .next s
        | some (n, x) =>
          let pa := s.backArea core + 2 ^ 23 + 2048 * (1024 * part + 32 * n + lane)
          if !slotMapped pa then .next s
          else
            let s := s.backSlot pa x.win
            let s := s.modPart core part fun q =>
              { q with tmpls := tset q.tmpls n { x with evicted := lane :: x.evicted } }
            .next ((s.modCore core (·.markLane part lane)).bump core part 18 1)

/-! ### EXIT, YIELD (R194) -/

/-- EXIT for one thread (R194). -/
def exitBody (s : State) (c t : Nat) : Res := .ok (s.endThread c t 0, .gone)

/-- YIELD for one thread: the round waits for the other threads that are READY now (R194). -/
def yieldBody (s : State) (c t : Nat) : Res :=
  let us := ((s.core c).threads.filter fun e => posPart e.1 == posPart t && e.1 != t && e.2.st == .ready).map (·.2.uid)
  .ok (s.modThr c t fun th => { th with yround := if us.isEmpty then none else some us }, noLatch)

/-- YIELD.REG for one thread (R120, R194, R226). -/
def yieldRegBody (a : Src) (s : State) (c t : Nat) : Res :=
  match s.thr? c t with
  | none => .ok (s, noLatch)
  | some th =>
    let m := (s.src c t a).toNat
    if m < 8 ∨ 256 < m ∨ m % 8 ≠ 0 then flt 19 [wd m]
    else if m ≤ th.win.alloc then .ok (s, noLatch)
    else if s.canGrow c t (m - th.win.alloc) th then .ok (s.growTo c t m, noLatch)
    else .error (.grant (m - th.win.alloc) (some m) [])

/-! ### MIGR (R195, R229) -/

/-- A window with every shared entry flattened into the thread's own value (R24, R195). -/
def Core.flatten (k : Core) (t : Nat) (th : Thread) : Window :=
  { th.win with
    base := .zero
    ents := (List.range th.win.alloc).map fun i =>
      let (v, p) := entValue (k.part (posPart t)) entDepth th.win i
      (i, if p then .poisoned v else .own v) }

/-- The lowest partition of a core with a free slot and entries for every participant (R229). -/
def Core.migrPart (k : Core) (ths : List (Nat × Thread)) : Option Nat :=
  (List.range 4).find? fun p => ths.all fun e =>
    (k.freeSlot p (posLane e.1)).isSome && decide (e.2.win.alloc ≤ k.freeEnts p (posLane e.1))

/-- The status of a MIGR (R195, R317). -/
def State.migrStatus (s : State) (c dst : Nat) (ths : List (Nat × Thread)) : Nat :=
  if ths.any fun e => e.2.busy || e.2.bracket.isSome then 1
  else if !((s.nodeOf c).any fun nd => nd.cores.contains dst) then 2
  else if (s.core dst).draining ∨ ((s.core dst).migrPart ths).isNone then 3
  else 0

/-- Reserves the positions of migrating threads on the target; until the message arrives they stand there and in their own
(R195, R317). -/
def State.migrReserve (s : State) (c dst p : Nat) (l : List (Nat × Thread)) : List Nat × State :=
  l.foldl (fun (acc : List Nat × State) e =>
    let (ps, s) := acc
    let (t, th) := e
    let k := s.core dst
    let pos := posOf p ((k.freeSlot p (posLane t)).getD 0) (posLane t)
    let pc := s.nextPc th
    let th' := { th with
      uid := k.nextUid, st := .bin, pc, head := pc, lats := [], win := (s.core c).flatten t th
      bias := s.clockOf c th, wait := Wait.reset, pend := [], retry := 0, prog := none, yround := none, rrChain := 0
      mark := none, acqWait := [], flat := []
      rrCount := th.rrCount + th.rrChain + 1, rrIndex := if th.rrStop then th.rrIndex else th.rrIndex + 1
      released := false }
    let s := s.modCore dst fun k => { k.setThr pos th' with nextUid := k.nextUid + 1 }
    (ps ++ [pos], s.modThr c t fun th => { th with st := .bin })) ([], s)

/-- MIGR for the participants (R195, R259): those that hold an unstamped template fault; the others move as one, after the
invalidation of a `fence.d`. -/
def migrBody (d : Dst) (a : Src) (s : State) (c : Nat) (ps : List Nat) : Except Stop (State × (Nat → Done)) :=
  let holds (t : Nat) : Bool := match s.thr? c t with | some th => th.held.isSome | none => false
  let bad := ps.filter holds
  let ps := ps.filter fun t => !holds t
  let s := bad.foldl (fun s t => s.stopAt c t (.trap 1 24 [2] false)) s
  if ps.isEmpty then .ok (s, fun _ => .gone)
  else
    let s := s.l1Drop c
    let dst := (s.src c (lead ps) a).toNat
    let ths := ps.filterMap fun t => (s.thr? c t).map fun th => (t, th)
    match s.migrStatus c dst ths, (s.core dst).migrPart ths with
    | 0, some p =>
      if s.trafficHeld (s.core c).tenancy .migr then .error .hold
      else
      let (pos, s) := (s.sendControl (s.core c).tenancy .migr).migrReserve c dst p ths
      .ok ({ s with msgs := s.msgs ++ [.migr c dst d (ths.map (·.1)) pos] }, fun _ => .gone)
    | st, _ =>
      let s := ps.foldl (fun s t => s.dst c t d (wd st)) s
      .ok (s, fun t => if bad.contains t then .gone else noLatch)

/-- A migrating thread arrives with status 0: it leaves its position on the source; on the target it is READY with a new
age and its clock bias (R118, R195, R229). -/
def State.migrPlace (s : State) (src dst : Nat) (d : Dst) (e : Nat × Nat) : State :=
  let now := s.cycle + (s.core dst).skew
  match s.thr? dst e.2 with
  | none => s
  | some th =>
    if th.st ≠ .bin then s
    else
      let s := s.modCore src fun k =>
        let k := match k.thr? e.1 with | some th => k.countRetry th | none => k
        { k with threads := tdel k.threads e.1 }
      (s.setThr dst e.2 { th with st := .ready, age := s.cycle, readyAt := s.cycle, bias := th.bias - now }).dst dst e.2 d 0

/-- A migrating thread that the target refuses goes on at its source, behind the MIGR, with status 3 (R195, R317). -/
def State.migrReturn (s : State) (src dst : Nat) (d : Dst) (e : Nat × Nat) : State :=
  match s.thr? dst e.2, s.thr? src e.1 with
  | some th', some th =>
    let s := s.modCore dst fun k => { k with threads := tdel k.threads e.2 }
    let s := s.setThr src e.1 { th with rrIndex := th'.rrIndex }
    let s := s.dst src e.1 d 3
    match s.thr? src e.1 with
    | some th => s.chainEnd src e.1 th th'.pc
    | none => s
  | _, _ => s

/-- MIGR_ARRIVAL: message k arrives (R118, R195, R229); the core drops its L1 lines that are not local (R259) and its
translations (R304). A core on which GO has been written refuses the threads (R317). -/
def execMigrArrival (k : Nat) (s : State) : Host.Outcome State Fault Refusal :=
  match s.msgs[k]? with
  | some (.migr src dst d froms pos) =>
    let s := { s with msgs := s.msgs.eraseIdx k }
    if (s.core dst).draining then .next ((froms.zip pos).foldl (fun s e => s.migrReturn src dst d e) s)
    else
      let s := (s.l1Drop dst).modCore dst fun k => { k with tlb := [], lastPage := [] }
      .next ((froms.zip pos).foldl (fun s e => s.migrPlace src dst d e) s)
  | _ => .next s

/-! ### MERGE and the cross-lane operations (R196, R197) -/

/-- MERGE, once its group is released: no effect (R196). -/
def mergeBody (s : State) (_ : Nat) (_ : List Nat) : Except Stop (State × (Nat → Done)) := goOn s

/-- Writes each participant's result. -/
def crossPut (d : Dst) (f : Nat → Word) (s : State) (c : Nat) (ps : List Nat) : Except Stop (State × (Nat → Done)) :=
  goOn (ps.foldl (fun s t => s.dst c t d (f t)) s)

/-- ELECT (R197): 1 in the lowest lane. -/
def electBody (d : Dst) (s : State) (c : Nat) (ps : List Nat) : Except Stop (State × (Nat → Done)) :=
  crossPut d (fun t => if t = lead ps then 1 else 0) s c ps

/-- BALLOT (R197): bit j is set where lane j takes part and its operand is not 0. -/
def ballotBody (d : Dst) (a : Src) (s : State) (c : Nat) (ps : List Nat) : Except Stop (State × (Nat → Done)) :=
  let v := sumBy (fun t => if s.src c t a = 0 then 0 else 2 ^ posLane t) ps
  crossPut d (fun _ => wd v) s c ps

/-- The source lane of SHFL for own lane l (R197); none below lane 0. -/
def shflLane (k : ShflKind) (l n : Nat) : Option Nat :=
  match k with
  | .idx => some n
  | .up => if n ≤ l then some (l - n) else none
  | .down => some (l + n)
  | .xor => some (l.xor n)

/-- SHFL (R197): n is the field h, or bits 4:0 of the fourth operand as read in the thread. -/
def shflBody (e : Option Src) (d : Dst) (a : Src) (n : Nat) (k : ShflKind) (s : State) (c : Nat) (ps : List Nat) :
    Except Stop (State × (Nat → Done)) :=
  let val (t : Nat) : Word :=
    let m := match e with | some x => (s.src c t x).toNat % 32 | none => n
    match shflLane k (posLane t) m with
    | some l => match ps.find? fun u => posLane u == l with | some u => s.src c u a | none => s.src c t a
    | none => s.src c t a
  crossPut d val s c ps

/-- One step of a REDX reduction (R197). -/
def redOp (o : RedOp) (x y : Word) : Word :=
  match o with
  | .add => x + y
  | .min => if x.toInt ≤ y.toInt then x else y
  | .max => if x.toInt ≤ y.toInt then y else x
  | .and => x &&& y
  | .or => x ||| y
  | .xor => x ^^^ y
  | .fadd => wd (fpVal3 fp32 0 (rndOf none) x.toNat y.toNat 0)

/-- A REDX reduction over the operands in ascending lane order; fadd starts from +0 (R197). -/
def reduce (o : RedOp) (l : List Word) : Word :=
  match o, l with
  | .fadd, l => l.foldl (redOp .fadd) 0
  | _, [] => 0
  | o, x :: l => l.foldl (redOp o) x

/-- REDX (R197). -/
def redxBody (d : Dst) (a : Src) (o : RedOp) (s : State) (c : Nat) (ps : List Nat) :
    Except Stop (State × (Nat → Done)) :=
  let v := reduce o (ps.map fun t => s.src c t a)
  crossPut d (fun _ => v) s c ps

/-! ### The instructions -/

/-- SPAWN (R190). -/
def execSpawn (gp : Option Guard) (x : Dst) (y : Src) (n : BitVec 5) (tm : BitVec 2) (s : State) :
    Host.Outcome State Fault Refusal :=
  runThreads (.spawn gp x y n tm) noPre (spawnBody x y (n.toNat + 1) tm.toNat) s

/-- FREEZE (R191, R222..R225). -/
def execFreeze (gp : Option Guard) (s : State) : Host.Outcome State Fault Refusal :=
  runThreads (.freeze gp) noPre freezeBody s

/-- STAMP (R192). -/
def execStamp (gp : Option Guard) (x : Src) (s : State) : Host.Outcome State Fault Refusal :=
  runThreads (.stamp gp x) noPre (stampBody x) s

/-- TSTW (R193). -/
def execTstw (gp : Option Guard) (x : BitVec 7) (y : Src) (sz : StSz) (sp : Bool) (s : State) :
    Host.Outcome State Fault Refusal :=
  runThreads (.tstw gp x y sz sp) noPre (tstwBody x.toNat y sz sp) s

/-- EXIT (R194). -/
def execExit (gp : Option Guard) (s : State) : Host.Outcome State Fault Refusal :=
  runThreads (.exit gp) noPre exitBody s

/-- YIELD (R194). -/
def execYield (gp : Option Guard) (s : State) : Host.Outcome State Fault Refusal :=
  runThreads (.yield gp) noPre yieldBody s

/-- YIELD.REG (R194). -/
def execYieldReg (gp : Option Guard) (x : Src) (s : State) : Host.Outcome State Fault Refusal :=
  runThreads (.yieldReg gp x) noPre (yieldRegBody x) s

/-- MIGR (R195). -/
def execMigr (gp : Option Guard) (x : Dst) (y : Src) (s : State) : Host.Outcome State Fault Refusal :=
  runSpray (.migr gp x y) noPre (migrBody x y) s

/-- MERGE (R196). -/
def execMerge (gp : Option Guard) (s : State) : Host.Outcome State Fault Refusal :=
  runSpray (.merge gp) noPre mergeBody s

/-- ELECT (R197). -/
def execElect (gp : Option Guard) (x : Dst) (s : State) : Host.Outcome State Fault Refusal :=
  runSpray (.elect gp x) noPre (electBody x) s

/-- BALLOT (R197). -/
def execBallot (gp : Option Guard) (x : Dst) (y : Src) (s : State) : Host.Outcome State Fault Refusal :=
  runSpray (.ballot gp x y) noPre (ballotBody x y) s

/-- SHFL (R197). -/
def execShfl (e : Option Src) (gp : Option Guard) (x : Dst) (y : Src) (n : BitVec 5) (k : ShflKind) (s : State) :
    Host.Outcome State Fault Refusal :=
  runSpray (.shfl e gp x y n k) noPre (shflBody e x y n.toNat k) s

/-- REDX (R197). -/
def execRedx (gp : Option Guard) (x : Dst) (y : Src) (o : RedOp) (s : State) : Host.Outcome State Fault Refusal :=
  runSpray (.redx gp x y o) noPre (redxBody x y o) s

end Sys2Proof.Machine
end

