-- ==== Sys2Proof/Machine/Net.lean ====
section
/-! DEFINITION. The NXG group and the interfaces it works through: catch rings, NEXT, fabric writes, PXPUSH, LAUNCH, the
sluice (R198..R203, R270, R273, R321..R325, R339). -/

namespace Sys2Proof.Machine

/-- The network fault (R203). -/
def netFault {α : Type} (cause arg : Nat) : Except Stop α := flt 26 [wd cause, wd arg]

/-- The replay-operation fault of an operation in a replayable node (R168, R201, R339). -/
def noReplay (s : State) (c arg minor : Nat) : Except Stop Unit :=
  if s.replayable c then flt 16 [wd arg, wd minor, 0] else .ok ()

/-- Bytes of a table of the tenancy, as its translation gives them; none where it gives none (R321, R323). -/
def State.tableBytes (s : State) (ten va n : Nat) : Option (List Byte) :=
  match s.walkFor ten va .load with
  | .ok e => some (s.memRead (e.pa va) n)
  | _ => none

/-! ### Collective operations (R173, R201) -/

def State.modColl (s : State) (c id : Nat) (f : Coll → Coll) : State :=
  s.modCore c fun k => { k with colls := k.colls.map fun x => if x.id = id then f x else x }

def Core.coll (k : Core) (id : Nat) : Option Coll := k.colls.find? (·.id == id)

/-- A collective operation issues for the thread at position t (R25, R173). -/
def State.issueColl (s : State) (c t : Nat) (th : Thread) (op : CoOp) (gauge : Option (Nat × Word)) : State :=
  let id := (s.core c).nextOp + 1
  let x : Coll := { id, uid := th.uid, tid := t, pc := th.pc, inst := s.cur.word, op, gauge, done := false
                    err := none, held := none }
  let s := s.modCore c fun k => { k with nextOp := id, colls := k.colls ++ [x] }
  if x.counts then s.engIssue c t id .co .co else s

/-- The first collective operation that can retire: finished, and the oldest of its thread (R173). -/
def Core.collDone (k : Core) : Option Coll :=
  k.colls.find? fun x => x.counts && (x.done || x.err.isSome)
    && (k.colls.find? fun y => y.uid == x.uid && y.counts).any (·.id == x.id)

/-- Retires the collective operations that can retire. -/
def State.retireColls (s : State) (c : Nat) : Nat → State
  | 0 => s
  | fuel + 1 =>
    match (s.core c).collDone with
    | none => s
    | some x =>
      let s := s.modCore c fun k => { k with colls := k.colls.filter (·.id != x.id) }
      let s := match x.err with
        | some e => s.engError c [x.uid] .co e x.pc (x.gauge.map fun (g : Nat × Word) => g.1)
        | none => s
      (s.engRetire c x.id [x.uid] .co 0 0 .co).retireColls c fuel

/-- The effect of a collective operation is complete. -/
def State.finishColl (s : State) (c id : Nat) : State :=
  (s.modColl c id fun x => { x with done := true }).retireColls c 256

/-- A collective operation meets a condition that ends it (R173); arg is its offset. -/
def State.failColl (s : State) (c id kind arg : Nat) (more : List Word) : State :=
  (s.modColl c id fun x => { x with err := some { kind, arg := wd arg, more } }).retireColls c 256

/-- A page fault holds a collective operation (R173). -/
def State.holdColl (s : State) (c : Nat) (x : Coll) (va : Nat) : State :=
  let (tok, s) := s.engPage c x.pc va
  s.modColl c x.id fun x => { x with held := some (va, tok) }

/-- What an engine's read that did not succeed does to a collective operation. -/
def State.collStop (s : State) (c : Nat) (x : Coll) (arg : Nat) (r : EngRead) : State :=
  match r with
  | .ok _ s | .wait s => s
  | .page va => s.holdColl c x va
  | .err k more => s.failColl c x.id k arg more
  | .rollback info => s.rollback (s.nodeNum c) info
  | .off pa => { s with bad := some pa }

/-! ### Catch rings (R198, R199, R321, R322) -/

/-- The gang index of the context on a core. -/
def Core.index (k : Core) : Nat := match k.ctx with | some x => x.index | none => 0

/-- The core of a gang index of the node on core c. -/
def State.gangCore (s : State) (c i : Nat) : Nat := match s.nodeOf c with | some nd => nd.cores.getD i c | none => c

/-- A field of a control block (R322). -/
def Core.ringField (k : Core) (cb o : Nat) : Word := BitVec.ofNat 32 (ofBytes (k.spRead (cb + o) 4))

def Core.ringPut (k : Core) (cb o : Nat) (v : Word) : Core := k.spPut (cb + o) (toBytes 4 v.toNat)

/-- The ring bound to a control block of the receiving core. -/
def Core.ringAt (k : Core) (cb : Nat) : Option Ring := k.rings.find? fun r => r.cb == cb && r.receiver == k.index

/-- Whether a tail has reached a mark (R199). -/
def pastMark (tail mark : Word) : Bool := decide ((tail - mark).toNat < 2 ^ 31)

/-- An armed ring of core c whose tail has reached its mark is disarmed and spawns one thread, by the arm in force there; the
thread finds the payload appended before that tail (R199, R259, R273, R329). -/
def State.ringFire (s : State) (c : Nat) (r : Ring) : State :=
  let k := s.core c
  let flags := cellGet k.sp (r.cb + 22)
  let tail := k.ringField r.cb 12
  if flags.getLsbD 0 ∧ pastMark tail (k.ringField r.cb 16) then
    let s := s.modCore c fun k => k.spPut (r.cb + 22) [flags &&& 0xFE#8]
    let entry := match k.ringAt r.cb with | some x => x.armEntry | none => r.armEntry
    (s.observe c).placeItem c { entry, item := tail, part := 0 }
  else s

/-- SEND for one thread (R198). -/
def sendBody (d : Dst) (y : Src) (tc : Nat) (s : State) (c t : Nat) : Res := do
  let v := (s.src64 c t y).toNat
  let o := v % 2 ^ 32
  let len := v / 2 ^ 32 % 2 ^ 16
  let h := v / 2 ^ 48
  checkSpBounds o len
  noReplay s c o 0
  if o % 16 ≠ 0 ∨ len % 16 ≠ 0 ∨ len < 16 ∨ 4096 < len then netFault 2 o
  else
    match tget? (s.core c).credits h, s.thr? c t with
    | none, _ => netFault 1 h
    | _, none => .ok (s, noLatch)
    | some cr, some th =>
      if cr < len then .ok (s.dst c t d 0, noLatch)
      else
        let s := s.modCore c fun k => { k with credits := tset k.credits h (cr - len) }
        let s := s.issueColl c t th (.send o len h tc []) none
        .ok (s.dst c t d (wd len), noLatch)

/-- The message is appended: the payload, then the tail (R322). -/
def State.ringAppend (s : State) (dst : Nat) (r : Ring) (bs : List Byte) : State :=
  let tail := (s.core dst).ringField r.cb 12
  let s := s.modCore dst fun k => (List.range bs.length).foldl (fun k j =>
    k.spPut (r.base + (tail.toNat + j) % r.size) [bs.getD j 0]) k
  let s := s.modCore dst fun k => k.ringPut r.cb 12 (tail + BitVec.ofNat 32 bs.length)
  s.ringFire dst r

/-- Whether an older SEND on the same handle has not been appended yet (R198). -/
def Core.sendBehind (k : Core) (x : Coll) (h : Nat) : Bool :=
  (k.colls.takeWhile (·.id != x.id)).any fun y =>
    !y.done && y.err.isNone && match y.op with | .send _ _ g _ _ => g == h | _ => false

/-- SEND_APPEND (R198, R322): the next beat of the payload is read and sent; after the last the message is appended. -/
def execSendAppend (core id : Nat) (s : State) : Host.Outcome State Fault Refusal :=
  let k := s.core core
  match k.coll id with
  | none => .next s
  | some x =>
    match x.op with
    | .send o len h tc payload =>
      let bulk := Traffic.bulk (tc + 2)
      if x.done ∨ x.err.isSome ∨ k.sendBehind x h ∨ s.trafficHeld k.tenancy bulk then .next s
      else
        let n := min (len - payload.length) (128 - (o + payload.length) % 128)
        match s.engSpLoad core (o + payload.length) n with
        | .ok bs s =>
          let s := s.sendBytes k.tenancy bulk n
          let payload := payload ++ bs
          if payload.length < len then .next (s.modColl core id fun x => { x with op := .send o len h tc payload })
          else
            match k.rings.find? fun r => r.handle == h && r.sender == k.index with
            | some r => .next ((s.ringAppend (s.gangCore core r.receiver) r payload).finishColl core id)
            | none => .next (s.finishColl core id)
        | r => .next (s.collStop core x o r)
    | _ => .next s

/-- RACK for one thread (R199). -/
def rackBody (x y : Src) (s : State) (c t : Nat) : Res := do
  let cb := (s.src c t x).toNat
  let n := (s.src c t y).toNat
  checkAligned cb 32
  let k := s.core c
  match k.ringAt cb with
  | none => netFault 1 cb
  | some r =>
    let head := k.ringField cb 8
    let tail := k.ringField cb 12
    if n % 16 ≠ 0 ∨ (tail - head).toNat < n then netFault 3 cb
    else
      let s := s.modCore c (·.ringPut cb 8 (head + BitVec.ofNat 32 n))
      .ok ({ s with msgs := s.msgs ++ [.credit (s.gangCore c r.sender) r.handle n] }, noLatch)

/-- RARM for one thread (R199). -/
def rarmBody (x y : Src) (s : State) (c t : Nat) : Res := do
  let cb := (s.src c t x).toNat
  let v := s.src64 c t y
  let e : Word := v.setWidth 32
  checkAligned cb 32
  match (s.core c).ringAt cb, s.thr? c t with
  | none, _ => netFault 1 cb
  | _, none => .ok (s, noLatch)
  | some r, some th =>
    if e.toNat % 4 ≠ 0 then flt 25 [e]
    else
      let r := { r with armEntry := entryOf th.region e }
      let s := s.modCore c fun k =>
        let k := k.ringPut cb 16 ((v >>> 32).setWidth 32)
        { k.spPut (cb + 22) [cellGet k.sp (cb + 22) ||| 1#8] with
          rings := k.rings.map fun q => if q.cb = cb ∧ q.receiver = r.receiver then r else q }
      .ok (s.ringFire c r, noLatch)

/-- CREDIT_RETURN: message k reaches the sender (R199), when the weir lets its tenancy's control traffic go (R296, R318). -/
def execCreditReturn (k : Nat) (s : State) : Host.Outcome State Fault Refusal :=
  match s.msgs[k]? with
  | some (.credit core handle n) =>
    let ten := (s.core core).tenancy
    if s.trafficHeld ten .credit then .next s
    else
      let s := { s with msgs := s.msgs.eraseIdx k }.sendControl ten .credit
      .next (s.modCore core fun x => { x with credits := tmod x.credits handle (· + n) })
  | _ => .next s

/-! ### NEXT (R201) -/

/-- NEXT for one thread (R160, R201, R204): the line of its slot is absent until the item is written (R233). -/
def nextBody (x y : Src) (s : State) (c t : Nat) : Res := do
  let d := (s.src c t x).toNat
  let v := s.src64 c t y
  let o := v.toNat % 2 ^ 32
  checkAligned d 256
  checkSpBounds o 16
  if o % 16 ≠ 0 ∨ ((s.core c).lineAttr (o / 128)).own = false then flt 13 [wd o]
  else
    let va := s.regionAddr c t d
    replayStop s c t d va .helped 4 <|
      hobThen c t d (s.hobject (s.agent c t) va) fun (_, _, ob, s) =>
        if obKind ob = 0 ∨ 5 < obKind ob then flt 15 [4, wd d, 0]
        else if opListed (obKind ob) 1 = false then flt 15 [5, wd d, 0]
        else if bitOf (obFlags ob) 0 then flt 15 [3, wd d, wd (obPcode ob)]
        else
          match s.thr? c t with
          | none => .ok (s, noLatch)
          | some th =>
            if (s.core c).lineFull [o / 128] then .error .hold
            else
              let (key, s) := (s.modCore c (·.copyIssue [o / 128])).draw
              .ok (s.issueColl c t th (.next o va ((v >>> 32).setWidth 32) none key) none, noLatch)

/-- The item word of a NEXT (R201). -/
def nextItem (v : Nat) (lim : Word) : Word := if v < lim.toNat then wd v else 0xFFFFFFFF

/-- A NEXT retires with an error: its slot keeps its bytes and becomes present (R173, R233). -/
def State.failNext (s : State) (c id o kind : Nat) (more : List Word) : State :=
  (s.copyArrive c (o / 128)).failColl c id kind o more

/-- NEXT_APPLY (R201): the ADD on the dispenser, then the item, then the stamp. -/
def execNextApply (core id : Nat) (s : State) : Host.Outcome State Fault Refusal :=
  match (s.core core).coll id with
  | none => .next s
  | some x =>
    match x.op with
    | .next o obj lim none key =>
      if x.done ∨ x.err.isSome ∨ x.held.isSome then .next s
      else
        match s.ownOp { ten := (s.core core).tenancy, die := dieOf core, core := some core, pos := none } (.next key) obj 1 1 with
        | .ok (_, v, _, s) =>
          let it := nextItem v lim
          let s := s.modColl core id fun x => { x with op := .next o obj lim (some it) key }
          let s := s.modCore core (·.spPut (o + 8) (toBytes 4 it.toNat))
          .next (((s.copyArrive core (o / 128)).bumpStamp core o).finishColl core id)
        | .error (.page va, s) => .next (s.holdColl core x va)
        | .error (.wait, s) => .next s
        | .error (.off pa, s) => .next { s with bad := some pa }
        | .error (.access va k, s) => .next (s.failNext core id o 12 (accessMore va k))
        | .error (.poison va, s) => .next (s.failNext core id o 29 ((poisonInfo va).drop 1))
        | .error (.fault cause pcode, s) => .next (s.failNext core id o 15 [wd cause, wd pcode])
    | _ => .next s

/-- The ADDs of NEXTs whose context is gone are applied, as soon as they can be (R201, R205). -/
def State.orphanPump (s : State) : State :=
  s.orphans.foldl (fun s e =>
    let (ten, c, key, obj) := e
    let gone (s : State) : State := { s with orphans := s.orphans.erase e }
    match s.ownOp { ten, die := dieOf c, core := none, pos := none } (.next key) obj 1 1 with
    | .ok (_, _, _, s) => gone s
    | .error (.page _, _) => s
    | .error (.wait, s) => s
    | .error (.off pa, s) => { gone s with bad := some pa }
    | .error (_, s) => gone s) s

/-! ### FABW (R202, R270, R325) -/

/-- The first cause of a copy-request fault of an FABW (R183, R202, R203). -/
def fabwCause (k : Core) (r : Req) : Option Nat :=
  (firstFault
    [(bits r.ctl 15 6 != 0 || r.ds || r.sh || r.dh || (r.goff != 0 && !r.ga) || (r.aux0 != 0 && !r.st)
        || bits r.aux1 13 0 != 0, 1, 0),
     (r.len == 0 || decide (0x100000 < r.len), 2, 0),
     (badRange r.src r.len r.ss false || badRange r.dst r.len false false
        || (r.ga && (decide (Config.spBytes < r.goff + 16) || (k.lineAttr (r.goff / 128)).own))
        || (r.st && (r.aux0 % 8 != 0 || decide (Config.spBytes < r.aux0 + 8))), 3, 0)]).map (·.1)

/-- FABW for one thread (R202, R204). -/
def fabwBody (x : Src) (tc : Nat) (s : State) (c t : Nat) : Res := do
  let q := (s.src c t x).toNat
  let r ← readReq s c q
  noReplay s c q 6
  match fabwCause (s.core c) r, s.thr? c t with
  | some k, _ => flt 23 [wd q, wd k]
  | none, none => .ok (s, noLatch)
  | none, some th =>
    let gauge := if r.ga then some (r.goff, ((s.core c).gauge r.goff).phase) else none
    let stamp := if r.st then some r.aux0 else none
    let op := CoOp.fabw q r.src r.dst r.len r.ss (bits r.aux1 31 22) (bits r.aux1 21 14) stamp tc 0 []
    .ok (s.issueColl c t th op gauge, noLatch)

/-- Sends the next beat of an FABW: at most the rest of a line of its source; the stamp goes with the last beat (R202,
R296). -/
def State.fabwSend (s : State) (c : Nat) (x : Coll) : State :=
  match x.op with
  | .fabw q src dst len ss dev core stamp tc sent beats =>
    let ten := (s.core c).tenancy
    let bulk := Traffic.bulk (tc + 2)
    if len ≤ sent ∨ x.err.isSome ∨ x.held.isSome ∨ s.trafficHeld ten bulk then s
    else
      let n := min (len - sent) (128 - (src + sent) % 128)
      match (if ss then s.engSpLoad c (src + sent) n else s.engLoad c [x.uid] x.id (src + sent) n) with
      | .ok bs s =>
        let s := s.sendBytes ten bulk n
        let st := if sent + n = len then stamp else none
        let toTen := bits (s.ten ten).peer.toNat 19 16
        let s := s.modColl c x.id fun x =>
          { x with op := .fabw q src dst len ss dev core stamp tc (sent + n) (beats ++ [n]) }
        if dev = s.device.toNat then
          { s with msgs := s.msgs ++ [.fabw dev c x.id ten toTen core (dst + sent) bs st] }
        else s.drive (.fabw dev (tc + 2) c x.id ten toTen core (dst + sent) bs st)
      | r => s.collStop c x q r
  | _ => s

/-- The FABW operations of every core send what they can. -/
def State.fabwPump (s : State) : State :=
  if s.cores.any fun e => !e.2.colls.isEmpty then
    s.cores.foldl (fun s e => if s.coreOwned e.1 then e.2.colls.foldl (fun s x => s.fabwSend e.1 x) s else s) s
  else s

/-- The acknowledgement of the oldest write of an FABW that is not acknowledged (R202): its bytes count into the gauge;
the last one retires the operation; a refusal is an error, network cause 5 REFUSED (R325). -/
def State.fabwAcked (s : State) (c id : Nat) (refused : Bool) : State :=
  match (s.core c).coll id with
  | none => s
  | some x =>
    match x.op with
    | .fabw q src dst len ss dev core stamp tc sent (n :: beats) =>
      if x.err.isSome then s
      else if refused then s.failColl c id 26 q [5]
      else
        let s := s.modColl c id fun x => { x with op := .fabw q src dst len ss dev core stamp tc sent beats }
        let s := match x.gauge with | some (o, ph) => s.countGauge c o ph n | none => s
        if sent = len ∧ beats.isEmpty then s.finishColl c id else s
    | _ => s

/-- FABW_ACK (R202). -/
def execFabwAck (core id : Nat) (refused : Bool) (s : State) : Host.Outcome State Fault Refusal :=
  .next (s.fabwAcked core id refused)

/-- Whether a tenancy takes writes from tenancy t of other devices (R325). -/
def State.accepts (s : State) (ten t : Nat) : Bool := bitOf (s.ten ten).peer.toNat t

/-- The threads of the listed cores owe a REPL write that they may observe until every die has applied it (R268, R273). -/
def State.owe (s : State) (cores : List Nat) (attr : BitVec 2) (tag : Nat) : State :=
  if attr = 2 then cores.foldl (fun s c => s.modCore c fun k => { k with owing := tag :: k.owing }) s else s

/-- Applies bytes at the home slice of each of their lines, as stores of the home dies (R270); cores: where threads can
observe them (R273). -/
def State.homeWrite (s : State) (cores : List Nat) (pa : Nat) (attr : BitVec 2) (bytes : List Byte) : State :=
  ((linePieces (bytes.length / 128 + 2) pa bytes.length).foldl (fun (acc : State × List Byte) p =>
    let (tag, s) := acc.1.draw
    ((((s.fillSectors p.1 p.2).dieStore (homeDie p.1) p.1 attr (acc.2.take p.2) tag).owe cores attr tag),
      acc.2.drop p.2)) (s, bytes)).1

/-- The pieces of n bytes at a virtual address within 64 KiB pages. -/
def pagePieces : Nat → Nat → Nat → List (Nat × Nat)
  | 0, _, _ => []
  | fuel + 1, va, n =>
    if n = 0 then []
    else
      let k := min n (2 ^ 16 - va % 2 ^ 16)
      (va, k) :: pagePieces fuel (va + k) (n - k)

/-- Translates every piece of a range: physical addresses and attributes, or how the first that fails ends. -/
def State.walkAll (s : State) (ten : Nat) (acc : Acc) : List (Nat × Nat) → Walk ⊕ List (Nat × BitVec 2 × Nat)
  | [] => .inr []
  | (va, n) :: l =>
    match s.walkFor ten va acc with
    | .ok e =>
      match s.walkAll ten acc l with
      | .inr r => .inr ((e.pa va, e.attr, n) :: r)
      | .inl w => .inl w
    | w => .inl w

/-- Writes bytes to translated pieces. -/
def State.putPieces (s : State) (cores : List Nat) : List (Nat × BitVec 2 × Nat) → List Byte → State
  | [], _ => s
  | (pa, attr, n) :: l, bs => (s.homeWrite cores pa attr (bs.take n)).putPieces cores l (bs.drop n)

/-- Whether a stamp on a core can be incremented for a tenancy. -/
def State.stampOk (s : State) (ten core : Nat) (stamp : Option Nat) : Bool :=
  stamp.isNone || (s.core core).ctx.any (·.ten == ten)

/-- Whether an earlier beat of the same FABW than message k is still on its way: its stamp waits for it (R270). -/
def State.beatsBefore (s : State) (k fromDev fromCore id : Nat) : Bool :=
  (s.msgs.take k).any fun m => match m with | .fabw d c i .. => d == fromDev && c == fromCore && i == id | _ => false

/-- FABW_WRITE_ARRIVAL: the fabric write of message k is applied at home, then its stamp, once the earlier beats have
been applied, and acknowledged; an operation with a refused write increments no stamp (R202, R270, R325). The
acknowledgement is held and charged as control traffic (R296, R318). -/
def execFabwWriteArrival (k : Nat) (s0 : State) : Host.Outcome State Fault Refusal :=
  match s0.msgs[k]? with
  | some (.fabw fromDev fromCore id fromTen ten core va bytes stamp) =>
    let s := { s0 with msgs := s0.msgs.eraseIdx k }
    let ack (s : State) (refused : Bool) : State :=
      if fromDev = s.device.toNat then s.fabwAcked fromCore id refused
      else s.drive (.fabwAck fromDev fromCore id refused)
    let op := (fromDev, fromCore, id)
    let deny (s : State) : State := ack { s with refused := op :: s.refused.filter (· != op) } true
    let refuse := !s.accepts ten fromTen || !s.stampOk ten core stamp
    if s.trafficHeld ten .ack ∨ (stamp.isSome ∧ s.beatsBefore k fromDev fromCore id) then .next s0
    else
    let s := s.sendControl ten .ack
    if refuse then .next (deny s)
    else
      match s.walkAll ten .store (pagePieces 4 va bytes.length) with
      | .inr ps =>
        let s := s.putPieces (core :: if fromDev = s.device.toNat then [fromCore] else []) ps bytes
        let s := match stamp with
          | some o =>
            if s.refused.contains op then { s with refused := s.refused.filter (· != op) }
            else (s.observe core).bumpStamp core o
          | none => s
        .next (ack (if fromDev = s.device.toNat then s.observe fromCore else s) false)
      | .inl _ => .next (deny s)
  | _ => .next s0

/-! ### PXPUSH and LAUNCH (R200) -/

/-- A sluice table entry (R323). -/
structure Sluice where
  shadow : Nat
  trueQ  : Nat
  device : Nat
  ctl    : Nat
  batch  : Nat
  stamp  : Nat
  core   : Nat
deriving DecidableEq, Repr

def Sluice.enabled (x : Sluice) : Bool := bitOf x.ctl 7

/-- The address of entry n of the tenancy's sluice table (R323). -/
def State.sluiceVa (s : State) (ten n : Nat) : Nat := bits (s.ten ten).sluice.toNat 56 8 * 256 + 32 * n

/-- A read of the tenancy's sluice table and queue table makes their controllers correct them (R336). -/
def State.tablesFill (s : State) (ten : Nat) : State :=
  (List.range 16).foldl (fun s n => s.viewFill ten (s.sluiceVa ten n) 32)
    (s.viewFill ten (bits (s.ten ten).qtab.toNat 56 0) 1024)

/-- Entry n of the tenancy's sluice table (R323). -/
def State.sluiceEntry (s : State) (ten n : Nat) : Option Sluice :=
  let r := (s.ten ten).sluice.toNat
  if bits r 4 0 ≤ n ∨ 16 ≤ n then none
  else
    (s.tableBytes ten (s.sluiceVa ten n) 32).map fun b =>
      { shadow := fieldAt b 0 8, trueQ := fieldAt b 8 8, device := fieldAt b 16 2, ctl := fieldAt b 18 1
        batch := fieldAt b 19 1, stamp := fieldAt b 20 4, core := fieldAt b 24 1 }

/-- A sluice entry before it has drained anything. -/
def SluiceSt.fresh : SluiceSt :=
  { unsent := [], sent := 0, inFlight := false, retryAt := none, disabled := false, held := none }

def State.modSluice (s : State) (ten n : Nat) (f : SluiceSt → SluiceSt) : State :=
  s.modTen ten fun x => { x with sluices := tset x.sluices n (f (tget .fresh x.sluices n)) }

def State.sluiceSt (s : State) (ten n : Nat) : SluiceSt := tget .fresh (s.ten ten).sluices n

/-- Whether a QUEUE is bound as a sluice shadow: by an entry that is enabled, and that no refusal has disabled (R200, R323,
R325). -/
def State.isShadow (s : State) (ten va : Nat) : Bool :=
  (List.range 16).any fun n =>
    !(s.sluiceSt ten n).disabled && (s.sluiceEntry ten n).any fun x => x.enabled && x.shadow == va

/-- Whether a QUEUE is registered as a launch queue (R200, R286). -/
def State.isLaunchQueue (s : State) (ten va : Nat) : Bool :=
  let q := bits (s.ten ten).qtab.toNat 56 0
  (List.range 64).any fun n => (s.tableBytes ten (q + 16 * n) 16).any fun b =>
    fieldAt b 0 8 == va && va != 0 && bitOf (fieldAt b 8 1) 7

/-- The conditions of a push on its record (R200): PUSH on a QUEUE that is bound or registered, and for LAUNCH a launch
record's address. -/
def pushFault (s : State) (ten ea : Nat) (launch : Bool) (r ob : List Byte) : Except Stop Unit :=
  let obj := fieldAt r 8 8
  if obKind ob ≠ 3 then flt 15 [4, wd ea, 0]
  else if fieldAt r 1 1 ≠ 1 then flt 15 [5, wd ea, 0]
  else if launch then
    if s.isLaunchQueue ten obj ∧ fieldAt r 16 8 % 128 = 0 then .ok () else netFault 4 ea
  else if s.isShadow ten obj then .ok () else netFault 1 ea

/-- The push of the unit at a thread's PC that has been announced and has not returned yet. -/
def Core.pushOf (k : Core) (th : Thread) (va : Nat) : Option Coll :=
  k.colls.find? fun x => x.uid == th.uid && x.pc == th.pc && !x.counts
    && match x.op with | .pxpush _ _ r _ _ => r == va | _ => false

/-- A push that has returned OK counts from now on until the sluice has applied its element (R200, R324). -/
def Coll.count (x : Coll) : Coll :=
  match x.op with | .pxpush l sh r idx _ => { x with op := .pxpush l sh r idx true } | _ => x

/-- The end of a push: d takes the record's status, and it acts as HRUN's end does (R162, R200, R258). An OK push of
PXPUSH counts; where the sluice has already applied its element, it retires at once. -/
def pushEnd (launch : Bool) (d : Dst) (id status : Nat) (s : State) (c t : Nat) : Res :=
  let s :=
    if launch ∨ status ≠ 0 then s.modCore c fun k => { k with colls := k.colls.filter (·.id != id) }
    else (((s.modColl c id Coll.count).engIssue c t id .co .co)).retireColls c 256
  .ok (((s.hobDone c 32).acquire c t).dst c t d (wd status), noLatch)

/-- Continues a push with the result of a step, or stops it; where the step waits, the push stays as p says (R165, R200). -/
def pushThen {α : Type} (c t : Nat) (d : Dst) (p : Prog) (r : HRes α) (f : α → Res) : Res :=
  match r with
  | .ok a => f a
  | .error (.wait, s) => s.progStay c t d p
  | .error e => hobStop c t e p.ea

/-- One pass of a push's run for its object and ticket (R162, R200). -/
def pushPass (launch : Bool) (d : Dst) (ea va id obj tick : Nat) (s : State) (c t : Nat) : Res :=
  let ag := s.agent c t
  let p : Prog := { phase := 1, count := 0, obj, tick, ea }
  pushThen c t d p (s.runPass ag obj tick) fun (done, n, s) =>
    let s := (s.countHob c t n).bump c (posPart t) 39 1
    if done then
      pushThen c t d p (s.hrecord ag va .load none) fun (_, _, r, s) => pushEnd launch d id (fieldAt r 2 1) s c t
    else s.progStay c t d p

/-- PXPUSH or LAUNCH in a replayable node: the push enters the record in the node's commit list (R166, R200). -/
def pushDefer (launch : Bool) (d : Dst) (ea va : Nat) (s : State) (c t : Nat) : Res :=
  let ag := s.agent c t
  hobThen c t ea (do let (rp, _, s) ← s.hxlate ag va .helped; s.nodeRead c va rp 32) fun (r, s) =>
    let obj := fieldAt r 8 8 % 2 ^ 57
    hobThen c t ea (do let (pa, _, s) ← s.hxlate ag obj .helped; s.nodeRead c obj pa 256) fun (ob, s) => do
      let s := s.tablesFill ag.ten
      pushFault s ag.ten ea launch r ob
      let s := s.modNode (s.nodeNum c) fun nd => { nd with commits := nd.commits ++ [va] }
      .ok ((s.hobDone c 32).dst c t d 0xFFFFFFFF, noLatch)

/-- The announcement of a push. Where the ring is full it helps and announces again; where the ring is full then too, it
returns FULL with nothing announced (R200, notes/assumptions/61). -/
def pushAnnounce (launch again : Bool) (d : Dst) (ea va : Nat) (th : Thread) (s : State) (c t : Nat) : Res :=
  let ag := s.agent c t
  let wait (n obj : Nat) : Prog := { phase := if again then 3 else 0, count := n, obj, tick := 0, ea }
  pushThen c t d (wait 0 0) (s.hrecord ag va .helped none) fun (_, _, r, s) =>
    let obj := fieldAt r 8 8
    if 2 ^ 57 ≤ obj ∨ obj % 256 ≠ 0 then flt 15 [8, wd ea, 0]
    else
      pushThen c t d (wait 0 0) (s.hobject ag obj) fun (_, _, ob, s) => do
        let s := s.tablesFill ag.ten
        pushFault s ag.ten ea launch r ob
        pushThen c t d (wait 0 0) (s.announce ag va) fun (v, s) =>
          let s := s.countHob c t 1
          if v ≠ 0 then
            (s.issueColl c t th (.pxpush launch obj va none false) none).progStay c t d
              { phase := 1, count := 0, obj, tick := v, ea }
          else if again then .ok (((s.hobDone c 32).acquire c t).dst c t d 1, noLatch)
          else s.progStay c t d { phase := 2, count := 0, obj, tick := 0, ea }

/-- One step of PXPUSH or LAUNCH for one thread (R200), with its record at ea (va): an announcement, one of at most 16
applications while the ring is full, or a pass of the run. Between its steps it is in phase 0 before its announcement, 1 in
its run, 2 while it helps, 3 before its second announcement, 4 before its run goes on after a pre-emption. -/
def pushStep (launch : Bool) (d : Dst) (ea va : Nat) (th : Thread) (s : State) (c t : Nat) : Res :=
  let ag := s.agent c t
  match (s.core c).pushOf th va, th.prog with
  | some x, some p =>
    if p.phase = 1 then pushPass launch d ea va x.id p.obj p.tick s c t else resumePush x.id
  | some x, none => resumePush x.id
  | none, some p =>
    if p.phase = 0 then pushAnnounce launch false d ea va th s c t
    else if p.count = 16 ∨ p.phase = 3 then pushAnnounce launch true d ea va th s c t
    else
      pushThen c t d p (s.applyStep ag p.obj) fun (m, s) =>
        let s := s.countHob c t m
        if m = 0 then pushAnnounce launch true d ea va th s c t
        else s.progStay c t d { p with count := p.count + 1 }
  | none, none =>
    if s.replayable c then pushDefer launch d ea va s c t else pushAnnounce launch false d ea va th s c t
where
  resumePush (id : Nat) : Res :=
    let p : Prog := { phase := 4, count := 0, obj := 0, tick := 0, ea }
    pushThen c t d p (s.runStart (s.agent c t) va) fun (r, s) =>
      match r with
      | some (obj, tick) => pushPass launch d ea va id obj tick s c t
      | none =>
        pushThen c t d p (s.hrecord (s.agent c t) va .load none) fun (_, _, r, s) =>
          pushEnd launch d id (fieldAt r 2 1) s c t

/-- PXPUSH or LAUNCH for one thread (R200): between its steps it holds its thread, and reads its operand no more. -/
def pushBody (launch : Bool) (d : Dst) (y : Src) (s : State) (c t : Nat) : Res := do
  let (ea, va) ← match (s.thr? c t).bind (·.prog) with
    | some p => .ok (p.ea, s.regionAddr c t p.ea)
    | none => s.hobAddr c t y 32
  match s.thr? c t with
  | none => .ok (s, noLatch)
  | some th => pushStep launch d ea va th s c t

/-! ### The sluice (R323..R325) -/

/-- A sluice entry is disabled by a refusal, with its record of class 2 kind 3 (R325). -/
def State.sluiceOff (s : State) (ten n cause : Nat) : State :=
  let s := (s.sendRec ten (plainRec 2 3 [3, 26, 0, wd cause] 0)).2
  s.modSluice ten n fun x => { x with disabled := true, inFlight := false }

/-- Sends the elements that have been popped and not applied as one batch, beat by beat of 16 elements; where the weir holds
a beat, the rest goes on later (R296, R324). -/
def State.sluiceSend (s : State) (ten n : Nat) (x : Sluice) : Nat → State
  | 0 => s
  | fuel + 1 =>
    let st := s.sluiceSt ten n
    let left := st.unsent.length - st.sent
    let bulk := Traffic.bulk (x.ctl % 4 + 2)
    if 0 < left ∧ s.trafficHeld ten bulk then
      s.modSluice ten n fun y => { y with retryAt := some s.time.toNat }
    else if 16 < left then
      ((s.sendBytes ten bulk 128).modSluice ten n fun y => { y with sent := y.sent + 16 }).sluiceSend ten n x fuel
    else
      let elems := st.unsent.map (·.2)
      let stamp := if x.stamp = 0xFFFFFFFF then none else some x.stamp
      let toTen := bits (s.ten ten).peer.toNat 19 16
      let s := (s.sendBytes ten bulk (8 * left)).modSluice ten n fun y =>
        { y with inFlight := true, retryAt := none, sent := 0 }
      if x.device = s.device.toNat then
        { s with msgs := s.msgs ++ [.batch x.device ten n toTen x.core x.trueQ elems stamp 0] }
      else s.drive (.batch x.device (x.ctl % 4 + 2) ten n toTen x.core x.trueQ elems stamp)

/-- Pops one element of a shadow, with its place, helping first (R324). -/
def State.sluicePop (s : State) (ag : Agent) (n va : Nat) : HRes (Option (Nat × DWord) × State) := do
  let key := OwnKey.sluice ag.ten n va
  let s ← if s.own.any (·.key == key) then .ok s
    else do
      let (_, _, ob, s) ← s.hobject ag va
      if obPending ob = 0 then .ok s else s.helpAll ag va 17
  let (_, _, ob, s) ← s.hobject ag va
  if s.own.any (·.key == key) = false ∧ obKind ob ≠ 3 then .error (.fault 4 0, s)
  else if s.own.any (·.key == key) = false ∧ fieldAt ob 200 8 = fieldAt ob 192 8 then .ok (none, s)
  else
    let (status, v, head, s) ← s.ownOp ag key va 2 0
    .ok (if status = 0 then some (head, BitVec.ofNat 64 v) else none, s)

/-- Pops up to m elements into the batch to be sent; whether it was stopped. -/
def State.sluiceFill (s : State) (ag : Agent) (ten n va : Nat) : Nat → State
  | 0 => s
  | m + 1 =>
    match s.sluicePop ag n va with
    | .ok (some e, s) => (s.modSluice ten n fun y => { y with unsent := y.unsent ++ [e] }).sluiceFill ag ten n va m
    | .ok (none, s) => s
    | .error (.page a, s) =>
      let (tok, s) := s.sendRec ten (plainRec 2 2 [] a)
      s.modSluice ten n fun y => { y with held := some (a, tok) }
    | .error (.off pa, s) => { s with bad := some pa }
    | .error (.wait, s) => s
    | .error (_, s) => s.sluiceOff ten n 0

/-- SLUICE_DRAIN (R324): pops a batch of entry n's shadow and sends it. -/
def execSluiceDrain (ten n : Nat) (s : State) : Host.Outcome State Fault Refusal :=
  let s := s.viewFill ten (s.sluiceVa ten n) 32
  let st := s.sluiceSt ten n
  match s.sluiceEntry ten n with
  | none => .next s
  | some x =>
    if !x.enabled || st.disabled || st.inFlight || st.held.isSome || !st.unsent.isEmpty then .next s
    else
      match s.walkFor ten x.shadow .helped with
      | .ok e =>
        let ag : Agent := { ten, die := homeDie (e.pa x.shadow), core := none, pos := none }
        let s := s.sluiceFill ag ten n x.shadow (min 64 (max 1 x.batch))
        .next (if (s.sluiceSt ten n).unsent.isEmpty then s else s.sluiceSend ten n x 8)
      | .page =>
        let (tok, s) := s.sendRec ten (plainRec 2 2 [] x.shadow)
        .next (s.modSluice ten n fun y => { y with held := some (x.shadow, tok) })
      | .off pa => .next { s with bad := some pa }
      | .access _ => .next (s.sluiceOff ten n 0)

/-- SLUICE_RETRY (R324): after 1 µs the elements that a FULL push stopped are sent again; so are those of a batch that the
weir held, and of an entry enabled again after a refusal (R298, R325). -/
def execSluiceRetry (ten n : Nat) (s : State) : Host.Outcome State Fault Refusal :=
  let s := s.viewFill ten (s.sluiceVa ten n) 32
  let st := s.sluiceSt ten n
  match s.sluiceEntry ten n, st.retryAt with
  | some x, some at_ =>
    if at_ ≤ s.time.toNat ∧ !st.inFlight ∧ !st.disabled ∧ !st.unsent.isEmpty then
      .next (s.sluiceSend ten n x 8)
    else .next s
  | _, _ => .next s

/-- Whether a collective operation is the push of the element at place i of a shadow. -/
def Coll.pushes (x : Coll) (shadow i : Nat) : Bool :=
  match x.op with | .pxpush _ sh _ (some j) _ => sh == shadow && j == i | _ => false

/-- The PXPUSH whose element stood at place i of a shadow is complete, also where its context is saved (R313, R324). -/
def State.pushApplied (s : State) (ten shadow i : Nat) : State :=
  let s := s.cores.foldl (fun s e =>
    if e.2.ctx.any (·.ten == ten) then
      match e.2.colls.find? (·.pushes shadow i) with
      | some x => s.finishColl e.1 x.id
      | none => s
    else s) s
  { s with saves := s.saves.map fun v =>
      if v.core.ctx.any (·.ten == ten) then
        { v with core := { v.core with colls := v.core.colls.map fun x => if x.pushes shadow i then { x with done := true } else x } }
      else v }

/-- What became of a batch reaches its sluice (R324, R325). -/
def State.batchDone (s : State) (ten n m : Nat) (full refused : Bool) : State :=
  let st := s.sluiceSt ten n
  let gone := st.unsent.take m
  let s := s.modSluice ten n fun y =>
    { y with unsent := y.unsent.drop m, inFlight := false
             retryAt := if full then some (s.time.toNat + 1000) else if refused then some s.time.toNat else none }
  let s := match s.sluiceEntry ten n with
    | some x => gone.foldl (fun s e => s.pushApplied ten x.shadow e.1) s
    | none => s
  if refused then s.sluiceOff ten n 5 else s

/-- Answers a batch. -/
def State.batchAnswer (s : State) (dev ten n m : Nat) (full refused : Bool) : State :=
  if dev = s.device.toNat then s.batchDone ten n m full refused
  else s.drive (.applied dev ten n m full refused)

/-- Applies the elements of a batch in order from number i: one PUSH each, then the stamp (R324). Answers how many are
applied, whether a PUSH found the queue full, a refusal, or none where it must wait. Each step is held and charged as control
traffic (R296, R318). -/
def State.batchApply (s : State) (ag : Agent) (key : OwnKey) (trueQ core : Nat) (stamp : Option Nat) :
    List DWord → Nat → Nat × Option (Bool × Bool) × State
  | [], i => (i, some (false, false), s)
  | v :: l, i =>
    if s.trafficHeld ag.ten .helped then (i, none, s)
    else
    match s.ownOp ag key trueQ 1 v.toNat with
    | .ok (0, _, _, s) =>
      let s := s.sendControl ag.ten .helped
      let s := match stamp with | some o => (s.observe core).bumpStamp core o | none => s
      s.batchApply ag key trueQ core stamp l (i + 1)
    | .ok (1, _, _, s) => (i, some (true, false), s)
    | .ok (_, _, _, s) => (i, some (false, true), s)
    | .error (.wait, s) => (i, none, s)
    | .error (.off pa, s) => (i, none, { s with bad := some pa })
    | .error (_, s) => (i, some (false, true), s.disown key)

/-- SLUICE_BATCH_ARRIVAL: message k's elements are pushed on the true queue (R324, R325). -/
def execSluiceBatchArrival (k : Nat) (s : State) : Host.Outcome State Fault Refusal :=
  match s.msgs[k]? with
  | some (.batch fromDev fromTen entry ten core trueQ elems stamp i) =>
    let rest := { s with msgs := s.msgs.eraseIdx k }
    if s.accepts ten fromTen = false ∨ s.stampOk ten core stamp = false then
      .next (rest.batchAnswer fromDev fromTen entry i false true)
    else
      match s.walkFor ten trueQ .helped with
      | .ok e =>
        let ag : Agent := { ten, die := homeDie (e.pa trueQ), core := none, pos := none }
        match s.batchApply ag (.batch fromDev fromTen entry) trueQ core stamp (elems.drop i) i with
        | (n, some (full, refused), s) =>
          .next ({ s with msgs := s.msgs.eraseIdx k }.batchAnswer fromDev fromTen entry n full refused)
        | (n, none, s) =>
          .next { s with msgs := s.msgs.set k (.batch fromDev fromTen entry ten core trueQ elems stamp n) }
      | _ => .next (rest.batchAnswer fromDev fromTen entry i false true)
  | _ => .next s

/-- Takes the answers to batches that have come from other devices (R324). -/
def State.takeAnswers (s : State) : State :=
  let isAns (m : Msg) : Bool := match m with | .applied .. => true | _ => false
  if s.msgs.any isAns then
    let ms := s.msgs.filter isAns
    ms.foldl (fun s m => match m with | .applied ten n m full refused => s.batchDone ten n m full refused | _ => s)
      { s with msgs := s.msgs.filter fun m => !isAns m }
  else s

/-! ### The instructions -/

/-- SEND (R198). -/
def execSend (gp : Option Guard) (x : Dst) (y : Src) (tc : BitVec 2) (s : State) : Host.Outcome State Fault Refusal :=
  runThreads (.send gp x y tc) noPre (sendBody x y tc.toNat) s

/-- RARM (R199). -/
def execRarm (gp : Option Guard) (x y : Src) (s : State) : Host.Outcome State Fault Refusal :=
  runThreads (.rarm gp x y) noPre (rarmBody x y) s

/-- RACK (R199). -/
def execRack (gp : Option Guard) (x y : Src) (s : State) : Host.Outcome State Fault Refusal :=
  runThreads (.rack gp x y) noPre (rackBody x y) s

/-- PXPUSH (R200). -/
def execPxpush (gp : Option Guard) (x : Dst) (y : Src) (s : State) : Host.Outcome State Fault Refusal :=
  runThreads (.pxpush gp x y) noPre (pushBody false x y) s

/-- LAUNCH (R200). -/
def execLaunch (gp : Option Guard) (x : Dst) (y : Src) (s : State) : Host.Outcome State Fault Refusal :=
  runThreads (.launch gp x y) noPre (pushBody true x y) s

/-- NEXT (R201). -/
def execNext (gp : Option Guard) (x y : Src) (s : State) : Host.Outcome State Fault Refusal :=
  runThreads (.next gp x y) noPre (nextBody x y) s

/-- FABW (R202). -/
def execFabw (gp : Option Guard) (x : Src) (tc : BitVec 2) (s : State) : Host.Outcome State Fault Refusal :=
  runThreads (.fabw gp x tc) noPre (fabwBody x tc.toNat) s

end Sys2Proof.Machine
end

