-- ==== Sys2Proof/Machine/Shake.lean ====
section
/-! DEFINITION. SHAKE256, the function of FIPS 202 that R369 and R370 name (notes/assumptions/10). -/

namespace Sys2Proof.Machine

/-- The state of the permutation: lane (x, y) has number x + 5y. -/
abbrev Lanes := List (BitVec 64)

def Lanes.at (a : Lanes) (x y : Nat) : BitVec 64 := a.getD (x % 5 + 5 * (y % 5)) 0

/-- Lanes by number from a function of x and y. -/
def Lanes.make (f : Nat → Nat → BitVec 64) : Lanes := (List.range 25).map fun k => f (k % 5) (k / 5)

/-- The rotation of each lane, by number. -/
def laneRot : List Nat :=
  [0, 1, 62, 28, 27, 36, 44, 6, 55, 20, 3, 10, 43, 25, 39, 41, 45, 15, 21, 8, 18, 2, 61, 56, 14]

/-- The constants of the 24 rounds. -/
def roundConst : List (BitVec 64) :=
  [0x0000000000000001, 0x0000000000008082, 0x800000000000808A, 0x8000000080008000, 0x000000000000808B,
   0x0000000080000001, 0x8000000080008081, 0x8000000000008009, 0x000000000000008A, 0x0000000000000088,
   0x0000000080008009, 0x000000008000000A, 0x000000008000808B, 0x800000000000008B, 0x8000000000008089,
   0x8000000000008003, 0x8000000000008002, 0x8000000000000080, 0x000000000000800A, 0x800000008000000A,
   0x8000000080008081, 0x8000000000008080, 0x0000000080000001, 0x8000000080008008]

/-- One round of the permutation. -/
def keccakRound (a : Lanes) (rc : BitVec 64) : Lanes :=
  let c := (List.range 5).map fun x => (List.range 5).foldl (fun v y => v ^^^ a.at x y) 0
  let d (x : Nat) : BitVec 64 := c.getD ((x + 4) % 5) 0 ^^^ (c.getD ((x + 1) % 5) 0).rotateLeft 1
  let b := Lanes.make fun x y =>
    let u := (x + 3 * y) % 5
    (a.at u x ^^^ d u).rotateLeft (laneRot.getD (u + 5 * x) 0)
  Lanes.make fun x y =>
    let v := b.at x y ^^^ (~~~ b.at (x + 1) y &&& b.at (x + 2) y)
    if x = 0 ∧ y = 0 then v ^^^ rc else v

def keccak (a : Lanes) : Lanes := roundConst.foldl keccakRound a

/-- A block of 136 bytes into the state. -/
def Lanes.absorb (a : Lanes) (block : List Byte) : Lanes :=
  keccak (Lanes.make fun x y => a.at x y ^^^ BitVec.ofNat 64 (ofBytes ((block.drop (8 * (x + 5 * y))).take 8)))

/-- The padded input: 1111 after the message, and a last 1, to a multiple of 136 bytes. -/
def shakePad (m : List Byte) : List Byte :=
  let k := 136 - m.length % 136
  m ++ if k = 1 then [0x9F] else 0x1F :: List.replicate (k - 2) 0 ++ [0x80]

def absorbAll : Nat → Lanes → List Byte → Lanes
  | 0, a, _ => a
  | fuel + 1, a, bs => if bs.isEmpty then a else absorbAll fuel (a.absorb (bs.take 136)) (bs.drop 136)

/-- Output, 136 bytes from each state. -/
def squeeze : Nat → Lanes → List Byte
  | 0, _ => []
  | fuel + 1, a => ((a.take 17).map fun (w : BitVec 64) => toBytes 8 w.toNat).flatten ++ squeeze fuel (keccak a)

/-- SHAKE256 of a byte string: n bytes of output. -/
def shake256 (input : List Byte) (n : Nat) : List Byte :=
  let p := shakePad input
  (squeeze (n / 136 + 1) (absorbAll (p.length / 136) (List.replicate 25 0) p)).take n

end Sys2Proof.Machine
end

