-- ==== Sys2Proof/Machine/Host.lean ====
section
/-! DEFINITION. What hosts ask of the device: reads, writes and helped steps (R270, R286, R326, R327), attestation and
the public key (R370, R371). -/

namespace Sys2Proof.Machine

/-! ### Who may ask (R286, R295, R326) -/

/-- Whether a master is named in a tenancy's TNHOST; 0xFFFF names none. -/
def State.named (s : State) (ten master : Nat) : Bool :=
  let h := (s.ten ten).host.toNat
  master != 0xFFFF && (h % 2 ^ 16 == master || h / 2 ^ 16 == master)

/-- The code that turns a request away before it is looked at; one that the weir has held is never refused (R326). -/
def State.turnedAway (s : State) (r : HostReq) : Option Nat :=
  let x := s.ten r.ten
  if x.ctl.toNat % 2 ^ 24 = 0 then some 4 else if r.begun || s.named r.ten r.master then none else some 1

/-! ### Serving a request -/

/-- How an attempt to serve a request ends: an answer, or it is held with what it has done so far (R326). -/
inductive Served where
  | answer (code : Nat) (data : List Byte) (s : State)
  | held (s : State)

/-- The response code of a translation that fails. -/
def Walk.code (w : Walk) : Nat := match w with | .page => 2 | _ => 3

/-- Host bytes are charged as memory bytes and as class 2 traffic (R296, R318, R326). -/
def State.chargeHost (s : State) (ten n : Nat) : State := (s.charge ten 0 n).sendBytes ten .host n

/-- A request is held as r' says, in the place of the first one equal to it. -/
def State.keepReq (s : State) (r r' : HostReq) : Served :=
  .held { s with reqs := match s.reqs.findIdx? (· == r) with | some k => s.reqs.set k r' | none => s.reqs }

/-- The beats of translated pieces: at most a line each (R296). -/
def hostBeats (ps : List (Nat × BitVec 2 × Nat)) : List (Nat × BitVec 2 × Nat) :=
  ps.flatMap fun p => (linePieces (p.2.2 / 128 + 2) p.1 p.2.2).map fun q => (q.1, p.2.1, q.2)

/-- Whether the weir holds a beat of a host's read or write (R296, R298). -/
def State.hostHeld (s : State) (ten : Nat) : Bool := s.weirHolds ten 0 || s.trafficHeld ten .host

/-- The beats of a read, each checked and charged, at the home slice of each location (R270, R296); got: what the beats before
them read. -/
def State.hostLoad (s : State) (r : HostReq) : List (Nat × BitVec 2 × Nat) → List Byte → Served
  | [], got => .answer 0 got s
  | (pa, attr, n) :: ps, got =>
    if s.hostHeld r.ten then s.keepReq r { r with begun := true, pages := some ((pa, attr, n) :: ps), got }
    else
      let s := s.fillSectors pa n
      (s.chargeHost r.ten n).hostLoad r ps (got ++ s.memRead pa n)

/-- The beats of a write, each checked and charged, at the home slice of each location (R270, R296). -/
def State.hostStore (s : State) (r : HostReq) : List (Nat × BitVec 2 × Nat) → List Byte → Served
  | [], _ => .answer 0 [] s
  | (pa, attr, n) :: ps, bs =>
    if s.hostHeld r.ten then s.keepReq r { r with begun := true, pages := some ((pa, attr, n) :: ps), bytes := bs }
    else ((s.homeWrite [] pa attr (bs.take n)).chargeHost r.ten n).hostStore r ps (bs.drop n)

/-- A host's read or write: translated whole before its first beat (R326). -/
def State.hostAccess (s : State) (r : HostReq) (write : Bool) : Served :=
  let go (ps : List (Nat × BitVec 2 × Nat)) : Served :=
    if write then s.hostStore r ps r.bytes else s.hostLoad r ps r.got
  match r.pages with
  | some ps => go ps
  | none =>
    match s.walkAll r.ten (if write then .store else .load) (pagePieces (r.n / 2 ^ 16 + 2) r.va r.n) with
    | .inl (.off pa) => .held { s with bad := some pa }
    | .inl w => .answer w.code [] s
    | .inr ps => go (hostBeats ps)

/-- Runs the passes of an HRUN for its object and ticket; with an error, the tickets applied so far (R162). -/
def State.hostRun (s : State) (ag : Agent) (obj tick : Nat) : Nat → Nat → Except (HErr × State × Nat) (Nat × State)
  | 0, n => .error (.wait, s, n)
  | fuel + 1, n =>
    match s.runPass ag obj tick with
    | .ok (true, m, s) => .ok (n + m, s)
    | .ok (false, m, s) => s.hostRun ag obj tick fuel (n + m)
    | .error (e, s) => .error (e, s, n)

/-- The answer to a helped step that does not take place (R326). -/
def stepAnswer (e : HErr) (s : State) : Served :=
  match e with
  | .page _ => .answer 2 [] s
  | .access _ _ => .answer 3 [] s
  | .wait => .held s
  | .off pa => .held { s with bad := some pa }
  | .fault cause _ => .answer 5 (toBytes 1 cause) s
  | .poison _ => .answer 5 [3] s

/-- HRUN for a host (R162, R326). It takes the object and the ticket once. What the run would meet is found out before its
first step, with no budget in force: where that refuses it, or must wait, nothing is performed; where it would meet poison,
only the object is poisoned (R338). One that the weir holds between two of its steps is kept, with what it has applied; as a
held request is never refused, it is kept too where a later step cannot take place (notes/assumptions/68). -/
def State.hostHrun (s : State) (ag : Agent) (r : HostReq) : Served :=
  let go (s : State) (obj tick n : Nat) : Served :=
    match s.hostRun ag obj tick 64 n with
    | .ok (n, s) => .answer 0 (toBytes 4 n) s
    | .error (.off pa, s, _) => .held { s with bad := some pa }
    | .error (_, s, n) => s.keepReq r { r with n := n, run := some (obj, tick), begun := true }
  match r.run with
  | some (obj, tick) => go s obj tick r.n
  | none =>
    match s.runStart ag r.va with
    | .error (e, s) => stepAnswer e s
    | .ok (none, s) => .answer 0 (toBytes 4 0) s
    | .ok (some (obj, tick), u) =>
      match (u.modTen r.ten fun x => { x with budgets := [] }).hostRun ag obj tick 64 0 with
      | .ok _ => go u obj tick 0
      | .error (.wait, _, _) => .held s
      | .error (.poison va, _, _) =>
        match u.hxlate ag obj .helped with
        | .ok (pa, attr, u) => stepAnswer (.poison va) (u.hpoison ag pa attr (u.memRead pa 256))
        | .error (e, u) => stepAnswer e u
      | .error (e, _, _) => stepAnswer e s

/-- A helped step at the home slice: HANN, HAPP, HRUN, HPOIS, HCLR (R158..R164, R286, R326). HPOIS and HCLR
answer no data. -/
def State.hostStep (s : State) (r : HostReq) : Served :=
  let die := match s.walkFor r.ten r.va .helped with | .ok e => homeDie (e.pa r.va) | _ => 0
  let ag : Agent := { ten := r.ten, die, core := none, pos := none }
  let ans (x : HRes (Nat × State)) : Served :=
    match x with
    | .ok (v, s) => .answer 0 (toBytes 4 v) s
    | .error (e, s) => stepAnswer e s
  let plain (x : HRes State) : Served :=
    match x with
    | .ok s => .answer 0 [] s
    | .error (e, s) => stepAnswer e s
  match r.op with
  | 2 => if r.va % 32 = 0 then ans (s.announce ag r.va) else .answer 5 [8] s
  | 3 => if r.va % 256 = 0 then ans (s.applyStep ag r.va) else .answer 5 [8] s
  | 4 => if r.va % 32 = 0 then s.hostHrun ag r else .answer 5 [8] s
  | 5 => if r.va % 256 = 0 then plain (s.poisonObject ag r.va (some (ofBytes r.bytes))) else .answer 5 [8] s
  | _ => if r.va % 256 = 0 then plain (s.poisonObject ag r.va none) else .answer 5 [8] s

/-- Serves a request, or holds it while the weir holds its activity or its traffic class; a helped step that is served is
charged as control traffic (R296, R318, R326). -/
def State.hostServe (s : State) (r : HostReq) : Served :=
  match s.turnedAway r with
  | some code => .answer code [] s
  | none =>
    match r.op with
    | 0 => s.hostAccess r false
    | 1 => s.hostAccess r true
    | _ =>
      if s.weirHolds r.ten 6 || s.trafficHeld r.ten .helped then s.keepReq r { r with begun := true }
      else
        match s.hostStep r with
        | .answer 0 data s => .answer 0 data (s.sendControl r.ten .helped)
        | x => x

/-- Tries the listed waiting requests: the first of each master, in the order they came (R327). -/
def State.serveReqs (s : State) : List HostReq → List Nat → State
  | [], _ => s
  | r :: l, busy =>
    if busy.contains r.master then s.serveReqs l busy
    else
      match s.hostServe r with
      | .held s => s.serveReqs l (r.master :: busy)
      | .answer code data s =>
        ({ s with reqs := s.reqs.erase r }.drive (.resp r.master code data)).serveReqs l busy

/-- Every waiting request that can be served is served. -/
def State.hostPump (s : State) : State := if s.reqs.isEmpty then s else s.serveReqs s.reqs []

/-- A request arrives: it is served in the order of its master's requests (R327). A device whose start has halted takes none
(R365). -/
def State.hostAsk (s : State) (r : HostReq) : State :=
  if s.haltedAt ≠ 0 then s else { s with reqs := s.reqs ++ [r] }.hostPump

/-- HOST_READ (R270, R326). -/
def execHostRead (master : BitVec 16) (ten : BitVec 4) (va : BitVec 57) (n : Nat) (s : State) :
    Host.Outcome State Fault Refusal :=
  .next (s.hostAsk { master := master.toNat, ten := ten.toNat, op := 0, va := va.toNat, n, bytes := [], run := none
                     begun := false, pages := none, got := [] })

/-- HOST_WRITE (R270, R326). -/
def execHostWrite (master : BitVec 16) (ten : BitVec 4) (va : BitVec 57) (bytes : List Byte) (s : State) :
    Host.Outcome State Fault Refusal :=
  .next (s.hostAsk { master := master.toNat, ten := ten.toNat, op := 1, va := va.toNat, n := bytes.length, bytes, run := none
                     begun := false, pages := none, got := [] })

/-- The number and the operand bytes of a host's helped step. -/
def hostOpOf (op : HostOp) : Nat × List Byte :=
  match op with
  | .hann => (2, []) | .happ => (3, []) | .hrun => (4, []) | .hpois code => (5, toBytes 4 code.toNat) | .hclr => (6, [])

/-- HOST_HELPED_STEP (R286, R326). -/
def execHostHelpedStep (master : BitVec 16) (ten : BitVec 4) (op : HostOp) (va : BitVec 57) (s : State) :
    Host.Outcome State Fault Refusal :=
  let (k, bytes) := hostOpOf op
  .next (s.hostAsk { master := master.toNat, ten := ten.toNat, op := k, va := va.toNat, n := 0, bytes, run := none
                     begun := false, pages := none, got := [] })

/-! ### Attestation (R366, R370, R371) -/

/-- The 16 bytes of a start-record entry (R366). -/
def StartEnt.bytes (e : StartEnt) : List Byte :=
  toBytes 1 e.step.toNat ++ toBytes 1 e.outcome.toNat ++ toBytes 1 e.policy.toNat ++ toBytes 1 e.attempts.toNat
    ++ toBytes 2 e.starts.toNat ++ toBytes 2 0 ++ toBytes 8 e.detail.toNat

/-- An entry that no start has written: its step and policy from fuses (R365, R366). -/
def startDefault (k : Nat) : StartEnt :=
  let step := if 48 ≤ k then 3 else if k = 2 ∨ 9 < k then 0 else k + 1
  { detail := 0, starts := 0, attempts := 0, policy := startPolicy step, outcome := 0, step := BitVec.ofNat 8 step }

def State.startEnt (s : State) (k : Nat) : StartEnt := tget (startDefault k) s.startRec k

/-- The 1,024 bytes of the start record. -/
def State.startBytes (s : State) : List Byte := ((List.range 64).map fun k => (s.startEnt k).bytes).flatten

/-- What a report says (R370), in the order the rule names its parts. -/
def State.reportBody (s : State) (nonce : BitVec 256) : List Byte :=
  let regs := ((List.range 16).map fun t =>
    toBytes 4 (s.ten t).ctl.toNat ++ toBytes 8 (s.ten t).root.toNat ++ toBytes 4 (s.ten t).host.toNat).flatten
  toBytes 2 s.device.toNat ++ toBytes 32 nonce.toNat ++ (s.meas.map fun (m : BitVec 512) => toBytes 64 m.toNat).flatten
    ++ shake256 s.startBytes 64 ++ toBytes 2 s.fuses.svnMin.toNat ++ shake256 regs 64

/-- ATTESTATION_REQUEST (R370, R371): a signed report for a master named in TNHOST; code 4 before step 10. -/
def execAttestationRequest (master : BitVec 16) (ten : BitVec 4) (nonce : BitVec 256) (s : State) :
    Host.Outcome State Fault Refusal :=
  let m := master.toNat
  if !s.running then .next (s.drive (.resp m 4 []))
  else if s.named ten.toNat m then
    let b := s.reportBody nonce
    let (seed, s) := s.draw
    .next (s.drive (.report m (b ++ toBytes 3309 (Config.mldsaSign s.fuses.seed b seed).toNat)))
  else .next (s.drive (.resp m 1 []))

/-- PUBLIC_KEY_REQUEST (R370, R371): the identity public key, for any host master. -/
def execPublicKeyRequest (master : BitVec 16) (s : State) : Host.Outcome State Fault Refusal :=
  let m := master.toNat
  if !s.running then .next (s.drive (.resp m 4 []))
  else if 1024 ≤ m ∧ m ≠ 0xFFFF then .next (s.drive (.resp m 0 s.pubKey))
  else .next (s.drive (.resp m 1 []))

end Sys2Proof.Machine
end

