-- ==== Sys2Proof/Machine/Illegal.lean ====
section
/-! DEFINITION. The illegal-instruction trap at decode (R79, R82, R87). -/

namespace Sys2Proof.Machine

/-- ILLEGAL_INSTRUCTION: a word that is no assigned instruction raises the trap in every member that fetches it (R79). -/
def execIllegalInstruction (word : Word) (s : State) : Host.Outcome State Fault Refusal :=
  let trap (s : State) (t : Nat) : State :=
    match s.thr? s.cur.core t with
    | none => s
    | some th => s.decodeTrap s.cur.core t th .illegalInstruction (s.cur.len - 1) word
  .next (s.cur.members.foldl trap s)

end Sys2Proof.Machine
end

