-- ==== Sys2Proof/Machine/Matrix.lean ====
section
/-! DEFINITION. The matrix pipeline: WLD, WSW, MMA, MMAZ, ACCZ, ACCLD, ACCST, QNT, the fetch of rows, arbitration and
retirement (R175..R179, R241..R246, R333). -/

namespace Sys2Proof.Machine

/-! ### The cistern (R246) -/

def Core.acc (k : Core) (n : Nat) : Nat := (tget 0 k.cistern n).toNat

def setAcc (t : Tbl Word) (n v : Nat) : Tbl Word := if v % 2 ^ 32 = 0 then tdel t n else tset t n (wd v)

/-- Writes accumulators from base up; 64-bit words written whole lose their poison (R334). -/
def Core.putAccs (k : Core) (base : Nat) (vs : List Nat) : Core :=
  let rec go : Tbl Word → Nat → List Nat → Tbl Word
    | t, _, [] => t
    | t, n, v :: vs => go (setAcc t n v) (n + 1) vs
  { k with cistern := go k.cistern base vs
           ciPoison := k.ciPoison.filter fun w => !(decide (base ≤ 2 * w) && decide (2 * w + 2 ≤ base + vs.length)) }

/-- The first poisoned accumulator word among n accumulators (R334). -/
def Core.accPoison (k : Core) (base n : Nat) : Option Nat :=
  k.ciPoison.find? fun w => decide (base < 2 * w + 2) && decide (2 * w < base + n)

/-! ### Issue (R173, R176) -/

/-- How a matrix unit uses its slots: the source with its role, and the other slot with its role. -/
structure MxUse where
  kind : MxKind
  mode : Option Mode
  src  : Option (Nat × Role)
  dst  : Option (Nat × Role)
  reg  : Option Nat

/-- The headers in force of a unit's slots. -/
def MxUse.slots (u : MxUse) (k : Core) : Option Slot × Option Slot :=
  (u.src.bind fun x => k.slot x.1, u.dst.bind fun x => k.slot x.1)

/-- The unsupported combinations of a unit: slot, field and value; the source before the other slot (R70, R71). What
concerns the latched weights is left to arbitration (R176); a result of I32 with a floating or scaled A is field 15 here
(DESIGN CHOICE, notes/assumptions/52). -/
def mxFault (u : MxUse) (src dst : Option Slot) : Option (Nat × Nat × Nat) :=
  let own (x : Option (Nat × Role)) (sl : Option Slot) : Option (Nat × Nat × Nat) :=
    match x, sl with
    | some (n, r), some v => (v.h.useFault v.bind r).map fun f => (n, f)
    | _, _ => none
  let derived : Option (Nat × Nat × Nat) :=
    match u.kind, u.src, src, u.dst, dst with
    | .mma, _, some a, some (n, _), some cs =>
      let h := cs.h
      if h.efmt ≠ 13 ∧ h.efmt ≠ 14 then some (n, 15, h.efmt)
      else if h.efmt = 14 ∧ (efmtNarrow a.h.efmt = false ∨ a.h.sfmt ≠ 0) then some (n, 15, 14)
      else none
    | .accld, _, some v, some (n, r), some cs =>
      ((cisternHdr false v.h.rows v.h.cols).useFault cs.bind r).map fun f => (n, f)
    | .accst, _, some cs, some (n, r), some d =>
      if d.h.efmt = 4 then some (n, 1, 4)
      else ((outHdr false cs.h d.h).resultFault d.bind r).map fun f => (n, f)
    | .qnt, _, some cs, some (n, r), some d => ((outHdr true cs.h d.h).resultFault d.bind r).map fun f => (n, f)
    | _, _, _, _, _ => none
  let len : Option (Nat × Nat × Nat) :=
    match u.kind, u.src, src, dst with
    | .qnt, some (m, _), some cs, some d =>
      let n := if d.h.order = 0 then cs.h.cols else cs.h.rows
      if n % 32 ≠ 0 then some (m, if d.h.order = 0 then 8 else 7, n) else none
    | _, _, _, _ => none
  (own u.src src).orElse fun _ => len.orElse fun _ => (own u.dst dst).orElse fun _ => derived

/-- The conditions of a matrix unit up to R31 item 7: the window fault of a register-resident tile's registers, which R31
puts before R70's row on a footprint past the allocation (R17, R66); header slots; header faults (R71, R204); then the copy
fault of a register-resident destination (R24). Of a tile whose slot is EMPTY the registers are not known: it gives the
header-slot fault. -/
def mxPre (u : MxUse) (i : Instr) (s : State) (c t : Nat) : Except Stop Unit := do
  s.tileWindow c t u.reg i
  (u.src.toList ++ u.dst.toList).forM fun x => do let _ ← checkSlot x.1 s c
  let (src, dst) := u.slots (s.core c)
  match mxFault u src dst with
  | some (n, f) => unsupported n f
  | none =>
    match s.thr? c t with
    | none => .ok ()
    | some th =>
      let (es, wr) := s.tileEnts c t th i
      if wr then checkCopy (s.core c) t th es else .ok ()

def mxSort (k : MxKind) : OpSort :=
  match k with | .mma | .mmaz => .mma | .accst | .qnt => .out | _ => .mx

/-- Issues a matrix operation for the participants: into the partition's queue, counted, the registers of a
register-resident tile pending (R143, R173, R176, R178). -/
def mxIssue (u : MxUse) (i : Instr) (s : State) (c : Nat) (ps : List Nat) : Except Stop (State × (Nat → Done)) :=
  let k := s.core c
  let id := k.nextOp + 1
  let (src, dst) := u.slots k
  let ths := ps.filterMap fun t => (k.thr? t).map fun th => (t, th)
  let op : MxOp :=
    { id, kind := u.kind, part := s.cur.part, uids := ths.map (·.2.uid), tids := ths.map (·.1)
      ents := match u.reg with | some r => ths.map fun e => e.2.win.wbase + r | none => []
      pc := match ths with | e :: _ => e.2.pc | [] => 0
      inst := s.cur.word, mode := u.mode, srcNum := (u.src.map (·.1)).getD 0, src, dstNum := (u.dst.map (·.1)).getD 0
      dst, reg := u.reg, buf := [], pos := 0, fetched := false, fresh := false, won := false, running := false, err := none
      held := none, retried := false }
  let s := ths.foldl (fun s e =>
    let (es, wr) := s.tileEnts c e.1 e.2 i
    let s := s.engIssue c e.1 id .mx (mxSort u.kind)
    if es.isEmpty then s
    else
      let p : Pend :=
        { id, pc := e.2.pc, reg := u.reg.getD 0, engine := if wr then 2 else 4, ents := es, ax := none
          latch := false, sz := .b32, src := .bound 0, acqs := k.acqs, spray := 0 }
      let s := if wr then s.modCore c (·.ownEnts e.1 es) else s
      s.modThr c e.1 fun th => { th with pend := th.pend ++ [p] }) s
  let s := if u.kind = .mma ∨ u.kind = .mmaz then s.bump c s.cur.part 34 1 else s
  goOn (s.modCore c fun k => { k with nextOp := id, mxq := k.mxq ++ [op] })

/-- A matrix unit (R172, R173). -/
def runMx (i : Instr) (u : MxUse) (s : State) : Host.Outcome State Fault Refusal :=
  runSpray i (mxPre u i) (mxIssue u i) s

/-- WLD (R175): reads the weight tile of slot h into the inactive bank. -/
def execWld (gp : Option Guard) (h : BitVec 5) (s : State) : Host.Outcome State Fault Refusal :=
  runMx (.wld gp h) { kind := .wld, mode := none, src := some (h.toNat, .w), dst := none, reg := none } s

/-- WSW (R175): exchanges the banks. -/
def execWsw (gp : Option Guard) (s : State) : Host.Outcome State Fault Refusal :=
  runMx (.wsw gp) { kind := .wsw, mode := none, src := none, dst := none, reg := none } s

/-- MMA (R176): A in slot h, cistern tile in slot y. -/
def execMma (gp : Option Guard) (m : Option Mode) (y h : BitVec 5) (s : State) : Host.Outcome State Fault Refusal :=
  runMx (.mma gp m y h)
    { kind := .mma, mode := m, src := some (h.toNat, .a false), dst := some (y.toNat, .cist), reg := none } s

/-- MMA of a register-resident A (R66, R176). -/
def execMmaReg (gp : Option Guard) (m : Option Mode) (x : BitVec 7) (y h : BitVec 5) (s : State) :
    Host.Outcome State Fault Refusal :=
  runMx (.mmaReg gp m x y h)
    { kind := .mma, mode := m, src := some (h.toNat, .a true), dst := some (y.toNat, .cist), reg := some x.toNat } s

/-- MMAZ (R176). -/
def execMmaz (gp : Option Guard) (m : Option Mode) (y h : BitVec 5) (s : State) : Host.Outcome State Fault Refusal :=
  runMx (.mmaz gp m y h)
    { kind := .mmaz, mode := m, src := some (h.toNat, .a false), dst := some (y.toNat, .cist), reg := none } s

/-- MMAZ of a register-resident A (R66, R176). -/
def execMmazReg (gp : Option Guard) (m : Option Mode) (x : BitVec 7) (y h : BitVec 5) (s : State) :
    Host.Outcome State Fault Refusal :=
  runMx (.mmazReg gp m x y h)
    { kind := .mmaz, mode := m, src := some (h.toNat, .a true), dst := some (y.toNat, .cist), reg := some x.toNat } s

/-- ACCZ (R178). -/
def execAccz (gp : Option Guard) (h : BitVec 5) (s : State) : Host.Outcome State Fault Refusal :=
  runMx (.accz gp h) { kind := .accz, mode := none, src := some (h.toNat, .cist), dst := none, reg := none } s

/-- ACCST (R178): cistern tile in slot h, destination in slot y. -/
def execAccst (gp : Option Guard) (m : Option Mode) (y h : BitVec 5) (s : State) :
    Host.Outcome State Fault Refusal :=
  runMx (.accst gp m y h)
    { kind := .accst, mode := m, src := some (h.toNat, .cist), dst := some (y.toNat, .st false), reg := none } s

/-- ACCST to a register-resident tile (R66, R178). -/
def execAccstReg (gp : Option Guard) (m : Option Mode) (x : BitVec 7) (y h : BitVec 5) (s : State) :
    Host.Outcome State Fault Refusal :=
  runMx (.accstReg gp m x y h)
    { kind := .accst, mode := m, src := some (h.toNat, .cist), dst := some (y.toNat, .st true)
      reg := some x.toNat } s

/-- ACCLD (R178): source in slot h, cistern tile in slot y. -/
def execAccld (gp : Option Guard) (y h : BitVec 5) (s : State) : Host.Outcome State Fault Refusal :=
  runMx (.accld gp y h)
    { kind := .accld, mode := none, src := some (h.toNat, .ld false), dst := some (y.toNat, .cist), reg := none } s

/-- ACCLD of a register-resident tile (R66, R178). -/
def execAccldReg (gp : Option Guard) (x : BitVec 7) (y h : BitVec 5) (s : State) : Host.Outcome State Fault Refusal :=
  runMx (.accldReg gp x y h)
    { kind := .accld, mode := none, src := some (h.toNat, .ld true), dst := some (y.toNat, .cist)
      reg := some x.toNat } s

/-- QNT (R179): cistern tile in slot h, destination in slot y. -/
def execQnt (gp : Option Guard) (m : Option Mode) (y h : BitVec 5) (s : State) : Host.Outcome State Fault Refusal :=
  runMx (.qnt gp m y h)
    { kind := .qnt, mode := m, src := some (h.toNat, .cist), dst := some (y.toNat, .qnt), reg := none } s

/-! ### The queues -/

/-- The slots of a queued operation, as its unit used them. -/
def MxOp.use (op : MxOp) : MxUse :=
  let reg := op.reg.isSome
  match op.kind with
  | .mma | .mmaz =>
    { kind := op.kind, mode := op.mode, src := some (op.srcNum, .a reg), dst := some (op.dstNum, .cist), reg := op.reg }
  | .accld =>
    { kind := .accld, mode := op.mode, src := some (op.srcNum, .ld reg), dst := some (op.dstNum, .cist), reg := op.reg }
  | .accst =>
    { kind := .accst, mode := op.mode, src := some (op.srcNum, .cist), dst := some (op.dstNum, .st reg), reg := op.reg }
  | .qnt =>
    { kind := .qnt, mode := op.mode, src := some (op.srcNum, .cist), dst := some (op.dstNum, .qnt), reg := none }
  | .accz => { kind := .accz, mode := none, src := some (op.srcNum, .cist), dst := none, reg := none }
  | .wld => { kind := .wld, mode := none, src := some (op.srcNum, .w), dst := none, reg := none }
  | .wsw => { kind := .wsw, mode := none, src := none, dst := none, reg := none }

/-- Whether an operation reads a tile that the fetcher brings. -/
def MxOp.fetches (op : MxOp) : Bool :=
  match op.kind with | .mma | .mmaz | .wld | .accld => true | _ => false

/-- The head of partition p's queue (R177). -/
def Core.mxHead (k : Core) (p : Nat) : Option MxOp := k.mxq.find? (·.part == p)

def Core.modOp (k : Core) (id : Nat) (f : MxOp → MxOp) : Core :=
  { k with mxq := k.mxq.map fun o => if o.id = id then f o else o }

def State.modMx (s : State) (c id : Nat) (f : MxOp → MxOp) : State := s.modCore c (·.modOp id f)

/-- An operation meets a condition that makes it retire with an error (R173): the fault kind. -/
def State.failMxAt (s : State) (c : Nat) (op : MxOp) (kind slot : Nat) (more : List Word) : State :=
  s.modMx c op.id fun o => { o with err := some { kind, arg := wd slot, more } }

/-- The same, of its A or source slot. -/
def State.failMx (s : State) (c : Nat) (op : MxOp) (kind : Nat) (more : List Word) : State :=
  s.failMxAt c op kind op.srcNum more

/-- An unsupported combination met at arbitration: slot, field number and value (R70). -/
def State.failUnsupported (s : State) (c : Nat) (op : MxOp) (f : Nat × Nat × Nat) : State :=
  s.failMxAt c op 7 f.1 [wd f.2.1, wd f.2.2]

/-- A page fault holds the operation; one that has been arbitrated stays so (R173, R177). -/
def State.holdMx (s : State) (c : Nat) (op : MxOp) (va : Nat) : State :=
  let (tok, s) := s.engPage c op.pc va
  s.modMx c op.id fun o => { o with held := some (va, tok) }

/-! ### Fetch (R243) -/

/-- The header by which a register-resident tile is read and written: row i is held by lane i whatever its order (R66). -/
def Hdr.byRow (h : Hdr) : Hdr := { h with order := 0 }

/-- The source's layout: header, where its data begins, the distance between lines. Rows of a register-resident tile
stand 128 bytes apart in the buffer (R66). -/
def MxOp.layout (op : MxOp) : Option (Hdr × Nat × Nat × Nat) :=
  op.src.map fun sl => if sl.kind = 2 then (sl.h.byRow, 2, 0, 128) else (sl.h, sl.kind, sl.loc, sl.h.pitch)

/-- Whether the lines of a tile are its columns, stored one by one. -/
def Hdr.byColumn (h : Hdr) : Bool := h.order != 0 && h.swz != 4 && h.sparse != 3

/-- The data pieces of a tile in ascending row order (R243): line by line, or, where the lines are columns, the first piece of
every column, then the second of every column, and so on. -/
def Hdr.dataPieces (h : Hdr) (data pitch : Nat) (rd : Nat → Byte) : List (Nat × Nat) :=
  let rs := h.dataRanges data pitch rd
  if h.byColumn then
    let cs := rs.map fun r => cutLines [r]
    (List.range (h.wide / 128 + 2)).flatMap fun k => cs.filterMap fun (ps : List (Nat × Nat)) => ps[k]?
  else cutLines rs

/-- The pieces of a tile in fetch order, data lines marked (R243). -/
def Hdr.pieces (h : Hdr) (data pitch : Nat) (rd : Nat → Byte) : List (Bool × Nat × Nat) :=
  (cutLines (h.sideRanges data)).map (fun p => (false, p)) ++ (h.dataPieces data pitch rd).map fun p => (true, p)

/-- A thread's window by uid, whether it runs or has ended (R194), with its partition. -/
def Core.windowOf (k : Core) (uid : Nat) : Option (Nat × Window) :=
  match k.byUid uid with
  | some (t, th) => some (posPart t, th.win)
  | none => (k.ghosts.find? (·.uid == uid)).map fun g => (g.part, g.win)

/-- The bytes of the rows that participants hold, 128 bytes for each lane, or a poisoned entry (R66, R338). -/
def Core.readRows (k : Core) (op : MxOp) (h : Hdr) : List Host.Cell × Option Nat :=
  let n := cdiv (h.cols * efmtBits h.efmt) 32
  ((op.uids.zip (op.tids.zip op.ents)).foldl (fun acc e =>
    let (uid, t, first) := e
    if h.rows ≤ posLane t then acc
    else
      match k.windowOf uid with
      | none => acc
      | some (p, w) =>
        (List.range n).foldl (fun acc j =>
          let v := entValue (k.part p) entDepth w (first + j)
          (cellsWrite acc.1 (128 * posLane t + 4 * j) (toBytes 4 v.1.toNat),
            if v.2 then some (first + j) else acc.2)) acc) ([], none))

/-- Counts the registers that a fetch of rows from registers reads (R353). -/
def State.countRows (s : State) (c : Nat) (op : MxOp) (h : Hdr) : State :=
  let n := cdiv (h.cols * efmtBits h.efmt) 32
  (op.uids.zip (op.tids.zip op.ents)).foldl (fun s e =>
    match (s.core c).windowOf e.1 with
    | some (p, w) =>
      if h.rows ≤ posLane e.2.1 then s
      else s.countTags c p ((List.range n).map fun j => (entValue ((s.core c).part p) entDepth w (e.2.2 + j)).1)
    | none => s) s

/-- The operation's registers are no longer pending. -/
def State.releaseTile (s : State) (c : Nat) (op : MxOp) : State :=
  op.uids.foldl (fun s u =>
    match (s.core c).byUid u with
    | some (t, _) => s.modThr c t fun th => { th with pend := th.pend.filter (·.id != op.id) }
    | none => s) s

/-- The fetch is complete: sparsity metadata is checked (R61, R71). -/
def State.fetchEnd (s : State) (c : Nat) (op : MxOp) (h : Hdr) (data : Nat) (buf : List Host.Cell) (pos : Nat) :
    State :=
  let s := s.modMx c op.id fun o => { o with buf, pos, fetched := true }
  match h.badGroup data (cellGet buf) with
  | some (l, g) => s.failMx c op 9 [wd l, wd g]
  | none => s

/-- One step of the fetch of an operation: one line, present before its tag is checked (R68, R373). -/
def State.fetchStep (s : State) (c : Nat) (op : MxOp) : State :=
  match op.layout with
  | none => s
  | some (h, kind, data, pitch) =>
    if kind = 2 then
      match (s.core c).readRows op h with
      | (_, some e) =>
        match s.engPoison c [2, wd e, 0] with
        | .rollback info => s.rollback (s.nodeNum c) info
        | .err k more => (s.releaseTile c op).failMx c op k more
        | _ => s
      | (buf, none) => ((s.countRows c op h).releaseTile c op).fetchEnd c op h data buf 0
    else
      let ps := h.pieces data pitch (cellGet op.buf)
      match ps[op.pos]? with
      | none => s.fetchEnd c op h data op.buf op.pos
      | some (isData, a, n) =>
        let a := a % 2 ^ 57
        let attr := (s.core c).lineAttr (a / 128)
        if kind = 1 ∧ Config.spBytes < a + n then
          s.failUnsupported c op (op.srcNum, 13, lowWord ((op.src.map (·.bind.toNat)).getD 0))
        else if kind = 1 && isData && attr.pres && !tagAccepts h.swz attr.tag.toNat then
          s.failMx c op 8 ((s.core c).tagMore op.srcNum (a / 128) h.swz)
        else
          match (if kind = 1 then s.engSpLoad c a n else s.engLoad c op.uids op.id a n) with
          | .wait s => s
          | .page va => s.holdMx c op va
          | .err k more => s.failMx c op k more
          | .rollback info => s.rollback (s.nodeNum c) info
          | .off pa => { s with bad := some pa }
          | .ok bs s =>
            let buf := cellsWrite op.buf a bs
            let pos := op.pos + 1
            if (h.pieces data pitch (cellGet buf)).length ≤ pos then s.fetchEnd c op h data buf pos
            else s.modMx c op.id fun o => { o with buf, pos }

/-- Bytes fetched so far. -/
def MxOp.fetchedBytes (op : MxOp) : Nat :=
  match op.layout with
  | some (h, _, data, pitch) => sumBy (fun p => p.2.2) ((h.pieces data pitch (cellGet op.buf)).take op.pos)
  | none => 0

/-- Whether the fetcher has something to read for an operation: up to its partition's share of the row buffer before the
broadcast begins to consume rows, and the rest after (R243). -/
def MxOp.canFetch (op : MxOp) : Bool :=
  op.fetches && !op.fetched && op.err.isNone && op.held.isNone && (op.running || decide (op.fetchedBytes < Config.rowShare))

/-- A_ROW_FETCH (R243): the fetcher reads the next line of the head of a partition's queue. -/
def execARowFetch (core part : Nat) (s : State) : Host.Outcome State Fault Refusal :=
  match (s.core core).mxHead part with
  | some op => .next (if op.canFetch then s.fetchStep core op else s)
  | none => .next s

/-! ### Arbitration (R176, R245) -/

/-- Rows that are in the buffer whole: of a tile whose lines are rows, of one whose lines are columns, and of a bm8 tile, whose
blocks come by rows of blocks. -/
def MxOp.rowsIn (op : MxOp) : Nat :=
  match op.layout with
  | none => 0
  | some (h, _, data, pitch) =>
    if op.fetched then h.rows
    else if h.sparse = 3 then
      let side := (cutLines (h.sideRanges data)).length
      let bytes (r : Nat) : Nat := blocksBefore (h.mask data (cellGet op.buf)) ((r + 1) * (h.cols / 8)) * 8 * efmtBits h.efmt
      8 * ((List.range (h.rows / 8)).takeWhile fun r =>
        decide (side ≤ op.pos) && decide (side + (cutLines [(data, bytes r)]).length ≤ op.pos)).length
    else if h.sparse ≠ 0 then 0
    else if h.byColumn then
      let got := (h.dataPieces data pitch (cellGet op.buf)).take (op.pos - (cutLines (h.sideRanges data)).length)
      let ends := (List.range h.lines).map fun l =>
        sumBy (fun p => if data + l * pitch ≤ p.1 ∧ p.1 < data + l * pitch + h.wide then p.2 else 0) got
      let span := swzSpan h.swz
      ((List.range h.rows).takeWhile fun r =>
        ends.all fun n => decide (cdiv (cdiv ((r + 1) * efmtBits h.efmt) 8) span * span ≤ n)).length
    else
      let side := (cutLines (h.sideRanges data)).length
      ((List.range h.rows).takeWhile fun l =>
        decide (side + (cutLines ((h.dataRanges data pitch fun _ => 0).take (l + 1))).length ≤ op.pos)).length

/-- The elements of an operation's source. -/
def MxOp.elems (op : MxOp) : List (List Nat) :=
  match op.layout with
  | some (h, _, data, pitch) => h.elems data pitch (cellGet op.buf)
  | none => []

/-- T over the rows in the row buffer (R244); 0 for an operation that is not an MMA or MMAZ (R245). -/
def MxOp.estimate (op : MxOp) : Nat :=
  match op.kind, op.src with
  | .mma, some sl | .mmaz, some sl => toggles sl.h.efmt (op.elems.take op.rowsIn) sl.h.cols
  | _, _ => 0

/-- Whether a queue is a candidate (R245 item 1). An MMA has fetched its A by then, so a line of A that mismatches is reported
before an unsupported combination with the latched weights (DESIGN CHOICE, notes/assumptions/52). -/
def State.mxCandidate (s : State) (c : Nat) (op : MxOp) : Bool :=
  op.err.isNone && op.held.isNone && !s.weirHolds (s.core c).tenancy 5
    && (!op.fetches || op.fetched || decide (65536 ≤ op.fetchedBytes))

/-- The winner among the candidates, each a partition with its estimate (R245 items 2 and 3). -/
def mxWinner (losses : List Nat) (cs : List (Nat × Nat)) : Option Nat :=
  match cs.find? fun x => decide (64 ≤ losses.getD x.1 0) with
  | some x => some x.1
  | none => (leastBy (fun a b => decide (a.2 < b.2)) cs).map (·.1)

/-- Loss counts after an arbitration (R245 item 4). -/
def newLosses (losses : List Nat) (cs : List Nat) (w : Nat) : List Nat :=
  (List.range 4).map fun p =>
    if p = w then 0 else losses.getD p 0 + b2n (cs.contains p)

/-- What concerns the latched weights: slot, field and value (R70, R176). The weights have no slot, so what concerns them
and A names A's; the field in which A's columns and the weights' rows disagree is A's (notes/assumptions/54). -/
def mxWeightFault (op : MxOp) (w : Hdr) : Option (Nat × Nat × Nat) :=
  match op.src, op.dst with
  | some a, some cs =>
    let inf := cisternHdr (intPath a.h w) a.h.rows w.cols
    if notOperand w.efmt then some (op.srcNum, 1, w.efmt)
    else if a.h.cols ≠ w.rows then some (op.srcNum, 14, 8)
    else
      ((inf.useFault cs.bind .cist).map fun f => (op.dstNum, f)).orElse fun _ =>
        if op.kind = .mma then (firstDiffer cs.h inf).map fun n => (op.dstNum, 14, n) else none
  | _, _ => none

/-- The inactive bank becomes EMPTY (R175). -/
def Core.emptyIdle (k : Core) : Core := if k.active then { k with bank0 := .empty } else { k with bank1 := .empty }

/-- An operation wins: the conditions at its arbitration (R175, R176). -/
def State.startMx (s : State) (c : Nat) (op : MxOp) : State :=
  let s := s.modMx c op.id fun o => { o with won := false, running := true }
  match if op.fresh then mxFault op.use op.src op.dst else none with
  | some f => s.failUnsupported c op f
  | none =>
    match op.kind with
    | .mma | .mmaz =>
      let s := s.modBrackets c op.id fun b => { b with mmaAt := some (b.mmaAt.getD s.time.toNat) }
      match (s.core c).activeBank with
      | .empty => s.failMx c op 30 [1]
      | .ready w .. => match mxWeightFault op (Hdr.of w) with | some f => s.failUnsupported c op f | none => s
    | .wld => s.modCore c (·.emptyIdle)
    | _ => s

/-- Whether an operation occupies the macros (R242). -/
def MxOp.isMma (op : MxOp) : Bool := op.kind == .mma || op.kind == .mmaz

/-- The slots an operation names. -/
def MxOp.named (op : MxOp) : List Nat :=
  (if op.src.isSome then [op.srcNum] else []) ++ (if op.dst.isSome then [op.dstNum] else [])

/-- The accumulators an operation touches: the first, and how many at most (R246). -/
def MxOp.accs (op : MxOp) : Option (Nat × Nat) :=
  match op.kind, op.src, op.dst with
  | .mma, some a, some cs | .mmaz, some a, some cs => some (bindAcc cs.bind, a.h.rows * 256)
  | .accld, some v, some cs => some (bindAcc cs.bind, v.h.rows * v.h.cols)
  | .accz, some cs, _ | .accst, some cs, _ | .qnt, some cs, _ => some (bindAcc cs.bind, cs.h.rows * cs.h.cols)
  | _, _, _ => none

/-- Whether an operation must wait for a running one (R177): both need the macros, the same bank, the same slot or the same
accumulators; a WSW waits for every one. -/
def MxOp.clash (op r : MxOp) : Bool :=
  op.kind == .wsw || r.kind == .wsw || (op.isMma && r.isMma) || (op.kind == .wld && r.kind == .wld)
    || op.named.any r.named.contains
    || match op.accs, r.accs with
       | some (a, n), some (b, m) => decide (a < b + m) && decide (b < a + n)
       | _, _ => false

/-- Whether a head that is not under way may be arbitrated: while the macros are free, and only a WLD, which fills the other
bank, while an MMA or MMAZ has them (R245, R247). -/
def Core.mxFree (k : Core) (op : MxOp) : Bool :=
  !op.running && k.mxq.all fun r => !r.running || !r.isMma || op.kind == .wld

/-- Whether an operation that has been arbitrated may run beside what is under way (R177). -/
def Core.mxClear (k : Core) (op : MxOp) : Bool := k.mxq.all fun r => !r.running || !op.clash r

/-- An arbitrated operation starts, or waits for what it may not run beside (R177). -/
def State.beginMx (s : State) (c : Nat) (op : MxOp) : State :=
  if (s.core c).mxClear op then s.startMx c op else s.modMx c op.id fun o => { o with won := true }

/-- MATRIX_ARBITRATION (R245): the core picks among the heads of its four queues. The winner has the macros next: while it
waits for what it may not run beside, nothing else is arbitrated. -/
def execMatrixArbitration (core : Nat) (s : State) : Host.Outcome State Fault Refusal :=
  let k := s.core core
  match k.mxq.find? (·.won) with
  | some op => .next (if s.mxCandidate core op then s.beginMx core op else s)
  | none =>
    let heads := (List.range 4).filterMap fun p => (k.mxHead p).filter fun o => k.mxFree o && s.mxCandidate core o
    let cs := heads.map fun o => (o.part, o.estimate)
    match mxWinner k.losses cs with
    | none => .next s
    | some w =>
      let s := s.modCore core fun k => { k with losses := newLosses k.losses (cs.map (·.1)) w }
      match heads.find? (·.part == w) with
      | some op => .next (s.beginMx core op)
      | none => .next s

/-! ### Retirement -/

/-- An operation leaves its queue (R25, R173, R178). -/
def State.endMx (s : State) (c : Nat) (op : MxOp) (bytes units : Nat) : State :=
  let s := s.releaseTile c op
  let s := s.modCore c fun k => { k with mxq := k.mxq.filter (·.id != op.id) }
  s.engRetire c op.id op.uids .mx bytes units (mxSort op.kind)

/-- An operation retires with an error (R173); a WLD leaves the inactive bank EMPTY (R175). -/
def State.errMx (s : State) (c : Nat) (op : MxOp) (e : EngErr) : State :=
  let s := if op.kind = .wld then s.modCore c (·.emptyIdle) else s
  (s.engError c op.uids .mx e op.pc none).endMx c op 0 0

/-- An operation retires because of poison it reads (R338, R341). -/
def State.poisonMx (s : State) (c : Nat) (op : MxOp) (info : List Word) : State :=
  match s.engPoison c info with
  | .rollback info => s.rollback (s.nodeNum c) info
  | .err kind more => s.errMx c op { kind, arg := wd op.srcNum, more }
  | _ => s

/-- The header of a result slot is rewritten and keeps its binding (R65, R69): the slot's own, or the operation's where the
slot has become EMPTY since the issue; a slot bound anew keeps its new binding under the result's header (DESIGN CHOICE,
notes/assumptions/52). Operations still queued that name the slot read it so and read its tile afresh (R177), but MMA and
MMAZ keep the header of their issue (R29). -/
def State.putHeader (s : State) (c n : Nat) (bind : BitVec 64) (h : Hdr) : State :=
  s.modCore c fun k =>
    let bind := match k.slot n with | some v => v.bind | none => bind
    let img := h.image
    let re (o : MxOp) : MxOp :=
      if o.running then o
      else if o.kind == .mma || o.kind == .mmaz then
        if o.srcNum = n && o.reg.isNone then { o with buf := [], pos := 0, fetched := false } else o
      else
        let sub (m : Nat) (v : Option Slot) : Option Slot :=
          v.map fun x => if m = n then { x with hdr := img } else x
        let hit := (o.srcNum == n && o.src.isSome) || (o.dstNum == n && o.dst.isSome)
        if hit then
          { o with src := sub o.srcNum o.src, dst := sub o.dstNum o.dst, fresh := true
                   buf := if o.srcNum = n then [] else o.buf, pos := if o.srcNum = n then 0 else o.pos
                   fetched := o.srcNum != n && o.fetched }
        else o
    { (k.setSlot n { hdr := img, bind, dirty := true }) with mxq := k.mxq.map re }

/-- The exact value of an accumulator of a cistern tile (R246): I32 for a tile of that format, else FP32. -/
def accEx (h : Hdr) (fzi : Bool) (v : Nat) : Ex := if h.efmt = 14 then Ex.ofInt (sxInt v 32) else fp32.widen fzi v

/-- The lines of a destination: for each its accumulators' values, in the order of the inner dimension. -/
def Core.outLines (k : Core) (cist out : Hdr) (base : Nat) (fzi : Bool) : List (List Ex) :=
  (List.range out.lines).map fun l =>
    (List.range out.inner).map fun q =>
      let i := if out.order = 0 then l else q
      let j := if out.order = 0 then q else l
      accEx cist fzi (k.acc (base + i * cist.cols + j))

/-- Data lines and scale bytes of ACCST and QNT (R178, R179). -/
def outBytes (quant : Bool) (m : Option Mode) (out : Hdr) (pad : Nat → Nat) (ls : List (List Ex)) :
    List (List Byte) × List Byte :=
  let r := rndOf m
  if quant then
    let bl := ls.map fun l => (blocks32 l).map (quantBlock r.rm)
    (bl.map fun l => packLine 4 0 (l.flatMap (·.1)),
      bl.flatMap fun l => l.flatMap fun b => [BitVec.ofNat 8 b.2.1, BitVec.ofNat 8 b.2.2])
  else
    let line (l : Nat) : List Byte :=
      packLine (efmtBits out.efmt) (pad l) ((ls.getD l []).map (efmtRound out.efmt r))
    ((List.range ls.length).map line, [])

/-- Writes pieces into the scratchpad, with the fill tags of R67: every line written, by data or by scales and spares. -/
def Core.putTile (k : Core) (swz : Nat) (data side : List (Nat × List Byte)) : Core :=
  let k := (data ++ side).foldl (fun k p => k.spPut p.1 p.2) k
  let ls := ((data ++ side).map fun p => p.1 / 128).eraseDups
  ls.foldl (fun k l =>
    let n := sumBy (fun p => if p.1 / 128 = l then p.2.length else 0) (data ++ side)
    k.modLine l fun a =>
      let tag := BitVec.ofNat 4 (8 + swz)
      { a with tag := if 128 ≤ n ∨ a.tag = tag then tag else 0 }) k

/-- The beats of a tile are stored, each once the weir and its home let it, and each counted, so that what waits goes on later
(R267, R296). -/
def State.putBeats (s : State) (c : Nat) (op : MxOp) (done : State → State) : List (Nat × BitVec 2 × List Byte) → State
  | [] => done s
  | (pa, attr, bs) :: rest =>
    if s.weirHolds (s.core c).tenancy 0 || !s.engReady c pa attr then s
    else
      match s.bindOlder c op.uids op.id pa bs.length with
      | (false, s) => s
      | (true, s) =>
        State.putBeats ((s.engStore c pa attr bs).modMx c op.id fun o => { o with pos := o.pos + 1 }) c op done rest

/-- The stores of pieces to memory, of which the operation has counted those that are made: the conditions of all the others
first (R173), with the staging room for all of them together (R339), then beat by beat. -/
def State.putGlobal (s : State) (c : Nat) (op : MxOp) (ps : List (Nat × List Byte)) (done : State → State) : State :=
  let rec check : State → List (Nat × List Byte) → List (Nat × BitVec 2 × List Byte) → State
    | s, [], acc =>
      match s.stageAll c (acc.map fun x => (x.1, x.2.2.length)) with
      | .error _ => s.failMx c op 28 []
      | .ok _ => s.putBeats c op done acc
    | s, p :: ps, acc =>
      match s.engCheck c (p.1 % 2 ^ 57) p.2.length with
      | .page va => s.holdMx c op va
      | .err k more => s.failMx c op k more
      | .off pa => { s with bad := some pa }
      | .ok pa attr s => check s ps (acc ++ [(pa, attr, p.2)])
  check s (ps.drop op.pos) []

/-- A row's bytes into a participant's registers from an entry upward (R66). Bytes of the last register that the row does not
fill keep what the register held (DESIGN CHOICE, notes/assumptions/52), and a register written in part stays poisoned
(R334). -/
def State.putRow (s : State) (c t first : Nat) (bs : List Byte) : State :=
  (List.range (cdiv bs.length 4)).foldl (fun s j =>
    let (old, poisoned) := (s.core c).entry t (first + j)
    let part := (bs.drop (4 * j)).take 4
    let v := ofBytes (part ++ (toBytes 4 old.toNat).drop part.length)
    (s.modThr c t fun th =>
      { th with win := th.win.rewrite (first + j) v (poisoned && decide (part.length < 4)) }).countTags c (posPart t) [.ofNat 32 v]) s

/-- ACCST or QNT writes its tile (R67, R178, R179). -/
def State.retireOut (s : State) (c : Nat) (op : MxOp) (cs d : Slot) : State :=
  let quant := op.kind == .qnt
  let hdr := outHdr quant cs.h d.h
  let out := if d.kind = 2 then hdr.byRow else hdr
  let base := bindAcc cs.bind
  match (s.core c).accPoison base (cs.h.rows * cs.h.cols) with
  | some w => s.poisonMx c op [3, wd w, 0]
  | none =>
    let (seed, s) := s.draw
    let (lines, scales) := outBytes quant op.mode out (fun l => (Config.freeWord seed l).toNat)
      ((s.core c).outLines cs.h out base (rndOf op.mode).fzi)
    let n := sumBy List.length lines + scales.length
    let done (s : State) : State := (s.putHeader c op.dstNum d.bind hdr).endMx c op n 0
    if d.kind = 2 then
      let s := (op.uids.zip op.ents).foldl (fun s e =>
        match (s.core c).byUid e.1 with
        | some (t, _) => if posLane t < out.rows then s.putRow c t e.2 (lines.getD (posLane t) []) else s
        | none => s) s
      done s
    else
      let data := (List.range lines.length).flatMap fun l => out.placeLine d.loc out.pitch l (lines.getD l [])
      let at_ := headAt d.loc out.soff
      let side := (linePieces (scales.length / 128 + 2) at_ scales.length).map fun p =>
        (p.1, (scales.drop (p.1 - at_)).take p.2)
      if d.kind = 1 then done (s.modCore c (·.putTile out.swz data side))
      else s.putGlobal c op (data ++ side) done

/-- MMA or MMAZ writes its results whole and is charged (R54, R56, R176, R244, R333). -/
def State.retireMma (s : State) (c : Nat) (op : MxOp) (a cs : Slot) (w : Hdr) (ws : List (List Nat)) : State :=
  let base := bindAcc cs.bind
  let n := a.h.rows * w.cols
  match (if op.kind = .mma then (s.core c).accPoison base n else none) with
  | some p => s.poisonMx c op [3, wd p, 0]
  | none =>
    let k := s.core c
    let res := mmaResults op.mode a.h w op.elems ws fun i => if op.kind = .mma then k.acc (base + i) else 0
    let units := cdiv op.estimate 1024
    let s := if op.retried then s.modCore c fun k => { k with ercore := ercoreCorr k.ercore } else s
    let s := s.modCore c (·.putAccs base res)
    let s := if op.kind = .mmaz then s.putHeader c op.dstNum cs.bind (cisternHdr (intPath a.h w) a.h.rows w.cols) else s
    let s := (s.charge (s.core c).tenancy 5 units).bump c op.part 35 units
    let s := op.uids.foldl (fun s u =>
      match (s.core c).byUid u with
      | some (t, _) => s.modThr c t fun th => { th with mxUnits := wd units }
      | none => s) s
    s.endMx c op 0 units

/-- ACCLD: the values of a tile's elements as accumulators (R178). An integer outside I32 leaves a free value
(notes/assumptions/5). -/
def accldValues (h : Hdr) (seed : Nat) (elems : List (List Nat)) : List Nat :=
  let int := efmtInt h.efmt && h.sfmt == 0
  let flat := elems.flatten
  (List.range flat.length).map fun j =>
    let x := h.value false (flat.getD j 0)
    if int then
      let v := x.toInt
      if v < 2 ^ 31 then modInt 32 v else (Config.freeWord seed j).toNat
    else fp32.round Rnd.none x

/-- A mismatch of the macros' residue checkers (R333): the first computes the operation again, the second is an
error. -/
def State.macroUpset (s : State) (c : Nat) (op : MxOp) : State :=
  let s := { s with upset := none }
  if op.retried then
    let s := s.modCore c fun k =>
      { k with ercore := if k.ercore.toNat / 2 ^ 16 % 256 = 0xFF then k.ercore else k.ercore + 0x10000 }
    s.errMx c op { kind := 7, arg := wd op.srcNum, more := [] }
  else s.modMx c op.id fun o => { o with retried := true }

/-- The effect of an operation that has been arbitrated and has its inputs. -/
def State.retireMx (s : State) (c : Nat) (op : MxOp) : State :=
  match op.kind, op.src, op.dst with
  | .wsw, _, _ => (s.modCore c fun k => { k with active := !k.active }).endMx c op 0 0
  | .accz, some cs, _ =>
    (s.modCore c (·.putAccs (bindAcc cs.bind) (List.replicate (cs.h.rows * cs.h.cols) 0))).endMx c op 0 0
  | .wld, some sl, _ =>
    let b := Bank.ready sl.hdr sl.bind op.elems
    (s.modCore c fun k => if k.active then { k with bank0 := b } else { k with bank1 := b }).endMx c op 0 0
  | .accld, some sl, some cs =>
    let (seed, s) := s.draw
    let int := efmtInt sl.h.efmt && sl.h.sfmt == 0
    let s := s.modCore c (·.putAccs (bindAcc cs.bind) (accldValues sl.h seed op.elems))
    (s.putHeader c op.dstNum cs.bind (cisternHdr int sl.h.rows sl.h.cols)).endMx c op 0 0
  | .accst, some cs, some d | .qnt, some cs, some d => s.retireOut c op cs d
  | .mma, some a, some cs | .mmaz, some a, some cs =>
    if s.upset.any fun u => decide (3 ≤ u.1) then s.macroUpset c op
    else
      match (s.core c).activeBank with
      | .ready w _ ws => s.retireMma c op a cs (Hdr.of w) ws
      | .empty => s.errMx c op { kind := 30, arg := wd op.srcNum, more := [1] }
  | _, _, _ => s.endMx c op 0 0

/-- MATRIX_RETIRE (R176): a head that has met an error retires with it (R173); else the arbitrated operation writes its
results whole, is charged and retires. -/
def execMatrixRetire (core : Nat) (s : State) : Host.Outcome State Fault Refusal :=
  let k := s.core core
  let failed := (List.range 4).findSome? fun p => (k.mxHead p).bind fun o => o.err.map fun e => (o, e)
  match failed with
  | some (op, e) => .next (s.errMx core op e)
  | none =>
    match k.mxq.find? fun o => o.running && o.held.isNone && (!o.fetches || o.fetched) with
    | some op => .next (s.retireMx core op)
    | none => .next s

end Sys2Proof.Machine
end

