-- ==== Sys2Proof/Machine/Sched.lean ====
section
/-! DEFINITION. The schedulers of the tenancies: launch records and their queues, eligibility, priority and DWRR,
placement with its catch rings and dispenser, the end of contexts, commit, retirement and successors (R282..R292,
R320..R322, R340, R341, R374, R375). -/

namespace Sys2Proof.Machine

/-! ### What the scheduler reports and writes (R283, R308, R374) -/

/-- A launch-record record: class 2 kind 4 with the cause (R308). -/
def State.launchRec (s : State) (ten cause va : Nat) : State := (s.sendRec ten (plainRec 2 4 [wd cause] va)).2

/-- A page-fault record of a scheduler access: class 2 kind 1 (R374). -/
def State.schedPage (s : State) (ten va : Nat) : Word × State := s.sendRec ten (plainRec 2 1 [] va)

/-- Writes a field of a launch record; a write that cannot be made is reported with cause 14 and skipped (R374). -/
def State.recWrite (s : State) (ten record o : Nat) (bytes : List Byte) : State :=
  let s := s.walkFill ten (record + o)
  match s.walkFor ten (record + o) .store with
  | .ok e => s.homeWrite [] (e.pa (record + o)) e.attr bytes
  | .off pa => { s with bad := some pa }
  | _ => s.launchRec ten 14 record

/-- The agent of a scheduler's step on an object: it acts at the object's home die. -/
def State.schedAgent (s : State) (ten va : Nat) : Agent :=
  { ten, core := none, pos := none, die := match s.walkFor ten va .helped with | .ok e => homeDie (e.pa va) | _ => 0 }

/-- Holds a queue, or the table as queue 64, on a page fault (R374). -/
def State.holdQueue (s : State) (ten n va : Nat) : State :=
  let (tok, s) := s.schedPage ten va
  s.modTen ten fun x => { x with qholds := tset x.qholds n (.page va tok) }

/-- A queue whose table entry, descriptor or pop is refused: reported once with cause 13 (R374). -/
def State.refuseQueue (s : State) (ten n va : Nat) : State :=
  (s.launchRec ten 13 va).modTen ten fun x => { x with qholds := tset x.qholds n .refused }

/-! ### Nodes -/

/-- The links that a shape stitches in a gang of g cores, by gang index: 1 ring, 2 tree, 3 torus of two rows (R320). -/
def shapeLinks (shape g : Nat) : List (Nat × Nat) :=
  let ring := (List.range g).map fun k => (k, (k + 1) % g)
  match shape with
  | 1 => ring
  | 2 => ((List.range g).filter (· != 0)).map fun k => (k, (k - 1) / 2)
  | 3 =>
    if g = 8 ∨ g = 4 then
      let n := g / 2
      (List.range g).flatMap fun k => [(k, k / n * n + (k + 1) % n), (k, (k + n) % g)]
    else ring
  | _ => []

/-- The links of the stitched plane, by core (R320). -/
def State.stitchedLinks (s : State) : List (Nat × Nat) :=
  s.stitched.flatMap fun n =>
    match tget? s.nodes n with
    | some nd => if nd.gang ≤ 1 then [] else (shapeLinks nd.shape nd.gang).map fun e => (nd.cores.getD e.1 0, nd.cores.getD e.2 0)
    | none => []

/-- Whether traffic of a class between two cores goes over the stitched plane: classes 2..7, within one gang (R320). -/
def State.onStitched (s : State) (cls a b : Nat) : Bool :=
  decide (2 ≤ cls) && s.stitched.any fun n =>
    match tget? s.nodes n with | some nd => nd.cores.contains a && nd.cores.contains b | none => false

/-- A node leaves the scheduler's tables: its stitching is removed, and it counts as retired or failed for R287. -/
def State.dropNode (s : State) (num : Nat) : State :=
  match tget? s.nodes num with
  | none => s
  | some nd =>
    let s := s.modTen nd.ten fun x =>
      { x with lastPop := x.lastPop.filter fun e => e.2 != num
               heads := x.heads.map fun e => (e.1, e.2.filter (· != num)) }
    { s with nodes := tdel s.nodes num, stitched := s.stitched.filter (· != num) }.signal nd.ten

/-- The head of a queue has been placed or has failed: what remains is to pop its element, unless it was re-queued. -/
def State.dueToPop (s : State) (ten n : Nat) : State :=
  s.modTen ten fun x => { x with popDue := if x.popDue.contains n then x.popDue else n :: x.popDue }

/-- A head fails (R283): state 5, the cause, the record; it is then popped, and it is the record popped before the next head
(R287). -/
def State.failNode (s : State) (num cause : Nat) : State :=
  match tget? s.nodes num with
  | none => s
  | some nd =>
    let s := s.recWrite nd.ten nd.record 28 [5]
    let s := s.recWrite nd.ten nd.record 30 (toBytes 1 cause)
    let s := s.launchRec nd.ten cause nd.record
    let s := if nd.requeued then s
      else (s.modTen nd.ten fun x => { x with lastPop := tdel x.lastPop nd.queue }).dueToPop nd.ten nd.queue
    s.dropNode num

/-- The first failed check of a launch record (R283). -/
def recordCause (b : List Byte) : Option Nat :=
  let f (o n : Nat) : Nat := fieldAt b o n
  let succ := [f 40 8, f 48 8, f 56 8, f 64 8]
  let reserved := f 21 3 != 0 || f 31 1 != 0 || (b.drop 80).any (· != 0)
  if reserved || decide (8 ≤ f 17 1) || decide (4 ≤ f 18 1) || decide (32 ≤ f 19 1)
      || succ.any (fun w => decide (2 ^ 57 ≤ w) || w / 64 % 4 != 0) || decide (2 ^ 57 ≤ f 32 8) || decide (2 ^ 57 ≤ f 72 8)
    then some 1
  else if f 0 8 % 4 ≠ 0 ∨ 2 ^ 57 ≤ f 0 8 then some 2
  else if f 16 1 = 0 ∨ 8 < f 16 1 then some 3
  else if 4 ≤ f 20 1 then some 4
  else if f 12 4 = 0 ∨ 0xFFFFFFFF < f 8 4 + f 12 4 then some 5
  else if f 32 8 % 256 ≠ 0 ∨ f 72 8 % 256 ≠ 0 then some 6
  else if f 18 1 = 0 ∧ f 17 1 / 4 % 2 = 0 then some 11
  else none

/-- The node of a record that has reached the head of its queue (R282). -/
def nodeOfRecord (b : List Byte) (ten n record : Nat) : Node :=
  { record, ten, queue := n, entry := BitVec.ofNat 57 (fieldAt b 0 8), first := wd (fieldAt b 8 4)
    count := wd (fieldAt b 12 4), gang := fieldAt b 16 1, flags := fieldAt b 17 1, tmpl := fieldAt b 18 1
    win := fieldAt b 19 1, shape := fieldAt b 20 1, trap := wd (fieldAt b 24 4), pred := fieldAt b 32 8
    succ := ([40, 48, 56, 64].map fun o => BitVec.ofNat 64 (fieldAt b o 8)).filter (· != 0)
    disp := fieldAt b 72 8, attempts := fieldAt b 29 1, cores := [], staged := [], commits := [], arrivals := []
    placing := false, placed := false, requeued := false, retired := false, failed := false, fell := (0, []), waiting := none
    saved := false }

/-! ### Queues and their heads (R285, R286) -/

/-- An entry of the queue table (R285). -/
structure QEntry where
  n      : Nat
  queue  : Nat
  prio   : Nat
  weight : Nat
deriving DecidableEq, Repr

/-- The entries of a queue table that are in use, enabled and of nonzero weight. -/
def queueEntries (b : List Byte) : List QEntry :=
  (List.range 64).filterMap fun n =>
    let q := fieldAt b (16 * n) 8
    let ctl := fieldAt b (16 * n + 8) 1
    let w := fieldAt b (16 * n + 9) 1
    if q ≠ 0 ∧ bitOf ctl 7 ∧ w ≠ 0 then some { n, queue := q, prio := ctl % 8, weight := w } else none

/-- What the descriptor of a queue shows at its head: nothing, an element, or an access that fails (R374). -/
inductive Peek where
  | empty
  | elem (v : Nat)
  | page (va : Nat)
  | refused (va : Nat)
  | off (pa : Nat)
deriving DecidableEq, Repr

/-- Reads the head element of a queue. -/
def State.peekHead (s : State) (ten q : Nat) : Peek :=
  if 2 ^ 57 ≤ q ∨ q % 256 ≠ 0 then .refused q
  else
    match s.walkFor ten q .load with
    | .page => .page q
    | .off pa => .off pa
    | .access _ => .refused q
    | .ok e =>
      let ob := s.memRead (e.pa q) 256
      let head := fieldAt ob 192 8
      if obKind ob ≠ 3 ∨ bitOf (obFlags ob) 0 ∨ obCap ob = 0 then .refused q
      else if fieldAt ob 200 8 = head then .empty
      else
        let va := (q + 256 + 8 * (head % obCap ob)) % 2 ^ 57
        match s.walkFor ten va .load with
        | .page => .page va
        | .off pa => .off pa
        | .access _ => .refused va
        | .ok e => .elem (ofBytes (s.memRead (e.pa va) 8))

/-- The controllers of what peekHead reads correct it first (R336). -/
def State.peekFill (s : State) (ten q : Nat) : State :=
  let s := s.viewFill ten q 256
  match s.walkFor ten q .load with
  | .ok e =>
    let ob := s.memRead (e.pa q) 256
    s.viewFill ten ((q + 256 + 8 * (fieldAt ob 192 8 % obCap ob)) % 2 ^ 57) 8
  | _ => s

/-- Pops the head element with an announced POP (R286); false where it is held or refused. -/
def State.popHead (s : State) (ten n q : Nat) : Bool × State :=
  match s.ownOp (s.schedAgent ten q) (.pop ten q) q 2 0 with
  | .ok (_, _, _, s) => (true, s.modTen ten fun x => { x with popDue := x.popDue.filter (· != n) })
  | .error (.page va, s) => (false, s.holdQueue ten n va)
  | .error (.wait, s) => (false, s.signal ten)
  | .error (.off pa, s) => (false, { s with bad := some pa })
  | .error (_, s) => (false, s.refuseQueue ten n q)

/-- A head element whose record is not used: with its record field writes done, it is reported and popped (R283). -/
def State.badHead (s : State) (ten n cause va : Nat) : State :=
  ((s.launchRec ten cause va).modTen ten fun x => { x with lastPop := tdel x.lastPop n }).dueToPop ten n

/-- The head node of queue n, read from its element when it has just come to the head (R282, R283, R374). -/
def State.lookHead (s : State) (ten n q : Nat) : Nat → Option Nat × State
  | 0 => (none, s.signal ten)
  | fuel + 1 =>
    let x := s.ten ten
    if (tget? x.qholds n).isSome then (none, s)
    else if x.popDue.contains n then
      match s.popHead ten n q with
      | (true, s) => s.lookHead ten n q fuel
      | (false, s) => (none, s)
    else
      match tget [] x.heads n with
      | h :: _ => (some h, s)
      | [] =>
        let s := s.peekFill ten q
        match s.peekHead ten q with
        | .empty => (none, s)
        | .page va => (none, s.holdQueue ten n va)
        | .refused va => (none, s.refuseQueue ten n va)
        | .off pa => (none, { s with bad := some pa })
        | .elem v =>
          if v % 128 ≠ 0 then (s.badHead ten n 10 v).lookHead ten n q fuel
          else if 2 ^ 57 ≤ v then (s.badHead ten n 13 v).lookHead ten n q fuel
          else
            let s := s.viewFill ten v 112
            match s.walkFor ten v .load with
            | .page => (none, s.holdQueue ten n v)
            | .off pa => (none, { s with bad := some pa })
            | .access _ => (s.badHead ten n 13 v).lookHead ten n q fuel
            | .ok e =>
              let s := s.syncDie (homeDie (e.pa v))
              let b := s.memRead (e.pa v) 112
              match recordCause b with
              | some k =>
                let s := s.recWrite ten v 28 [5]
                let s := s.recWrite ten v 30 (toBytes 1 k)
                (s.badHead ten n k v).lookHead ten n q fuel
              | none =>
                let (seed, s) := s.draw
                let s := { s with nodes := tset s.nodes (seed + 1) (nodeOfRecord b ten n v) }
                let s := s.modTen ten fun x => { x with heads := tset x.heads n [seed + 1] }
                (some (seed + 1), s.recWrite ten v 28 [1])

/-! ### Eligibility (R287) -/

/-- The contexts of a node: on their cores, or saved. -/
def State.contextsOf (s : State) (num : Nat) (nd : Node) : List Core :=
  if nd.saved then (s.saves.filter (·.node == num)).map (·.core)
  else (nd.cores.map s.core).filter fun k => k.ctx.any (·.node == num)

/-- Whether a core has stamped the last item of its share (R222). -/
def Core.allStamped (k : Core) : Bool :=
  k.ctx.any (·.frozen) && match tget? k.p0.tmpls 0 with | some x => decide (x.total ≤ x.next) | none => true

/-- Whether a placed node has no unplaced work (R287 item 2). -/
def State.noUnplaced (s : State) (num : Nat) (nd : Node) : Bool :=
  nd.placed && (nd.flag 2 || (s.contextsOf num nd).all Core.allStamped)

/-- Whether COMPLETE is set on a JOIN; one that cannot be read is not complete. -/
def State.joinComplete (s : State) (ten va : Nat) : Bool :=
  match s.walkFor ten va .load with
  | .ok e => obKind (s.memRead (e.pa va) 2) == 4 && bitOf (obFlags (s.memRead (e.pa va) 2)) 1
  | _ => false

/-- Items 1 and 2 of R287. -/
def State.headOk (s : State) (nd : Node) : Bool :=
  (nd.pred == 0 || s.joinComplete nd.ten nd.pred)
    && (nd.requeued ||
      match (tget? (s.ten nd.ten).lastPop nd.queue).bind fun m => (tget? s.nodes m).map fun p => (m, p) with
      | none => true
      | some (m, p) => p.retired || (nd.flag 1 && s.noUnplaced m p))

/-- Cascades of a tenancy in ascending order; one withheld at start belongs to none (R293, R365). -/
def State.cascadesOf (s : State) (ten : Nat) : List Nat :=
  (List.range 24).filter fun c => bitOf (s.ten ten).ctl.toNat c && !s.withheld.contains c

/-- Cores of a cascade that hold no context. -/
def State.freeCores (s : State) (cascade : Nat) : List Nat :=
  ((List.range 8).map (8 * cascade + ·)).filter fun c => (s.core c).ctx.isNone

/-- Item 3 of R287, and step 1 of R289: the cores of the gang. -/
def State.chooseCores (s : State) (ten gang : Nat) : Option (List Nat) :=
  ((s.cascadesOf ten).map s.freeCores).findSome? fun l => if gang ≤ l.length then some (l.take gang) else none

/-! ### Catch rings at placement (R321, R322) -/

/-- An enabled entry of the ring table. -/
structure RingEntry where
  cb       : Nat
  base     : Nat
  size     : Nat
  handle   : Nat
  receiver : Nat
  sender   : Nat
deriving DecidableEq, Repr

/-- The enabled entries of the tenancy's ring table (R321). -/
def State.ringTable (s : State) (ten : Nat) : List RingEntry :=
  let r := (s.ten ten).ring.toNat
  match s.tableBytes ten (bits r 56 8 * 256) 256 with
  | none => []
  | some b =>
    (List.range (min 16 (bits r 4 0))).filterMap fun n =>
      let f (o k : Nat) : Nat := fieldAt b (16 * n + o) k
      if bitOf (f 14 1) 7 then
        some { cb := f 0 4, base := f 4 4, size := f 8 4, handle := f 12 2, receiver := f 14 1 % 8, sender := f 14 1 / 8 % 8 }
      else none

/-- Whether an entry fails a check of its own (R321). -/
def RingEntry.bad (e : RingEntry) (gang : Nat) : Bool :=
  e.cb % 32 != 0 || e.base % 128 != 0
    || decide (e.size < 256) || decide (0x40000 < e.size) || 2 ^ Nat.log2 e.size != e.size
    || decide (Config.spBytes < e.base + e.size) || decide (Config.spBytes < e.cb + 32)
    || (decide (e.cb < e.base + e.size) && decide (e.base < e.cb + 32))
    || decide (gang ≤ e.receiver) || decide (gang ≤ e.sender)

/-- Whether two entries clash (R321). -/
def RingEntry.clash (a b : RingEntry) : Bool :=
  (a.sender == b.sender && a.handle == b.handle) || (a.receiver == b.receiver && a.cb == b.cb)

/-- Whether an entry of the table fails the binding checks: cause 7. -/
def badRings (gang : Nat) : List RingEntry → Bool
  | [] => false
  | e :: l => e.bad gang || l.any e.clash || badRings gang l

/-- The control block that binding writes (R322). -/
def RingEntry.block (e : RingEntry) : List Byte :=
  toBytes 4 e.base ++ toBytes 4 e.size ++ toBytes 12 0 ++ toBytes 2 e.handle ++ [2] ++ toBytes 1 e.sender ++ toBytes 8 0

/-- Binds an entry for the gang on the listed cores (R322). -/
def State.bindRing (s : State) (cores : List Nat) (e : RingEntry) : State :=
  let r : Ring := { cb := e.cb, base := e.base, size := e.size, handle := e.handle, sender := e.sender
                    receiver := e.receiver, armEntry := 0 }
  let rc := cores.getD e.receiver 0
  let sc := cores.getD e.sender 0
  let s := s.modCore rc fun k =>
    { k.spPut e.cb e.block with
      attrs := tset k.attrs (e.cb / 128) { k.lineAttr (e.cb / 128) with own := true }
      rings := k.rings ++ [r] }
  s.modCore sc fun k =>
    { k with credits := tset k.credits e.handle e.size, rings := if sc = rc then k.rings else k.rings ++ [r] }

/-! ### Placement (R289) -/

/-- The context of gang index k on core c, with its prologue thread (R28, R30, R232, R289). -/
def State.startCtx (s : State) (num : Nat) (nd : Node) (c k : Nat) : State :=
  let (seed, s) := s.draw
  let s := s.modCore c fun q =>
    { q.clear.startIntervals (s.intervalEnd nd.ten) with
      ctx := some { node := num, index := k, ten := nd.ten, region := entryRegion nd.entry, started := true, frozen := false } }
  s.newThread c 0 (entryPc nd.entry) (entryRegion nd.entry) (Window.launch (8 * (nd.win + 1)) (.free seed)) .ready

/-- The XCHG on the dispenser (R289 step 3): refused where disp names no COUNTER (R374). -/
def State.dispense (s : State) (num : Nat) (nd : Node) : HRes State := do
  if nd.disp = 0 then .ok s
  else
    let ag := s.schedAgent nd.ten nd.disp
    let (_, _, ob, s) ← s.hobject ag nd.disp
    if obKind ob ≠ 1 then .error (.fault 4 0, s)
    else
      let (_, _, _, s) ← s.ownOp ag (.dispense num) nd.disp 2 nd.first.toNat
      .ok s

/-- How a placement ends: placed, failed, or waiting. -/
inductive Placed where
  | ok (s : State)
  | failed (s : State)
  | wait (s : State)

/-- Steps 4 and 5 of R289: contexts with their rings, then the record. -/
def State.startGang (s : State) (num : Nat) (nd : Node) (cores : List Nat) (rings : List RingEntry) : State :=
  let s := s.modNode num fun nd =>
    { nd with cores, placed := true, requeued := false, attempts := nd.attempts + 1, arrivals := nd.succ }
  let s := cores.foldl (fun s c => s.syncDie (dieOf c)) s
  let s := ((List.range cores.length).zip cores).foldl (fun s e => s.startCtx num nd e.2 e.1) s
  let s := rings.foldl (fun s e => s.bindRing cores e) s
  let s := s.recWrite nd.ten nd.record 29 (toBytes 1 (nd.attempts + 1))
  let s := s.recWrite nd.ten nd.record 112 (toBytes 8 s.time.toNat)
  let s := s.recWrite nd.ten nd.record 28 [3]
  let s := s.modTen nd.ten fun x =>
    { x with heads := tset x.heads nd.queue ((tget [] x.heads nd.queue).filter (· != num))
             lastPop := tset x.lastPop nd.queue num }
  if nd.requeued then s else s.dueToPop nd.ten nd.queue

/-- Places head node num on the chosen cores (R289, R320, R321, R374). -/
def State.place (s : State) (num : Nat) (nd : Node) (cores : List Nat) : Placed :=
  let s := if nd.placing then s
    else (s.recWrite nd.ten nd.record 28 [2]).modNode num fun nd => { nd with placing := true }
  let s := s.viewFill nd.ten (bits (s.ten nd.ten).ring.toNat 56 8 * 256) 256
  let rings := s.ringTable nd.ten
  if badRings nd.gang rings then .failed (s.failNode num 7)
  else
    let s := if nd.shape = 0 ∨ s.stitched.contains num then s else { s with stitched := num :: s.stitched }
    match s.dispense num nd with
    | .ok s => .ok (s.startGang num nd cores rings)
    | .error (.page va, s) =>
      let (tok, s) := s.schedPage nd.ten va
      .wait (s.modNode num fun nd => { nd with waiting := some (va, tok) })
    | .error (.wait, s) => .wait (s.signal nd.ten)
    | .error (.off pa, s) => .wait { s with bad := some pa }
    | .error (_, s) => .failed (s.failNode num 12)

/-! ### Priority and DWRR (R288) -/

def Tenancy.deficit (x : Tenancy) (n : Nat) : Nat := tget 0 x.deficits n

def State.setDeficit (s : State) (ten n d : Nat) : State :=
  s.modTen ten fun x => { x with deficits := tset x.deficits n d }

/-- The head of a queue that satisfies items 1 and 2 of R287. -/
def State.okHead (s : State) (ten : Nat) (e : QEntry) : Option (Nat × Node) × State :=
  match s.lookHead ten e.n e.queue 64 with
  | (none, s) => (none, s)
  | (some h, s) =>
    match tget? s.nodes h with
    | some nd =>
      let s := if nd.pred = 0 then s else s.viewFill ten nd.pred 2
      (if s.headOk nd then some (h, nd) else none, s)
    | none => (none, s)

/-- Places heads of a queue while they are eligible and the deficit covers them; whether an eligible head is left. -/
def State.placeHeads (s : State) (ten : Nat) (e : QEntry) : Nat → Bool × State
  | 0 => (true, s)
  | fuel + 1 =>
    match s.okHead ten e with
    | (none, s) => (false, s)
    | (some (h, nd), s) =>
      if nd.waiting.isSome then (false, s)
      else
        match s.chooseCores ten nd.gang with
        | none => (false, s)
        | some cores =>
          let d := (s.ten ten).deficit e.n
          if d < nd.gang then (true, s)
          else
            match s.place h nd cores with
            | .ok s => (s.setDeficit ten e.n (d - nd.gang)).placeHeads ten e fuel
            | .failed s => s.placeHeads ten e fuel
            | .wait s => (false, s)

/-- One visit of a queue (R288): one that is held, or whose last head is still to be popped, is not considered and keeps its
deficit (R374). -/
def State.visit (s : State) (ten : Nat) (e : QEntry) : Bool × State :=
  match s.okHead ten e with
  | (none, s) =>
    let x := s.ten ten
    (false, if (tget? x.qholds e.n).isSome ∨ x.popDue.contains e.n then s else s.setDeficit ten e.n 0)
  | (some _, s) => (s.setDeficit ten e.n ((s.ten ten).deficit e.n + e.weight)).placeHeads ten e 256

/-- Rounds of visits of the queues of one priority, while one of them has an eligible head. -/
def State.rounds (s : State) (ten : Nat) (es : List QEntry) : Nat → State
  | 0 => s.signal ten
  | fuel + 1 =>
    let go (acc : Bool × State) (e : QEntry) : Bool × State :=
      let (a, s) := acc.2.visit ten e
      (acc.1 || a, s)
    match es.foldl go (false, s) with
    | (true, s) => s.rounds ten es fuel
    | (false, s) => s

/-- Whether a queue of the list has a head that satisfies items 1 and 2. -/
def State.blocks (s : State) (ten : Nat) (es : List QEntry) : Bool := es.any fun e => (s.okHead ten e).1.isSome

/-- The priorities from p downward: a lower one is served only where no higher one has such a head (R288). -/
def State.serve (s : State) (ten : Nat) (es : List QEntry) : Nat → State
  | 0 => s
  | p + 1 =>
    let mine := es.filter (·.prio == p)
    let s := if mine.isEmpty then s else s.rounds ten mine 256
    if s.blocks ten mine then s else s.serve ten es p

/-- The lines of a queue table, for the writes that signal the scheduler. -/
def State.watchTable (s : State) (ten pa : Nat) : State :=
  let mine := (List.range 8).map fun k => (pa / 128 + k, ten, 8 * k)
  { s with qwatch := mine ++ s.qwatch.filter fun w => w.2.1 != ten }

/-- The scheduler of a tenancy considers its queues (R285, R288, R374, R375). -/
def State.consider (s : State) (ten : Nat) : State :=
  let x := s.ten ten
  if !bitOf x.ctl.toNat 30 || (tget? x.qholds 64).isSome then s
  else
    let q := bits x.qtab.toNat 56 0
    let s := s.viewFill ten q 1024
    let s := match s.walk ten q with | .ok e => s.watchTable ten (e.pa q) | _ => s
    match s.walkFor ten q .load with
    | .page => s.holdQueue ten 64 q
    | .off pa => { s with bad := some pa }
    | .access _ => s.refuseQueue ten 64 q
    | .ok e => s.serve ten (queueEntries (s.memRead (e.pa q) 1024)) 8

/-- Every signalled scheduler considers its queues; a signal raised meanwhile waits for the next step. -/
def State.considerAll (s : State) : State :=
  if s.signals.isEmpty then s else s.signals.foldl State.consider { s with signals := [] }

/-! ### The end of contexts (R194, R278, R292) -/

/-- Whether nothing of a context is left to run: no thread, bin, template or waiting item. -/
def Core.spent (k : Core) : Bool :=
  k.threads.isEmpty && k.backlog.isEmpty
    && (List.range 4).all fun p => (k.part p).bins.isEmpty && (k.part p).tmpls.isEmpty

/-- Whether the engines of a core have retired everything, and its stores are applied. -/
def Core.quiet (k : Core) : Bool :=
  k.late.isEmpty && k.mxq.isEmpty && k.copies.isEmpty && k.closing.isEmpty && k.ghosts.isEmpty && k.colls.all fun x => !x.counts

/-- Whether a continuation is on its way to a core. -/
def State.expects (s : State) (c : Nat) : Bool :=
  s.msgs.any fun m => match m with | .continuation core .. => core == c | _ => false

/-- The contexts that have ended leave their cores. -/
def State.endContexts (s : State) : State :=
  s.cores.foldl (fun s e =>
    match e.2.ctx with
    | none => s
    | some x =>
      if x.started && !e.2.draining && e.2.spent && e.2.quiet && !s.expects e.1 then
        ({ s.modCore e.1 Core.clear with msgs := s.msgs.filter fun m => !m.of s.device.toNat e.1 }).signal x.ten
      else s) s

/-! ### Commit, retirement and successors (R292, R340, R374) -/

/-- Runs of staged bytes of a line, as addresses and bytes. -/
def stagedRuns (a : Nat) : List (Option Byte) → List (Nat × List Byte)
  | [] => []
  | none :: l => stagedRuns (a + 1) l
  | some b :: l =>
    match stagedRuns (a + 1) l with
    | (x, bs) :: rs => if x = a + 1 then (a, b :: bs) :: rs else (a, [b]) :: (x, bs) :: rs
    | [] => [(a, [b])]

/-- Applies a node's staged lines as stores of its gang's die, in ascending order; false while an ATOMIC one must wait
(R267, R340). -/
def State.commitStaged (s : State) (num die : Nat) : Tbl (List (Option Byte)) → Bool × State
  | [] => (true, s.modNode num fun nd => { nd with staged := [] })
  | (line, l) :: rest =>
    let attr := s.attrOf (line * 128)
    if attr = 1 ∧ s.atomicReady die (line * 128) = false then
      (false, s.modNode num fun nd => { nd with staged := (line, l) :: rest })
    else
      let put (s : State) (r : Nat × List Byte) : State :=
        let (tag, s) := s.draw
        (s.fillSectors r.1 r.2.length).dieStore die r.1 attr r.2 tag
      ((stagedRuns (line * 128) l).foldl put s).commitStaged num die rest

/-- Announces the operation of a record, with help while its ring is full (R160, R166). -/
def State.announceRecord (s : State) (ag : Agent) (va : Nat) : Nat → HRes State
  | 0 => .error (.wait, s)
  | fuel + 1 => do
    let (t, s) ← s.announce ag va
    if t ≠ 0 then .ok s
    else
      let (_, _, r, s) ← s.hrecord ag va .helped none
      let (_, s) ← s.applyStep ag (fieldAt r 8 8)
      s.announceRecord ag va fuel

/-- Passes for an object and a ticket until it has been applied (R162). -/
def State.runPasses (s : State) (ag : Agent) (obj tick : Nat) : Nat → HRes State
  | 0 => .error (.wait, s)
  | fuel + 1 => do
    let (done, _, s) ← s.runPass ag obj tick
    if done then .ok s else s.runPasses ag obj tick fuel

/-- Runs the operation of an announced record to its end (R162, R166). -/
def State.runRecord (s : State) (ag : Agent) (va : Nat) (fuel : Nat) : HRes State := do
  match ← s.runStart ag va with
  | (none, s) => .ok s
  | (some (obj, tick), s) => s.runPasses ag obj tick fuel

/-- How a part of a retirement ends: it goes on, or it waits with the state it has reached. -/
abbrev Stage := Except State State

/-- A scheduler access at retirement that fails: a page fault is held; a refusal goes on with what on gives. -/
def State.stageFail (s : State) (num : Nat) (nd : Node) (e : HErr) (on : State → State) : Stage :=
  match e with
  | .page va =>
    let (tok, s) := s.schedPage nd.ten va
    .error (s.modNode num fun nd => { nd with waiting := some (va, tok) })
  | .wait => .error s
  | .off pa => .error { s with bad := some pa }
  | _ => .ok (on s)

/-- The deferred operations of a committing node, in order (R166, R340). A record whose operation the commit has announced
stands in the list as its address + 2^57. -/
def State.commitOps (s : State) (num : Nat) (nd : Node) (die : Nat) : List Nat → Stage
  | [] => .ok s
  | va :: l =>
    let left (s : State) (l : List Nat) : State := s.modNode num fun nd => { nd with commits := l }
    let ag : Agent := { ten := nd.ten, die, core := none, pos := none }
    let go : HRes State := do
      let s ← if 2 ^ 57 ≤ va then .ok s
        else do
          let s ← s.announceRecord ag va 64
          .ok (left s ((va + 2 ^ 57) :: l))
      s.runRecord ag (va % 2 ^ 57) 64
    match go with
    | .ok s => (left s l).commitOps num nd die l
    | .error (e, s) => do
      let s ← s.stageFail num nd e fun s => left s l
      s.commitOps num nd die l

/-- The arrivals at the successors, in order (R292, R374). -/
def State.arrive (s : State) (num : Nat) (nd : Node) (die : Nat) : List DWord → Stage
  | [] => .ok s
  | w :: l =>
    let va := bits w.toNat 56 8 * 256
    let ag : Agent := { ten := nd.ten, die, core := none, pos := none }
    let next (s : State) : State := s.modNode num fun nd => { nd with arrivals := l }
    let go : HRes State := do
      let (_, _, ob, s) ← s.hobject ag va
      if obKind ob ≠ 4 then .error (.fault 4 0, s)
      else
        let (_, _, _, s) ← s.ownOp ag (.arrive num l.length) va 1 (w.toNat % 64)
        .ok s
    match go with
    | .ok s => (next s).arrive num nd die l
    | .error (e, s) => do
      let s ← s.stageFail num nd e fun s => next (s.launchRec nd.ten 15 nd.record)
      s.arrive num nd die l

/-- Whether a node can retire, or go on retiring: every context of its gang has ended with its engine operations and
tile records (R181, R292). -/
def State.nodeDone (s : State) (num : Nat) (nd : Node) : Bool :=
  nd.placed && !nd.saved && !nd.failed && nd.waiting.isNone
    && (s.contextsOf num nd).isEmpty && !(s.tileRecs.any (·.node == num))

/-- State 4 and tretire (R292 step 1). -/
def State.markRetired (s : State) (num : Nat) (nd : Node) : State :=
  if nd.retired then s
  else
    let s := s.syncHomes (dieOf (nd.cores.headD 0))
    let s := s.recWrite nd.ten nd.record 120 (toBytes 8 s.time.toNat)
    let s := s.recWrite nd.ten nd.record 28 [4]
    (s.modNode num fun nd => { nd with retired := true }).signal nd.ten

/-- The retirement of a node, as far as it can go now: its staged writes, state 4, its deferred operations, whose results are
written after the node has retired, then the arrivals once every store is applied on every die (R166, R292, R340). -/
def State.retireNode (s : State) (num : Nat) (nd : Node) : Stage := do
  let die := dieOf (nd.cores.headD 0)
  match s.commitStaged num die nd.staged with
  | (false, s) => .error s
  | (true, s) => do
    let s := s.markRetired num nd
    let s ← s.commitOps num nd die nd.commits
    if nd.arrivals.isEmpty then .ok (s.dropNode num)
    else if !s.fwds.isEmpty then .error s
    else
      let s ← s.arrive num nd die nd.arrivals
      .ok (s.dropNode num)

/-- NODE_RETIRE (R292, R340, R374). -/
def execNodeRetire (node : Nat) (s : State) : Host.Outcome State Fault Refusal :=
  match tget? s.nodes node with
  | none => .next s
  | some nd =>
    if !s.nodeDone node nd then .next s
    else match s.retireNode node nd with | .ok s | .error s => .next s

/-! ### Rolled-back nodes (R341) -/

/-- The record of a node that has been rolled back: back to the head of its queue, or failed with cause 8. -/
def State.settleNode (s : State) (num : Nat) (nd : Node) : State :=
  if nd.attempts < 3 then
    let s := s.recWrite nd.ten nd.record 28 [1]
    let s := s.modNode num fun nd => { nd with failed := false, requeued := true, arrivals := [], waiting := none }
    { s with stitched := s.stitched.filter (· != num) }.modTen nd.ten fun x =>
      { x with heads := tset x.heads nd.queue (num :: tget [] x.heads nd.queue) }
  else
    let s := s.recWrite nd.ten nd.record 28 [5]
    let s := s.recWrite nd.ten nd.record 30 [8]
    (s.launchRec nd.ten 8 nd.record).dropNode num

/-- Rolled-back nodes are settled in the cycle after the rollback: a KILL of that cycle comes first (R347). -/
def State.settleNodes (s : State) : State :=
  let fellBefore (nd : Node) : Bool := nd.failed && decide (nd.fell.1 < s.cycle)
  if s.nodes.any fun e => fellBefore e.2 then
    s.nodes.foldl (fun s e => if fellBefore e.2 then s.settleNode e.1 e.2 else s) s
  else s

end Sys2Proof.Machine
end

