-- ==== Sys2Proof/Machine/Save.lean ====
section
/-! DEFINITION. Pre-emption and resumption, KILL, the tenancy reset, and the debug control register (R294, R313..R317,
R342, R343, R355). -/

namespace Sys2Proof.Machine

/-! ### KILL and the tenancy reset (R294, R342) -/

/-- The late stores of a core are applied, those to ATOMIC pages once their homes have delivered what they follow. -/
def State.flushLate (s : State) (c : Nat) : State :=
  if (s.core c).late.isEmpty then s else (s.syncHomes (dieOf c)).applyLates c 0 (s.core c).late.length

/-- A node whose contexts are ended by force: state 5 with cause 9, no record, no arrival (R294, R342). The stores of its
units that have completed are applied; the ADD of a NEXT, of a saved context too, is applied all the same (R201, R205). -/
def State.killNode (s : State) (num : Nat) (nd : Node) : State :=
  let s := nd.cores.foldl State.flushLate s
  let s := nd.cores.foldl (fun s c => if (s.core c).ctx.any (·.node == num) then s.killCore c else s) s
  let kept := s.saves.filter (·.node == num)
  let s := { s with orphans := s.orphans ++ kept.flatMap fun (v : Save) => v.core.orphaned (nd.cores.getD v.index 0) }
  let s := { s with saves := s.saves.filter (·.node != num), tileRecs := s.tileRecs.filter (·.node != num) }
  let s := s.recWrite nd.ten nd.record 28 [5]
  let s := s.recWrite nd.ten nd.record 30 [9]
  (s.resumeWatch nd.ten).dropNode num

/-- The node that has been rolled back in the cycle before, or in this one, and whose context the core held (R347). -/
def State.fallenOn (s : State) (core : Nat) : Option (Nat × Node) :=
  s.nodes.find? fun e => e.2.failed && e.2.fell.2.contains core && decide (s.cycle ≤ e.2.fell.1 + 1)

/-- KILL of CRCTL, on any core of a gang (R342). A node that has consumed poison in the same cycle fails with cause 9 (R347). -/
def execKill (core : Nat) (s : State) : Host.Outcome State Fault Refusal :=
  match s.nodeOf core with
  | none => match s.fallenOn core with | some (n, nd) => .next (s.killNode n nd) | none => .next s
  | some nd => .next (s.killNode (s.nodeNum core) nd)

/-- A core of the tenancy is scrubbed: registers, scratchpad, cistern, banks, slots, bins, wait tables, backlog,
translations, counts (R294 steps 3 and 4, R352). -/
def Core.clearCounts (k : Core) : Core :=
  let p (q : Part) : Part := { q with counts := [], counting := [], rot := 0 }
  { k with p0 := p k.p0, p1 := p k.p1, p2 := p k.p2, p3 := p k.p3 }

def Core.scrub (k : Core) : Core := k.clear.clearCounts

/-- Nodes whose contexts a reset ends: placed and not all ended, or saved. -/
def State.running? (s : State) (num : Nat) (nd : Node) : Bool :=
  nd.placed && (nd.saved || !(s.contextsOf num nd).isEmpty)

/-- What a tenancy loses with its span (R4): its cascades, its translation root, the weir's budgets and period, its fault ring.
Its policies, and the registers that R4 does not name, stay (notes/assumptions/42). -/
def Tenancy.ended (x : Tenancy) : Tenancy :=
  let z := Tenancy.reset
  { x with ctl := BitVec.ofNat 32 (x.ctl.toNat % 2 ^ 30 / 2 ^ 24 * 2 ^ 24), root := z.root, wrper := z.wrper, budgets := z.budgets
           frb := z.frb, frHead := z.frHead, frEn := z.frEn, frLsz := z.frLsz, frTail := z.frTail, frLost := z.frLost
           frHeld := z.frHeld, frOver := z.frOver, token := z.token, used := [], deficits := [], sluices := [], replays := []
           inv := BitVec.ofNat 64 (x.inv.toNat % 2 ^ 63) }

/-- The tenancy reset (R4, R294). Its steps are one step of the model, so RST reads 0 after it. -/
def State.resetTenancy (s : State) (ten : Nat) : State :=
  let s := s.modTen ten fun x => { x with ctl := BitVec.ofNat 32 (x.ctl.toNat % 2 ^ 30) }
  let s := s.nodes.foldl (fun s e =>
    if e.2.ten = ten ∧ s.running? e.1 e.2 then s.killNode e.1 e.2 else s) s
  let own (c : Nat) : Bool := bitOf (s.ten ten).ctl.toNat (cascadeOf c)
  let batch (m : Msg) : Bool := match m with | .batch dev t .. => dev == s.device.toNat && t == ten | _ => false
  let mine (k : OwnKey) : Bool :=
    match k with | .sluice t _ _ => t == ten | .batch dev t _ => dev == s.device.toNat && t == ten | _ => false
  let s := { s with cores := s.cores.map fun (e : Nat × Core) => if own e.1 then (e.1, e.2.scrub) else e
                    msgs := s.msgs.filter fun m => !batch m
                    own := s.own.map fun (r : OwnRec) => if mine r.key then { r with key := .gone } else r
                    stitched := s.stitched.filter fun (n : Nat) => !((tget? s.nodes n).any fun (nd : Node) => nd.ten == ten) }
  s.modTen ten Tenancy.ended

/-- TENANCY_RESET: RST of TNCTL (R294). -/
def execTenancyReset (ten : BitVec 4) (s : State) : Host.Outcome State Fault Refusal := .next (s.resetTenancy ten.toNat)

/-! ### Pre-emption (R313, R314) -/

/-- A thread of a core that is pre-empted stops at a unit boundary, its chain interrupted, unless it is between two
steps of an HRUN, PXPUSH or LAUNCH (R165, R313 step 1). MERGED threads are saved as READY (R230). -/
def Thread.drain (th : Thread) : Thread :=
  match th.st with
  | .parked | .bin => th
  | _ => if th.prog.isSome then th else { th.toHead with st := .ready, released := false, yround := none }

/-- The threads of draining cores stop. -/
def Core.drainThreads (k : Core) : Core :=
  { k with threads := k.threads.map fun e => (e.1, e.2.drain) }

/-- Counts the chains that a pre-emption interrupts (R85, R353). -/
def State.countDrain (s : State) (c : Nat) : State :=
  (List.range 4).foldl (fun s p => s.bump c p 14 ((s.core c).midChain p)) s

/-- PREEMPT: GO of CRCTL pre-empts the node whose context the core holds (R313). -/
def execPreempt (core : Nat) (s : State) : Host.Outcome State Fault Refusal :=
  match s.nodeOf core with
  | none => .next s
  | some nd =>
    if (s.core core).draining then .next s
    else
      let num := s.nodeNum core
      let stop (s : State) (c : Nat) : State :=
        if (s.core c).ctx.any (·.node == num) then
          (s.countDrain c).modCore c fun k =>
            let p (q : Part) : Part := { q with groups := [] }
            { k.drainThreads with draining := true, crdone := false, p0 := p k.p0, p1 := p k.p1, p2 := p k.p2, p3 := p k.p3 }
        else s.modCore c fun k => { k with crdone := false }
      .next (nd.cores.foldl stop s)

/-- After a step: threads of draining cores that have come to a unit boundary stop. -/
def State.settleDrain (s : State) : State :=
  if s.cores.any (·.2.draining) then
    let s := s.cores.foldl (fun s e => if e.2.draining then s.countDrain e.1 else s) s
    { s with cores := s.cores.map fun e => if e.2.draining then (e.1, e.2.drainThreads) else e }
  else s

/-- Whether a core's drain has ended (R313 step 2): no thread between two steps, no load or store on its way, every engine
operation retired but those held on a page fault. -/
def Core.drained (k : Core) : Bool :=
  k.late.isEmpty && k.axLoads.isEmpty && (k.threads.all fun e => e.2.prog.isNone && !(e.2.pend.any fun p => p.engine == 0))
    && (k.copies.all fun x => x.held.isSome || (x.lines.isEmpty && k.copies.any fun y => y.uid == x.uid && y.held.isSome))
    && (k.mxq.all fun x => x.held.isSome || (k.mxq.any fun y => y.part == x.part && y.held.isSome))
    && k.colls.all fun x => !x.counts || x.held.isSome || (x.done && k.colls.any fun y => y.uid == x.uid && y.held.isSome)

/-- Whether messages for the context are on their way. -/
def State.inFlight (s : State) (c : Nat) : Bool := s.msgs.any fun m => m.of s.device.toNat c

/-- Writes the save area of a core (R314). -/
def State.writeSave (s : State) (pa : Nat) (k : Core) (record gang : Nat) (addrs : List Nat) : State :=
  { s with mem := cellsSplice s.mem pa (k.saveImage record gang addrs s.cycle) }

/-- The address of a core's save area (R313). -/
def Core.saveArea (k : Core) : Nat := bits k.crsave.toNat 51 16 * 2 ^ 16

/-- A core whose save area does not lie in memory holds the pre-emption, and a page-fault record names the area (R317,
notes/assumptions/9). -/
def State.holdSave (s : State) (c : Nat) : State :=
  let area := (s.core c).saveArea
  if area + saveBytes ≤ Config.memBytes then s
  else
    let (tok, s) := s.sendRec (s.core c).tenancy { plainRec 2 1 [] area with core := c }
    s.modCore c fun k => { k with crheld := some (area, tok) }

/-- What a save keeps of a thread: the value of $clock in place of the bias (R118). -/
def State.savedThread (s : State) (c : Nat) (th : Thread) : Thread := { th with bias := s.clockOf c th }

/-- Whether a core holds the context of a node. -/
def State.holds (s : State) (num c : Nat) : Bool := (s.core c).ctx.any (·.node == num)

/-- What is saved of the node's context of gang index i on core c: where it has ended already, a context with nothing left in it
(R313). -/
def State.savedCore (s : State) (num : Nat) (nd : Node) (i c : Nat) : Core :=
  let k := s.core c
  if s.holds num c then k
  else
    { Core.reset with
      ctx := some { node := num, index := i, ten := nd.ten, region := entryRegion nd.entry, started := true, frozen := true }
      skew := k.skew, crsave := k.crsave }

/-- Saves gang index i on core c, which holds no context of the node afterwards (R313 step 3). addrs are the save areas of the
gang. -/
def State.saveCore (s : State) (num : Nat) (nd : Node) (addrs : List Nat) (i c : Nat) : State :=
  let k := s.savedCore num nd i c
  let area := k.saveArea
  let kept := { k with threads := k.threads.map (fun (e : Nat × Thread) => (e.1, s.savedThread c e.2)), draining := false }
  let s := s.writeSave area k nd.record nd.gang addrs
  let v : Save := { addr := area, addrs, head := cellsSlice s.mem area 0x10000, node := num, index := i, core := kept
                    clock := s.cycle }
  let s := { s with saves := v :: s.saves }
  s.modCore c fun q => if q.ctx.any (·.node != num) then { q with crdone := true } else { q.clear with crdone := true }

/-- Saves the cores of a gang from index i on. -/
def State.saveGang (s : State) (num : Nat) (nd : Node) (addrs : List Nat) : Nat → List Nat → State
  | _, [] => s
  | i, c :: cs => (s.saveCore num nd addrs i c).saveGang num nd addrs (i + 1) cs

/-- PREEMPT_SAVE: once the whole gang has drained, its cores are saved and DONE is set on every one; a page fault on a
save area holds it until a replay (R313, R314, R317). -/
def execPreemptSave (core : Nat) (s : State) : Host.Outcome State Fault Refusal :=
  match s.nodeOf core with
  | none => .next s
  | some nd =>
    let num := s.nodeNum core
    let live := nd.cores.filter (s.holds num)
    if !(live.all fun c => (s.core c).draining && (s.core c).drained && (s.core c).crheld.isNone && !s.inFlight c) then .next s
    else if live.any fun c => decide (Config.memBytes < (s.core c).saveArea + saveBytes) then
      .next (live.foldl State.holdSave s)
    else
      let addrs := nd.cores.map fun c => (s.core c).saveArea
      let s := s.saveGang num nd addrs 0 nd.cores
      .next (((s.modNode num fun nd => { nd with saved := true }).resumeWatch nd.ten).signal nd.ten)

/-! ### Resumption (R315, R316) -/

/-- A weight bank as memory now stands under its binding (R315 step 2); EMPTY where its tile cannot be read. -/
def State.reloadBank (s : State) (ten : Nat) (k : Core) (b : Bank) : Bank :=
  match b with
  | .empty => .empty
  | .ready img bind _ =>
    let h := Hdr.of img
    let sp := bindKind bind == 1
    let data := bindLoc bind
    let byte (a : Nat) : Option Byte :=
      if sp then (if a < Config.spBytes then some (cellGet k.sp a) else none)
      else match s.walkFor ten (a % 2 ^ 57) .load with
        | .ok e => some ((s.memRead (e.pa (a % 2 ^ 57)) 1).headD 0)
        | _ => none
    let rd (a : Nat) : Byte := (byte a).getD 0
    if (h.pieces data h.pitch rd).all fun p => (List.range p.2.2).all fun j => (byte (p.2.1 + j)).isSome then
      .ready img bind (h.elems data h.pitch rd)
    else .empty

/-- The controllers of what a bank's reload reads correct it first (R336). -/
def State.bankFill (s : State) (ten : Nat) (b : Bank) : State :=
  match b with
  | .empty => s
  | .ready img bind _ =>
    if s.check = [] ∨ bindKind bind = 1 then s
    else
      let h := Hdr.of img
      (h.pieces (bindLoc bind) h.pitch fun _ => 0).foldl (fun s p =>
        (List.range (p.2.2 / 32 + 1)).foldl (fun s j => s.viewFill ten ((p.2.1 + 32 * j) % 2 ^ 57) 1) s) s

/-- A thread as it is restored on a core: its clock bias set; a parked one keeps its entry (R118, R315). -/
def Thread.restore (th : Thread) (now clock : Nat) : Thread := { th with bias := th.bias - clock, readyAt := now }

/-- The walk of a deferred access starts again, under the tables as they stand (R305, R317). -/
def State.rewalk (s : State) (ten : Nat) (th : Thread) : Thread :=
  { th with log := th.log.map fun l =>
      if l.kind = 3 then l
      else { l with phase := .walking, walk := some (s.walkFor ten (regionVa th.region l.ea) (if l.kind = 1 then .load else .store)) } }

/-- A thread enters a list of threads that goes from the oldest to the youngest (R209). -/
def insertOlder (e : Nat × Thread) : Tbl Thread → Tbl Thread
  | [] => [e]
  | x :: l => if older e x then e :: x :: l else x :: insertOlder e l

/-- The entry of a flattened thread whose entries wait in the backing store: as eviction leaves it (R227). -/
def Thread.evictWait (th : Thread) : Wait :=
  if th.st ≠ .parked then Wait.of 3 0 0 0
  else if th.wait.reason = 3 then { th.wait with met := th.mark.isSome }
  else th.wait

/-- The shared entries of a restored thread are flattened into its own values (R24). Where its lane has no entries for them,
they stand in the backing store, and the thread is granted entries as an evicted one is (R226, R227, notes/assumptions/62). -/
def State.flattenThr (s : State) (c t : Nat) : State :=
  match s.thr? c t with
  | none => s
  | some th =>
    match th.win.base with
    | .ref n =>
      let k := s.core c
      let win := k.flatten t th
      let th' := { th with
        win, flat := (k.part (posPart t)).chain entDepth (.ref n) ++ th.flat
        need := if th.copyNew.isEmpty then th.need else 0, copyNew := [] }
      let pa := s.backArea c + 2048 * t
      let put (s : State) (x : Thread) : State := s.modCore c fun k => (k.setThr t x).markLane (posPart t) (posLane t)
      if th.saved then put (s.backSlot pa win) th'
      else if win.alloc ≤ th.win.held + k.freeEnts (posPart t) (posLane t) then put s th'
      else if slotMapped pa then put (s.backSlot pa win) { th' with saved := true, st := .parked, wait := th.evictWait }
      else s
    | _ => s

/-- The threads of a restored core are flattened, oldest first. -/
def State.flattenAll (s : State) (c : Nat) : State :=
  ((s.core c).threads.foldr insertOlder []).foldl (fun s e => s.flattenThr c e.1) s

/-- A partition as it is restored: what belongs to the core's own partition stays (R352, R356), and bins keep the time
they had left. -/
def Part.restore (old new : Part) (d : Nat) : Part :=
  { new with counts := old.counts, counting := old.counting, rot := old.rot, rotAt := old.rotAt, dbgdump := old.dbgdump
             smpPos := old.smpPos, smpNext := old.smpNext, window := [], nextId := max old.nextId new.nextId
             bins := new.bins.map fun e => (e.1, { e.2 with due := e.2.due + d }) }

/-- An operation of a restored matrix queue: the row buffer is not saved, so its fetch starts again, but for rows that came
from registers (R243, R314, R315). -/
def MxOp.restore (x : MxOp) : MxOp :=
  let x := { x with held := none }
  if x.reg.isSome then x else { x with buf := [], pos := 0, fetched := false }

/-- Restores one saved context on core c: what the save area holds in a stated layout is read from memory (R315,
notes/assumptions/9). A restored partition may be halted still: its tenancy's watchdogs pause (R359). -/
def State.restoreCore (s : State) (v : Save) (c : Nat) : State :=
  let old := s.core c
  let s := s.fillSectors v.addr saveBytes
  let k := v.core.reload s.mem v.addr
  let now := s.cycle + old.skew
  let d := s.cycle - v.clock
  let ten := k.tenancy
  let s := (s.bankFill ten k.bank0).bankFill ten k.bank1
  let k : Core := { k with
    threads := k.threads.map fun e => (e.1, s.rewalk ten (e.2.restore s.cycle now))
    p0 := old.p0.restore k.p0 d, p1 := old.p1.restore k.p1 d, p2 := old.p2.restore k.p2 d, p3 := old.p3.restore k.p3 d
    bank0 := s.reloadBank ten k k.bank0, bank1 := s.reloadBank ten k k.bank1
    copies := k.copies.map fun x => { x with held := none }
    mxq := k.mxq.map MxOp.restore
    colls := k.colls.map fun x => { x with held := none }
    tlb := [], lastPage := [], l1 := [], acqs := old.acqs, owing := old.owing ++ k.owing, skew := old.skew
    ercore := old.ercore, crdone := false
    crsave := BitVec.ofNat 64 v.addr, ended := old.ended
    nextUid := max old.nextUid k.nextUid, nextOp := max old.nextOp k.nextOp }
  let s := (s.setCore c (k.startIntervals (s.intervalEnd ten))).flattenAll c
  if s.anyHalted ten then s.pauseWatch ten else s

/-- Re-evaluates the AWAIT and PRESENCE entries of a restored core (R315). -/
def State.reevaluate (s : State) (c : Nat) : State :=
  (s.core c).threads.foldl (fun s e =>
    let w := e.2.wait
    let o := w.key.toNat
    let a := (s.core c).lineAttr (o / 128)
    if e.2.st ≠ .parked then s
    else if w.awaits ∧ w.reason = 5 then
      (if a.pres then s.wakeThr c e.1 true else if a.pend = 0 then s.wakeThr c e.1 false else s)
    else if w.reason = 5 then (if a.pres ∨ a.pend = 0 then s.wakeThr c e.1 false else s)
    else if w.reason = 4 then
      if w.akind = 0 then s.evalGauge c o
      else if w.akind = 1 then
        (if stampReached (BitVec.ofNat 32 ((s.core c).stamp o)) w.arg then s.wakeThr c e.1 true else s)
      else if a.pres then s.wakeThr c e.1 true else s
    else s) s

/-- The cause for which a RESUME on core c is refused (R316), by the tenancy, gang index and gang size that the header at its
save area names. -/
def State.resumeCause (s : State) (c ten index gang : Nat) : Option Nat :=
  if (s.core c).ctx.isSome ∨ bitOf (s.ten ten).ctl.toNat (cascadeOf c) = false then some 1
  else if index ≠ 0 ∨ gang = 0 ∨ 8 < gang then some 2
  else if (s.freeCores (cascadeOf c)).length < gang then some 3
  else none

/-- A RESUME that is refused (R316): the record, and the notification. -/
def State.refuseResume (s : State) (core ten area cause : Nat) : State :=
  let (_, s) := s.sendRec ten { plainRec 2 10 [wd cause] area with core := core }
  (s.modCore core fun k => { k with crdone := false }).notify ten 5

/-- The saved context whose header stands in memory at a save area: the one that was saved there, or another one whose area has
been copied there. -/
def State.savedAt (s : State) (area : Nat) : Option Save :=
  let here := cellsSlice s.cleanMem area 0x10000
  let same (v : Save) : Bool := v.head == here
  match s.saves.find? fun v => v.addr == area && same v with
  | some v => some v
  | none => s.saves.find? same

/-- RESUME of CRCTL (R315, R316). Memory that holds no header of a saved context names what Config.headerField reads from it; it
is refused with cause 2 where no other cause holds (notes/assumptions/9). -/
def execResume (core : Nat) (s : State) : Host.Outcome State Fault Refusal :=
  let area := (s.core core).saveArea
  let found := (s.savedAt area).bind fun v => (tget? s.nodes v.node).map fun nd => (v, nd)
  match found with
  | none =>
    let f (k : Nat) : Nat := Config.headerField ((cellsSlice s.cleanMem area 0x10000).map fun e => (e.1, e.2)) k
    let ten := f 0 % 16
    .next (s.refuseResume core ten area ((s.resumeCause core ten (f 1) (f 2)).getD 2))
  | some (v, nd) =>
    match s.resumeCause core nd.ten v.index nd.gang with
    | some cause => .next (s.refuseResume core nd.ten area cause)
    | none =>
      let cores := core :: ((s.freeCores (cascadeOf core)).filter (· != core)).take (nd.gang - 1)
      let mine := s.saves.filter (·.node == v.node)
      let s := { s with saves := s.saves.filter (·.node != v.node) }
      let s := (List.range cores.length).foldl (fun s k =>
        s.modCore (cores.getD k 0) fun x => { x with crdone := false, crsave := BitVec.ofNat 64 (v.addrs.getD k 0) }) s
      let s := mine.foldl (fun s x => s.restoreCore x (cores.getD x.index 0)) s
      let s := cores.foldl (fun s c => s.syncDie (dieOf c)) s
      let s := s.modNode v.node fun nd => { nd with cores, saved := false }
      .next ((cores.foldl State.reevaluate s).signal nd.ten)

/-! ### DBGCTL (R355) -/

/-- Whether debug is allowed on a core (R117, R295). -/
def State.dbgAllowed (s : State) (c : Nat) : Bool := (s.ownerOf c).any fun t => bitOf (s.ten t).ctl.toNat 26

/-- DBG_HALT (R355, R356). -/
def execDbgHalt (core part : Nat) (s : State) : Host.Outcome State Fault Refusal :=
  .next (if s.dbgAllowed core then s.haltPart core part else s)

/-- DBG_REL (R355). -/
def execDbgRel (core part : Nat) (s : State) : Host.Outcome State Fault Refusal :=
  .next (if s.dbgAllowed core then s.releasePart core part else s)

/-- DBG_STEP (R355). -/
def execDbgStep (core part : Nat) (s : State) : Host.Outcome State Fault Refusal :=
  .next (if s.dbgAllowed core then s.stepPart core part else s)

end Sys2Proof.Machine
end

