-- ==== Sys2Proof/Machine/Watch.lean ====
section
/-! DEFINITION. What watches and counts: join and gauge watchdogs, weir periods, counters, PC samples; time discipline,
patrol scrub and power (R298, R336, R348..R354, R357..R359, R368). -/

namespace Sys2Proof.Machine

/-! ### Watchdogs (R357..R359) -/

/-- Whether the watchdogs of a tenancy pause (R359). -/
def State.paused (s : State) (ten : Nat) : Bool := (s.ten ten).pausedAt.isSome

/-- Whether a join watch entry is due. -/
def State.watchDue (s : State) (w : Watch) : Bool :=
  !w.waiting && decide (w.deadline ≤ s.time.toNat) && !s.paused w.ten

/-- A watched JOIN is still not COMPLETE at its deadline: WATCHDOG is set through its physical line, the record is sent
and the error handler notified; the entry leaves the list (R357). -/
def State.joinFires (s : State) (w : Watch) : State :=
  let s := s.fillSectors w.pa 256
  let ob := s.memRead w.pa 256
  let s := s.unwatch w.pa
  if bitOf (obFlags ob) 1 then s
  else
    let attr := s.attrOf w.pa
    let s := s.homeWrite [] (w.pa + 1) attr [BitVec.ofNat 8 ((obFlags ob).lor 4)]
    let v := fieldAt ob 192 8
    let info := [wd v, wd (v / 2 ^ 32), wd (fieldAt ob 200 1), wd (fieldAt ob 204 4)]
    ((s.sendRec w.ten (plainRec 2 8 info w.va)).2).notify w.ten 2

/-- Whether the home slice has let a due entry's microsecond pass: it examines its list once in each (R363). -/
def State.watchLate (s : State) (w : Watch) : Bool := s.watchDue w && decide (w.deadline + 999 ≤ s.time.toNat)

/-- After a step: a watched JOIN that is due fires within deadline..deadline + 999 ns (R363). -/
def State.examineWatches (s : State) : State := (s.watch.filter s.watchLate).foldl State.joinFires s

/-- Nanoseconds of the arithmetic clock in which $time does not advance by more than d: it may be slewed (R354). -/
def State.within (s : State) (d : Nat) : Nat := if 0 < s.slew then d * 5000 / 5001 else d

/-- JOIN_WATCHDOG (R357): entry k of the watch lists. -/
def execJoinWatchdog (k : Nat) (s : State) : Host.Outcome State Fault Refusal :=
  match s.watch[k]? with
  | some w => .next (if s.watchDue w then s.joinFires w else s)
  | none => .next s

/-- The condition of the gauge watchdog (R358): parked on an AWAIT.G whose gauge has no copy tagged to its current phase
outstanding and has arrived < expected. -/
def Core.gaugeStuck (k : Core) (th : Thread) : Bool :=
  th.st == .parked && th.wait.reason == 4 && th.wait.akind == 0 && !th.wait.met &&
    (let o := th.wait.key.toNat
     let g := k.gauge o
     decide (g.arrived.toNat < g.expected.toNat)
       && !(k.copies.any fun x => x.gauge == some (o, g.phase))
       && !(k.colls.any fun x => x.counts && x.gauge == some (o, g.phase)))

/-- After a step: the time since which each thread's condition holds (R358). -/
def State.watchGauges (s : State) : State :=
  let one (k : Core) (e : Nat × Thread) : Nat × Thread :=
    if k.gaugeStuck e.2 then (if e.2.gwSince.isSome then e else (e.1, { e.2 with gwSince := some s.time.toNat, gwFired := false }))
    else if e.2.gwSince.isSome then (e.1, { e.2 with gwSince := none, gwFired := false })
    else e
  if s.cores.any fun e => e.2.threads.any fun x => x.2.gwSince.isSome || x.2.st == .parked then
    { s with cores := s.cores.map fun (e : Nat × Core) => (e.1, { e.2 with threads := e.2.threads.map (one e.2) }) }
  else s

/-- Whether a thread's gauge watchdog is due. -/
def State.gaugeDue (s : State) (c : Nat) (th : Thread) : Bool :=
  let ten := (s.core c).tenancy
  let lim := (s.ten ten).gwdlim.toNat
  match th.gwSince with
  | some since => lim != 0 && !th.gwFired && !s.paused ten && decide (since + 1000 * lim ≤ s.time.toNat)
  | none => false

/-- GAUGE_WATCHDOG (R358). -/
def execGaugeWatchdog (core thr : Nat) (s : State) : Host.Outcome State Fault Refusal :=
  match s.thr? core thr with
  | none => .next s
  | some th =>
    if s.gaugeDue core th && (s.core core).gaugeStuck th then
      let o := th.wait.key.toNat
      let g := (s.core core).gauge o
      let ten := (s.core core).tenancy
      let (_, s) := s.sendRec ten (thrRec 2 9 0 th core thr th.pc 0 [g.expected, g.arrived, g.phase] o)
      .next ((s.setThr core thr { th with gwFired := true }).notify ten 3)
    else .next s

/-- After a step: watchdogs whose tenancy has no halted core any more go on (R359). -/
def State.resumeAll (s : State) : State :=
  s.tens.foldl (fun s e => if e.2.pausedAt.isSome then s.resumeWatch e.1 else s) s

/-- How much of ns idle nanoseconds may pass before a watched JOIN must fire, a counting period ends or a sample is due (R349,
R352, R363). -/
def State.idleRoom (s : State) (ns : Nat) : Nat :=
  let parts := s.cores.flatMap fun e => (List.range 4).map fun p => (e.1, p)
  let n := s.watch.foldl (fun n w =>
    if w.waiting || s.paused w.ten then n else min n (s.within (w.deadline + 999 - s.time.toNat))) ns
  let n := if parts.any fun e => !(s.part e.1 e.2).counting.isEmpty || !(s.eventsOn e.1).isEmpty then
    min n (1000 - s.time.toNat % 1000) else n
  parts.foldl (fun n e =>
    if (s.core e.1).ctx.any fun x => (s.ten x.ten).smpctl.getLsbD 31 then
      min n (((s.part e.1 e.2).smpNext - s.cycle) * 10 / 27 + 1) else n) n

/-! ### The weir's periods (R297, R298) -/

/-- WEIR_PERIOD_BOUNDARY (R298): every WRUSE register is 0, and nothing carries over. -/
def execWeirPeriodBoundary (ten : BitVec 4) (s : State) : Host.Outcome State Fault Refusal :=
  let t := ten.toNat
  .next (if s.periodDue t then s.modTen t fun x => { x with used := [], wrAt := s.time.toNat } else s)

/-! ### PC samples (R216, R348..R350) -/

/-- Whether a unit waits for the scoreboard: a pending register, also of a tile or of a window that moves, a latch, a WAITC,
the board's room (R143, R216, R356). -/
def State.waitsBoard (s : State) (c t : Nat) (th : Thread) (i : Instr) : Bool :=
  let tile := (s.tileEnts c t th i).1
  th.latchWait i || th.pendingFor i || !th.waitcOk i
    || (th.pend.any fun p => p.engine != 1 && p.ents.any tile.contains)
    || (movesWindow i && th.pend.any fun p => p.engine == 0)
    || decide (31 < th.boardUse + boardNeed i)

/-- Whether an effect leaves its thread where it is. -/
def Done.isGone (d : Done) : Bool := match d with | .gone => true | _ => false

def resHeld (r : Res) : Bool := match r with | .ok (_, d) => d.isGone | .error .hold => true | .error _ => false

def sprayHeld (t : Nat) (r : Except Stop (State × (Nat → Done))) : Bool :=
  match r with | .ok (_, f) => (f t).isGone | .error .hold => true | .error _ => false

/-- The members of a held spray that take part in its unit, the thread alone where it is in none (R172, R213). -/
def State.participants (s : State) (c t : Nat) (i : Instr) : List Nat :=
  match s.thr? c t with
  | some { st := .spray id, .. } =>
    ((s.core c).behind ((s.core c).members (posPart t) id)).filter fun u =>
      (s.thr? c u).any fun th => guardHolds th.win.preds i.guard && (th.stopsAt i).isNone
        && (match checkUnit i noPre s c u th with | .ok _ => true | .error _ => false)
  | _ => [t]

/-- The reason for which a unit that has been selected is held in its own access: a header instruction's memory access and a
copy whose destination has no room are PIPE, a load that waits for a REPL store is SCOREBOARD, a MIGR whose message the weir
holds is BUDGET (R174, R216, R233, R268, R296). -/
def State.heldInside (s : State) (c t : Nat) (i : Instr) : Option Nat :=
  let when (b : Bool) (r : Nat) : Option Nat := if b then some r else none
  let ps := s.participants c t i
  match i with
  | .hld _ x h sp => when (sprayHeld t (hldBody x h.toNat sp s c ps)) 8
  | .hst _ h => when (sprayHeld t (hstBody h.toNat s c ps)) 8
  | .hev _ h => when (sprayHeld t (hevBody h.toNat s c ps)) 8
  | .cpy _ x => when (resHeld (cpyBody x s c t)) 8
  | .cpyg _ x y => when (resHeld (cpygBody x y s c t)) 8
  | .next _ x y => when (resHeld (nextBody x y s c t)) 8
  | .ldg x d a sz _ off => when (resHeld (ldgBody x d a sz off s c t)) 6
  | .migr .. => when (s.trafficHeld (s.core c).tenancy .migr) 9
  | _ => none

/-- Whether a unit is held for PIPE: a FENCE, the release it performs, a fence before it, an engine queue without room, a
counter at 255 (R216, R253, R258). -/
def State.waitsPipe (s : State) (c t : Nat) (th : Thread) (i : Instr) : Bool :=
  !s.fenceIssues c th i || !s.releaseOk c t th i || (isStoreUnit i && s.relPending c th) || !s.storesDone c th i
    || (i.accesses && !th.acqWait.isEmpty) || (s.core c).engineFull t i
    || (match i.cls with | some q => decide (255 ≤ th.oc q) | none => false)

/-- The stall reason of a thread: that of a parked one, none in the cycle in which it issues a unit, else the first that holds
in the order of R216. An instruction that the weir holds between two of its steps is BUDGET (R162, R298). -/
def State.stallReason (s : State) (c t : Nat) (th : Thread) : Nat :=
  let k := s.core c
  if (k.part (posPart t)).halted then 1
  else
    match th.st with
    | .parked => th.wait.reason.toNat
    | .bin | .merged => 10
    | _ =>
      if s.issued.1 + 1 = s.cycle ∧ s.issued.2.1 = c ∧ s.issued.2.2.contains t then 0
      else if th.prog.isSome then (if s.weirHolds k.tenancy 6 then 9 else 8)
      else
        match (s.fetchUnit c th).1 with
        | .unit (.ok i _) _ =>
          if !guardHolds th.win.preds i.guard then 10
          else if s.waitsBoard c t th i && (th.stopsAt i).all (·.phase == .walking) then 6
          else if (th.stopsAt i).isSome then 10
          else if s.waitsPipe c t th i then 8
          else if s.weirStops c t th i then 9
          else if th.yround.isSome then 10
          else (s.heldInside c t i).getD 10
        | _ => 10

/-- The position sampled next (R349): the next occupied one after the last, wrapping. -/
def Core.samplePos (k : Core) (p last : Nat) : Option Nat :=
  let ps := (k.positions p).map (· % 1024)
  match ps.find? (last < ·) with
  | some t => some t
  | none => ps.head?

/-- Whether a partition's sampling interval has ended. -/
def State.sampleDue (s : State) (c p : Nat) : Bool :=
  match (s.core c).ctx with
  | none => false
  | some x =>
    let ctl := (s.ten x.ten).smpctl
    ctl.getLsbD 31 && decide ((s.part c p).smpNext ≤ s.cycle)

/-- The 16 bytes of a sample (R350). -/
def State.sampleBytes (s : State) (c t : Nat) (th : Thread) : List Byte :=
  let size := match th.st with | .spray id => ((s.core c).members (posPart t) id).length | _ => 0
  toBytes 4 th.pc.toNat ++ toBytes 4 s.time.toNat ++ toBytes 1 (s.stallReason c t th) ++ toBytes 1 size
    ++ toBytes 1 (s.core c).tenancy ++ [0] ++ toBytes 2 t ++ toBytes 2 c

/-- A sample goes to the tenancy's ring, or is dropped and counted (R350). -/
def State.putSample (s : State) (ten : Nat) (bytes : List Byte) : State :=
  let x := s.ten ten
  let lsz := bits x.smpb.toNat 4 0
  if lsz = 0 ∨ 2 ^ lsz ≤ (x.smpTail - x.smpHead).toNat ∨ s.trafficHeld ten .sample then
    s.modTen ten fun x => { x with smpLost := if x.smpLost = 0xFFFFFFFF then x.smpLost else x.smpLost + 1 }
  else
    let pa := bits x.smpb.toNat 51 12 * 4096 + 16 * (x.smpTail.toNat % 2 ^ lsz)
    ((s.physWrite pa bytes).sendBytes ten .sample 16).modTen ten fun x => { x with smpTail := x.smpTail + 1 }

/-- PC_SAMPLE (R349): the sample at the end of an interval. -/
def execPcSample (core part : Nat) (s : State) : Host.Outcome State Fault Refusal :=
  if !s.sampleDue core part then .next s
  else
    let ten := (s.core core).tenancy
    let s := s.modPart core part fun q => { q with smpNext := q.smpNext + smpInterval (s.ten ten).smpctl }
    match (s.core core).samplePos part (s.part core part).smpPos with
    | none => .next s
    | some pos =>
      let t := part * 1024 + pos
      match s.thr? core t with
      | none => .next s
      | some th =>
        let bytes := s.sampleBytes core t th
        .next ((s.modPart core part fun q => { q with smpPos := pos }).putSample ten bytes)

/-! ### Time, scrub, power (R336, R354, R368) -/

/-- PTP_MESSAGE (R354), on class 0 of the fabric (R318); it is no tenancy's. A correction of ns nanoseconds toward later
or earlier time; one toward later time larger than 1 ms is a step, every other one is slewed. -/
def execPtpMessage (later : Bool) (ns : Nat) (s : State) : Host.Outcome State Fault Refusal :=
  if later && decide (1000000 < ns) then
    .next { s with time := s.time + BitVec.ofNat 64 ns, slew := 0, ptpLock := true }
  else .next { s with slew := if later then (ns * 13500 : Int) else -(ns * 13500 : Int), ptpLock := true }

/-- The stack of a sector (R301): 2d + PA[8]. -/
def stackOf (sec : Nat) : Nat := 2 * homeDie (sec * 32) + sec * 32 / 256 % 2

/-- PATROL_SCRUB (R336): the controller reads and corrects every sector of its stack. -/
def execPatrolScrub (stack : BitVec 4) (s : State) : Host.Outcome State Fault Refusal :=
  .next (((s.check.map (·.1)).filter fun k => stackOf k == stack.toNat).foldl State.sectorRead s)

/-- The supply of the island of enabled-core index c (R368): off in a withheld cascade, and at retention voltage while no tenancy
owns its cascade. -/
def State.coreIsland (s : State) (c : Nat) : Supply :=
  if s.withheld.contains (cascadeOf c) then .off
  else if (List.range 16).any fun t => bitOf (s.ten t).ctl.toNat (cascadeOf c) then .on
  else .retention

/-- The supply of a fabric port's island (R368). -/
def State.portIsland (s : State) (port : Nat) : Supply := if s.ports.contains port then .off else .on

/-- POWER_THROTTLE (R368): while the package power exceeds PWRLIM, or a die is at its thermal limit, the core-island
clocks fall by 25 MHz steps; they rise again when the cause clears. Timing only. -/
def execPowerThrottle (watts : Nat) (hot : BitVec 8) (s : State) : Host.Outcome State Fault Refusal :=
  let hotter := decide (s.pwrlim.toNat < watts)
  let one (t : Tbl Nat) (d : Nat) : Tbl Nat :=
    let n := tget 0 t d
    tset t d (if hotter || hot.getLsbD d then n + 1 else n - 1)
  .next { s with clockSteps := (List.range Config.dies).foldl one s.clockSteps }

end Sys2Proof.Machine
end

