-- ==== Sys2Proof/Machine/Regs.lean ====
section
/-! DEFINITION. Firmware register writes (R295, R297, R301, R310, R312, R313, R319, R321, R323, R325, R344..R346, R350,
R352, R354, R356, R358, R360, R366..R368). -/

namespace Sys2Proof.Machine

/-- Bits hi..lo of a value, in their places. -/
def keep (v : DWord) (hi lo : Nat) : BitVec 64 := BitVec.ofNat 64 (bits v.toNat hi lo * 2 ^ lo)

/-- A write to TNCTL (R294, R295, R344, R365): ignored before start has ended, and as a whole where it sets a cascade
bit of another tenancy; enabling starts the deficits and the notification count at 0; the counts of the partitions of a
cascade that comes to the tenancy start at 0, since a tenancy reads its own (R122, R352). -/
def State.writeCtl (s : State) (ten : Nat) (v : Word) : State :=
  let n := v.toNat
  let taken := s.tens.any fun e => e.1 != ten && (n.land e.2.ctl.toNat) % 2 ^ 24 != 0
  if !s.running || taken then s
  else
    let old := (s.ten ten).ctl
    let rise := bitOf n 30 && !bitOf (s.ten ten).ctl.toNat 30
    let s := s.modTen ten fun x =>
      { x with ctl := BitVec.ofNat 32 (bits n 30 30 * 2 ^ 30 + bits n 26 0)
               deficits := if rise then [] else x.deficits
               note := if rise then BitVec.ofNat 64 (x.note.toNat % 2 ^ 32) else x.note }
    let new (c : Nat) : Bool := bitOf n (cascadeOf c) && !old.getLsbD (cascadeOf c)
    let s := { s with cores := s.cores.map fun (e : Nat × Core) => if new e.1 then (e.1, e.2.clearCounts) else e }.signal ten
    if bitOf n 31 then s.resetTenancy ten else s

/-- A write to TNQTAB: refused queues are considered again (R374, R375). -/
def State.writeQtab (s : State) (ten : Nat) (v : DWord) : State :=
  let stays (e : Nat × QueueHold) : Bool := e.1 != 64 && !e.2.isRefused
  (s.modTen ten fun x =>
    { x with qtab := keep v 56 10, qholds := x.qholds.filter stays }).signal ten

/-- A write to WRPER (R297, R300): the next boundary follows the new value, and WRUSE is kept until then. -/
def State.writePeriod (s : State) (ten : Nat) (v : Nat) : State :=
  let p := min 1048576 (max 1024 (v / 1024 * 1024))
  let s := if s.periodDue ten then s.modTen ten fun x => { x with used := [] } else s
  s.modTen ten fun x => { x with wrper := wd p, wrAt := s.time.toNat }

/-- A write to WRBUD (R297): all ones is unlimited. -/
def State.writeBudget (s : State) (ten k v : Nat) : State :=
  if 6 < k then s
  else s.modTen ten fun x =>
    { x with budgets := if v % 2 ^ 48 = 2 ^ 48 - 1 then tdel x.budgets k else tset x.budgets k (v % 2 ^ 48) }

/-- The weight of class k at a router (R319): 1 after reset. -/
def State.routerWeight (s : State) (router k : Nat) : Nat := bits (tget 0x0101010101010101 s.rtwgt router).toNat (8 * k + 7) (8 * k)

/-- A written 0 of a weight reads as 1 (R319). -/
def routerWeights (v : DWord) : DWord :=
  BitVec.ofNat 64 (sumBy (fun k => max 1 (v.toNat / 256 ^ k % 256) * 256 ^ k) (List.range 8))

/-- REGISTER_WRITE: firmware writes a register that has no behaviour of its own. -/
def State.writeReg (s : State) (r : FwReg) (v : DWord) : State :=
  let n := v.toNat
  match r with
  | .tnctl t => s.writeCtl t.toNat (v.setWidth 32)
  | .tnroot t => s.modTen t.toNat fun x => { x with root := keep v 51 21 }
  | .tnqtab t => s.writeQtab t.toNat v
  | .tnhost t => s.modTen t.toNat fun x => { x with host := v.setWidth 32 }
  | .wrper t => s.writePeriod t.toNat (bits n 20 0)
  | .wrbud t k => s.writeBudget t.toNat k.toNat n
  | .tnfrb t => s.modTen t.toNat fun x => { x with frb := keep v 51 12 }
  | .tnback t => s.modTen t.toNat fun x => { x with back := keep v 51 24 }
  | .tnring t => s.modTen t.toNat fun x => { x with ring := keep v 56 8 ||| keep v 4 0 }
  | .tnsluice t => s.modTen t.toNat fun x =>
      { x with sluice := keep v 56 8 ||| keep v 4 0
               sluices := x.sluices.map fun e => (e.1, { e.2 with disabled := false }) }
  | .tnpeer t => s.modTen t.toNat fun x => { x with peer := (keep v 19 0).setWidth 32 }
  | .tnnote t => s.modTen t.toNat fun x => { x with note := x.note &&& ~~~(keep v 5 1) }
  | .tnsmpb t => s.modTen t.toNat fun x =>
      { x with smpb := keep v 51 12 ||| (if 8 ≤ bits n 4 0 ∧ bits n 4 0 ≤ 24 then keep v 4 0 else 0) }
  | .tnsmpc t => s.modTen t.toNat fun x => { x with smpHead := v.setWidth 32 }
  | .tncev t => s.modTen t.toNat fun x => { x with cev := v }
  | .gwdlim t => s.modTen t.toNat fun x => { x with gwdlim := v }
  | .tnrr t => s.modTen t.toNat fun x => { x with rr := keep v 63 48 ||| keep v 39 0 }
  | .crsave c => if c.toNat < 192 then s.modCore c.toNat fun k => { k with crsave := keep v 51 16 } else s
  | .ercore c => if c.toNat < 192 then s.modCore c.toNat fun k => { k with ercore := v.setWidth 32 } else s
  | .dbgdump c p => if c.toNat < 192 then s.modPart c.toNat p.toNat fun q => { q with dbgdump := keep v 51 20 } else s
  | .erstk k => { s with erstk := tset s.erstk k.toNat ((keep v 31 8).setWidth 32) }
  | .rtwgt k => { s with rtwgt := tset s.rtwgt k (routerWeights v) }
  | .pageAttr k => if n % 4 = 3 then s else { s with attr := tset s.attr k (BitVec.ofNat 2 n) }
  | .pwrlim => { s with pwrlim := BitVec.ofNat 16 (min 2200 (max 400 (n % 2 ^ 16))) }
  | .ptpdom => { s with ptpdom := v.setWidth 8 }
  | .ptpport => { s with ptpport := v }
  | .startEntry k => { s with startRec := tdel s.startRec k.toNat }
  | .repairMark d i =>
    if i.toNat < 24 ∧ !s.repairs.contains (d.toNat * 24 + i.toNat) then
      { s with repairs := (d.toNat * 24 + i.toNat) :: s.repairs }
    else s

/-- REGISTER_WRITE. -/
def execRegisterWrite (r : FwReg) (v : DWord) (s : State) : Host.Outcome State Fault Refusal := .next (s.writeReg r v)

end Sys2Proof.Machine
end

