-- ==== Sys2Proof/Machine/Replay.lean ====
section
/-! DEFINITION. What firmware answers faults with: TNREPLAY, the fault ring's control register, TNINV (R305, R310,
R311, R374). -/

namespace Sys2Proof.Machine

/-! ### TNREPLAY (R310) -/

/-- Whether a page number of 64 KiB lies in a named page. -/
def inPage (psz vpn n : Nat) : Bool := n / 2 ^ (pageBits psz - 16) == vpn / 2 ^ (pageBits psz - 16)

/-- Whether the replay matches a held access: the page number of its address, and its record's token. -/
def Replay.hits (r : Replay) (vpn : Nat) (tok : Word) : Bool :=
  match r with
  | .page psz n => inPage psz n vpn
  | .token w => w == tok
  | .all => true

def Replay.frees (r : Replay) (h : Option (Nat × Word)) : Bool := h.any fun e => r.hits (e.1 / 2 ^ 16) e.2

/-- A page-fault hold after the replay. -/
def Replay.left (r : Replay) (h : Option (Nat × Word)) : Option (Nat × Word) := if r.frees h then none else h

/-- Wakes a thread whose FAULT entry matches, parked on its logged access or on a fetch: the logged access is made first, and
the thread waits for it; one that finds no mapping again parks the thread with its new token (R305). -/
def State.replayThr (s : State) (c t : Nat) (th : Thread) : State :=
  match th.log.filter fun l => l.kind != 3 && (match l.phase with | .failed .. => false | _ => true) with
  | none => s.wakeThr c t false
  | some l =>
    let wait := { th.wait with key := BitVec.ofNat 64 (regionVa th.region l.ea / 2 ^ 16) }
    let s := s.setThr c t { th with log := some { l with phase := .walking, walk := none }, wait }
    (s.performLog c t).afterWalk c t l

/-- Wakes the matching FAULT entries of a core. -/
def State.replayThreads (s : State) (c : Nat) (r : Replay) : State :=
  (s.core c).threads.foldl (fun s e =>
    let w := e.2.wait
    if e.2.st = .parked ∧ w.reason = 2 ∧ r.hits w.key.toNat w.arg then s.replayThr c e.1 e.2 else s) s

/-- Releases the held engine operations of a core, and its held pre-emption (R173, R317). -/
def Core.replayHeld (k : Core) (r : Replay) : Core :=
  { k with crheld := r.left k.crheld, copies := k.copies.map fun x => { x with held := r.left x.held }
           mxq := k.mxq.map fun x => { x with held := r.left x.held }
           colls := k.colls.map fun x => { x with held := r.left x.held } }

/-- Releases the scheduler's accesses and the sluice's (R324, R374). -/
def Tenancy.replayHeld (x : Tenancy) (r : Replay) : Tenancy :=
  let stays (e : Nat × QueueHold) : Bool :=
    match e.2 with | .page va tok => !r.hits (va / 2 ^ 16) tok | .refused => true
  { x with qholds := x.qholds.filter stays
           sluices := x.sluices.map fun e => (e.1, { e.2 with held := r.left e.2.held }) }

/-- A tile record after the replay (R181). -/
def TileRec.replayHeld (x : TileRec) (r : Replay) : TileRec :=
  { x with held := match x.held with | some tok => if r.hits (x.va / 2 ^ 16) tok then none else some tok | none => none }

/-- A write to TNREPLAY (R310). -/
def State.replay (s : State) (ten : Nat) (r : Replay) : State :=
  let mine := (s.cores.filter fun e => e.2.ctx.any (·.ten == ten)).map (·.1)
  let s := mine.foldl (fun s c => (s.modCore c (·.replayHeld r)).replayThreads c r) s
  let s := s.modTen ten (·.replayHeld r)
  let free (e : Nat × Node) : Nat × Node := if e.2.ten = ten then (e.1, { e.2 with waiting := r.left e.2.waiting }) else e
  { s with nodes := s.nodes.map free
           tileRecs := s.tileRecs.map fun (x : TileRec) => if x.ten = ten then x.replayHeld r else x }.signal ten

/-- A write to TNREPLAY: its sweep is control traffic of the tenancy, charged like it, and it waits while the weir holds that
(R296, R310, R318). -/
def State.askReplay (s : State) (ten : Nat) (r : Replay) : State :=
  if s.trafficHeld ten .sweep ∨ (s.ten ten).replays ≠ [] then s.modTen ten fun x => { x with replays := x.replays ++ [r] }
  else (s.sendControl ten .sweep).replay ten r

/-- The held writes to a tenancy's TNREPLAY go on in their order as far as the weir lets them. -/
def State.replayHeld (s : State) (ten : Nat) : List Replay → State
  | [] => s.modTen ten fun x => { x with replays := [] }
  | r :: l =>
    if s.trafficHeld ten .sweep then s.modTen ten fun x => { x with replays := r :: l }
    else ((s.sendControl ten .sweep).replay ten r).replayHeld ten l

/-- After a step: replays that the weir holds no more. -/
def State.replayPump (s : State) : State :=
  s.tens.foldl (fun s e => if e.2.replays.isEmpty then s else s.replayHeld e.1 e.2.replays) s

/-- TNREPLAY_PAGE (R310 mode 0). -/
def execTnreplayPage (ten : BitVec 4) (psz : BitVec 2) (vpn : BitVec 41) (s : State) :
    Host.Outcome State Fault Refusal :=
  .next (s.askReplay ten.toNat (.page psz.toNat vpn.toNat))

/-- TNREPLAY_TOKEN (R310 mode 1). -/
def execTnreplayToken (ten : BitVec 4) (token : Word) (s : State) : Host.Outcome State Fault Refusal :=
  .next (s.askReplay ten.toNat (.token token))

/-- TNREPLAY_ALL (R310 mode 2). -/
def execTnreplayAll (ten : BitVec 4) (s : State) : Host.Outcome State Fault Refusal := .next (s.askReplay ten.toNat .all)

/-! ### The fault ring (R310) -/

/-- FAULT_RING_CONTROL_WRITE: a write to TNFRC; held records are written as space allows (R310). -/
def execFaultRingControlWrite (ten : BitVec 4) (v : Word) (s : State) : Host.Outcome State Fault Refusal :=
  let t := ten.toNat
  let lsz := v.toNat % 16
  let s := s.modTen t fun x =>
    { x with frHead := BitVec.ofNat 16 (v.toNat / 2 ^ 16), frEn := v.getLsbD 15
             frLsz := if 6 ≤ lsz then BitVec.ofNat 4 lsz else 6 }
  .next (s.ringDrain t ((s.ten t).frHeld.length + 1))

/-! ### TNINV (R311) -/

/-- Whether a sweep covers a 64 KiB page number. -/
def sweeps (inv n : Nat) : Bool := bits inv 62 61 == 1 || inPage (bits inv 60 59) (bits inv 40 0) n

/-- Whether a translation entry overlaps the swept range. -/
def sweepsEntry (inv : Nat) (e : TlbEntry) : Bool :=
  bits inv 62 61 == 1 ||
    (let n := max (pageBits e.psz - 16) (pageBits (bits inv 60 59) - 16)
     e.vpn / 2 ^ n == bits inv 40 0 / 2 ^ n)

/-- The sweep of one core. -/
def Core.sweep (k : Core) (inv : Nat) : Core :=
  { k with tlb := k.tlb.filter fun e => !sweepsEntry inv e
           lastPage := k.lastPage.filter fun e => !sweepsEntry inv e.2 }

/-- A write to TNINV starts a sweep; ignored while BUSY (R311). -/
def State.invalidate (s : State) (ten inv : Nat) : State :=
  if (s.ten ten).inv.getLsbD 63 then s
  else
    let one (e : Nat × Core) : Nat × Core :=
      if e.2.ctx.any fun x => x.ten == ten then (e.1, e.2.sweep inv) else e
    let s := { s with cores := s.cores.map one }
    s.modTen ten fun x => { x with inv := BitVec.ofNat 64 (2 ^ 63 + inv) }

/-- TNINV_PAGE (R311 mode 0). -/
def execTninvPage (ten : BitVec 4) (psz : BitVec 2) (vpn : BitVec 41) (s : State) : Host.Outcome State Fault Refusal :=
  .next (s.invalidate ten.toNat (psz.toNat * 2 ^ 59 + vpn.toNat))

/-- TNINV_ALL (R311 mode 1). -/
def execTninvAll (ten : BitVec 4) (s : State) : Host.Outcome State Fault Refusal := .next (s.invalidate ten.toNat (2 ^ 61))

/-- Whether a load has used a swept translation and is not bound yet; a deferred one has used none. -/
def Pend.underSweep (p : Pend) (inv : Nat) : Bool :=
  p.engine != 3 && match p.src with | .global va _ _ => sweeps inv (va / 2 ^ 16) | _ => false

/-- Whether a thread has an access under a swept translation that has been neither applied nor bound: a load that is not
bound, or a deferred access whose walk is in flight. -/
def Thread.underSweep (th : Thread) (inv : Nat) : Bool :=
  th.pend.any (·.underSweep inv)
    || th.log.any fun l => l.kind != 3 && l.phase == .walking && sweeps inv (regionVa th.region l.ea / 2 ^ 16)

/-- Whether a core has such an access: of a thread, of one that has ended, or a late store (R251, R252). -/
def Core.underSweep (k : Core) (inv : Nat) : Bool :=
  (k.threads.any fun e => e.2.underSweep inv) || (k.axLoads.any fun a => a.pend.underSweep inv)
    || k.late.any fun w => sweeps inv (w.va / 2 ^ 16)

/-- Whether BUSY can be cleared. -/
def State.sweepDone (s : State) (ten : Nat) : Bool :=
  let inv := (s.ten ten).inv.toNat
  s.cores.all fun e => !(e.2.ctx.any (·.ten == ten)) || !e.2.underSweep inv

/-- INVALIDATION_DONE (R311): the sweep's control traffic is held and charged like the tenancy's own (R296, R318). -/
def execInvalidationDone (ten : BitVec 4) (s : State) : Host.Outcome State Fault Refusal :=
  let t := ten.toNat
  .next (if s.sweepDone t && !s.trafficHeld t .sweep then
      (s.sendControl t .sweep).modTen t fun x => { x with inv := BitVec.ofNat 64 (x.inv.toNat % 2 ^ 63) }
    else s)

end Sys2Proof.Machine
end

