-- ==== Sys2Proof/Machine/Start.lean ====
section
/-! DEFINITION. The start sequence with its start record, repair, and the loss of power (R346, R365..R370). -/

namespace Sys2Proof.Machine

/-! ### The start record (R365..R367) -/

/-- How a step runs, from the outcome of its last run and its policy (R365, R367). -/
inductive HowRun where
  | plain | alternate | skip | halt
deriving DecidableEq, Repr

def StartEnt.how (e : StartEnt) : HowRun :=
  if e.outcome = 2 then .alternate
  else if e.outcome = 3 then (if e.policy = 1 then .skip else if e.policy = 2 then .alternate else .halt)
  else .plain

/-- An entry after its step has run with an outcome: 1, 2 or 3 (R366). -/
def StartEnt.ran (e : StartEnt) (outcome : Nat) (detail : BitVec 64) : StartEnt :=
  { e with outcome := BitVec.ofNat 8 outcome, detail
           starts := if e.starts = 0xFFFF then e.starts else e.starts + 1
           attempts := if outcome = 3 then (if e.attempts = 0xFF then e.attempts else e.attempts + 1) else 0 }

def State.setEntry (s : State) (k : Nat) (e : StartEnt) : State := { s with startRec := tset s.startRec k e }

/-- The work of a step is a condition it meets or not: ok as specified, alt under its alternate. The step's result is
written to its entry, with the detail of whether it ran under the alternate and whether it succeeded; a failed one halts
start (R365, R366). -/
def State.simpleStep (s : State) (k step : Nat) (ok alt : Bool) (detail : Bool → Bool → BitVec 64) : State :=
  if s.haltedAt ≠ 0 then s
  else
    let e := s.startEnt k
    let run (out : Nat) (isAlt good : Bool) : State :=
      let s := s.setEntry k (e.ran (if good then out else 3) (detail isAlt good))
      if good then s else { s with haltedAt := step }
    match e.how with
    | .halt => { s with haltedAt := step }
    | .skip => s.setEntry k { e with outcome := 4 }
    | .plain => run 1 false ok
    | .alternate => run 2 true alt

/-- Ports, or the die links as 18, that start as specified lose their spare-lane map, and those that need one get it (R328,
R365). -/
def State.mapLanes (s : State) (all needs : List Nat) : State :=
  let (seed, s) := s.draw
  let kept := s.laneMaps.filter fun e => !all.contains e.1
  { s with laneMaps := needs.foldl (fun t p => tset t p (Config.laneMap p seed)) kept }

/-- Step 5 (R365): the ports. Under the alternate, a degraded port takes its spare-lane map, and one that fails with it too is
disabled (R328). -/
def State.portStep (s : State) (ok alt : Nat → Bool) : State :=
  if s.haltedAt ≠ 0 then s
  else
    let e := s.startEnt 4
    let bad := (List.range 18).filter fun p => !ok p
    let (seed, s) := s.draw
    let mask : BitVec 64 := if bad.isEmpty then 0 else Config.failingLanes 5 seed
    match e.how with
    | .alternate =>
      let dead := bad.filter fun p => !alt p
      { (s.setEntry 4 (e.ran 2 mask)).mapLanes (List.range 18) (bad.filter alt) with ports := dead }
    | _ =>
      if bad.isEmpty then { (s.setEntry 4 (e.ran 1 0)).mapLanes (List.range 18) [] with ports := [] }
      else { s.setEntry 4 (e.ran 3 mask) with haltedAt := 5 }

/-! ### Repair (R346) -/

/-- The physical core of an enabled-core index: by the start record's map, else the fuses', else its own number. -/
def State.physCore (s : State) (c : Nat) : Nat :=
  match tget? s.repairMap c with | some p => p | none => tget (c % 24) s.fuses.repair c

/-- A spare core of a die: a physical core that no index uses and none has been moved away from. -/
def State.spareCore (s : State) (d : Nat) : Option Nat :=
  let used := (List.range 24).map fun i => s.physCore (24 * d + i)
  (List.range 26).find? fun p => !used.contains p && !s.badCores.contains (26 * d + p)

/-- Maps a spare in the place of a core, or withholds the core's cascade where the die has none left. -/
def State.repairCore (s : State) (c : Nat) : State :=
  match s.spareCore (c / 24) with
  | some p =>
    { s with badCores := (26 * (c / 24) + s.physCore c) :: s.badCores, repairMap := tset s.repairMap c p }
  | none => { s with withheld := if s.withheld.contains (cascadeOf c) then s.withheld else cascadeOf c :: s.withheld }

/-- Whether the physical core of an enabled-core index passes its test: ok by die x 26 + physical core. -/
def State.coreOk (s : State) (ok : Nat → Bool) (c : Nat) : Bool := ok (26 * (c / 24) + s.physCore c)

/-- Replaces the core of an index by spares until one passes its test, or withholds its cascade. -/
def State.repairUntil (ok : Nat → Bool) (c : Nat) : Nat → State → State
  | 0, s => s
  | fuel + 1, s =>
    if s.coreOk ok c || s.withheld.contains (cascadeOf c) then s else repairUntil ok c fuel (s.repairCore c)

/-- Step 8 (R346, R365): marked cores are replaced first; then every enabled core is tested, a spare that has taken another
core's place too. -/
def State.coreStep (s : State) (ok : Nat → Bool) : State :=
  if s.haltedAt ≠ 0 then s
  else
    let e := s.startEnt 7
    let s := { s.repairs.foldl State.repairCore { s with withheld := [] } with repairs := [] }
    let bad := (List.range 192).filter fun c => !s.coreOk ok c
    let first := BitVec.ofNat 64 (bad.headD 0)
    match e.how with
    | .alternate => (bad.foldl (fun s c => s.repairUntil ok c 3) s).setEntry 7 (e.ran 2 first)
    | _ =>
      if bad.isEmpty then s.setEntry 7 (e.ran 1 0)
      else { s.setEntry 7 (e.ran 3 first) with haltedAt := 8 }

/-- The supply of physical core p of a die (R368): by the island of the index it is assigned to; one that no index uses has no
island and is unpowered. -/
def State.physSupply (s : State) (d p : Nat) : Supply :=
  match (List.range 24).find? fun i => s.physCore (24 * d + i) == p with
  | some i => s.coreIsland (24 * d + i)
  | none => .off

/-! ### Authentication (R369) -/

/-- The 64-byte digest of an image's header and body. -/
def imageDigest (i : Image) : List Byte := shake256 i.text 64

/-- Whether step 7 accepts an image. -/
def imageAccepted (f : Fuses) (i : Image) : Bool :=
  i.keyDigest == f.keyDigest && decide (f.svnMin.toNat ≤ i.svn.toNat) && Config.mldsaVerify i.keyDigest (imageDigest i) i.sig

/-! ### Start and the loss of power -/

/-- What survives a restart: what lives longest (R4): fuses, the start record with its repairs, spare-lane maps, poison in
memory, error counts, the discipline of $time; the model's own schedule and counter of free values go on. -/
def State.powerDown (s : State) : State :=
  { State.reset with
    fuses := s.fuses, startRec := s.startRec, startPrev := s.startPrev, repairPrev := s.repairPrev, repairs := s.repairs
    badCores := s.badCores, repairMap := s.repairMap, laneMaps := s.laneMaps, poison := s.poison
    check := s.check.filter fun e => s.poison.contains e.1
    cores := (s.cores.filter fun e => e.2.ercore != 0).map fun e => (e.1, { Core.reset with ercore := e.2.ercore })
    erstk := s.erstk, ersadr := s.ersadr, ptpdom := s.ptpdom, ptpport := s.ptpport
    plan := s.plan, fresh := s.fresh, out := s.out }

/-- The results of the steps as bits: bit 0 of result j, the step's work succeeds; bit 1, it succeeds under its
alternate. Results 0..22 are those of steps 1, 2, 3 (16 substeps), 4, 6, 7 (a slot that can be read), 9 and 10; 23..40 of the
ports; 41..248 of the physical cores, by die x 26 + core. One that is not given is a success. -/
def resultBit (rs : List (BitVec 8)) (j k : Nat) : Bool := (rs.getD j 3).getLsbD k

/-- POWER_ON_START (R365..R370), with the firmware images of slots A and B (slots.1, slots.2). -/
def execPowerOnStart (outcomes : List (BitVec 8)) (slots : List Image × List Image) (device : BitVec 10) (s : State) :
    Host.Outcome State Fault Refusal :=
  let s := if s.running then s.powerDown else s
  let r (j k : Nat) : Bool := resultBit outcomes j k
  let none (_ _ : Bool) : BitVec 64 := 0
  let step (j k n : Nat) (s : State) : State := s.simpleStep k n (r j 0) (r j 1) none
  let s := { s with startPrev := s.startRec, repairPrev := (s.repairs, s.badCores, s.repairMap), haltedAt := 0, time := 0
                    timeFrac := 0, cycle := 0, slew := 0, ptpLock := false, meas := [], pubKey := [], ports := [], clockSteps := [] }
  let s := step 1 1 2 (step 0 0 1 s)
  let s := (List.range 16).foldl (fun s k =>
    s.simpleStep (48 + k) 3 (r (2 + k) 0) (r (2 + k) 1) fun alt good => if good then Config.stackRate k alt else 0) s
  let (seed, s) := s.draw
  let s := s.simpleStep 3 4 (r 18 0) (r 18 1) fun alt good => if good && !alt then 0 else Config.failingLanes 4 seed
  let s := s.mapLanes [18] (if (s.startEnt 3).outcome = 2 ∧ s.haltedAt = 0 then [18] else [])
  let s := s.portStep (fun p => r (23 + p) 0) (fun p => r (23 + p) 1)
  let all (l : List Image) : Bool := l.all (imageAccepted s.fuses)
  let s := (step 19 5 6 s).simpleStep 6 7 (r 20 0 && all slots.1) (r 20 1 && all slots.2) fun alt _ => if alt then 1 else 0
  let images := if (s.startEnt 6).outcome = 2 then slots.2 else slots.1
  let s := s.coreStep fun c => r (41 + c) 0
  let s := step 21 8 9 s
  let s := { s with ptpLock := (s.startEnt 8).outcome == 1 && s.haltedAt == 0 }
  let s := step 22 9 10 s
  if s.haltedAt ≠ 0 then .next s
  else .next { s with running := true, device := device, meas := images.map fun i => BitVec.ofNat 512 (ofBytes (imageDigest i))
                      pubKey := toBytes 1952 (Config.mldsaPublic s.fuses.seed).toNat }

/-- Start steps in the order in which their entries are written. -/
def startOrder : List Nat := [0, 1] ++ (List.range 16).map (48 + ·) ++ [3, 4, 5, 6, 7, 8, 9]

/-- POWER_LOSS (R367): the supply is lost. Where it cuts short the write of entry cut, that entry and those the start had
still to write read as their previous contents, and the repairs of a step 8 that did not come so far are as they were. -/
def execPowerLoss (cut : Option (BitVec 6)) (s : State) : Host.Outcome State Fault Refusal :=
  let s := s.powerDown
  match cut with
  | none => .next s
  | some k =>
    let lost := startOrder.dropWhile (· != k.toNat)
    let back (t : Tbl StartEnt) (j : Nat) : Tbl StartEnt :=
      match tget? s.startPrev j with | some e => tset t j e | none => tdel t j
    let s := { s with startRec := lost.foldl back s.startRec }
    .next (if lost.contains 7 then
      { s with repairs := s.repairPrev.1, badCores := s.repairPrev.2.1, repairMap := s.repairPrev.2.2 }
    else s)

end Sys2Proof.Machine
end

