-- ==== Sys2Proof/Machine/Dispatch.lean ====
section
/-! DEFINITION. The dispatcher: one arm for each constructor of Instr, each a call of the meaning of that instruction. -/

namespace Sys2Proof.Machine

def exec (i : Instr) (s : State) : Host.Outcome State Fault Refusal :=
  match i with
  | .iadd a0 a1 a2 a3 a4 a5 => Sys2Proof.Machine.execIadd a0 a1 a2 a3 a4 a5 s
  | .isub a0 a1 a2 a3 a4 a5 => Sys2Proof.Machine.execIsub a0 a1 a2 a3 a4 a5 s
  | .imul a0 a1 a2 a3 a4 a5 => Sys2Proof.Machine.execImul a0 a1 a2 a3 a4 a5 s
  | .imulw a0 a1 a2 a3 a4 a5 => Sys2Proof.Machine.execImulw a0 a1 a2 a3 a4 a5 s
  | .and a0 a1 a2 a3 a4 a5 => Sys2Proof.Machine.execAnd a0 a1 a2 a3 a4 a5 s
  | .or a0 a1 a2 a3 a4 a5 => Sys2Proof.Machine.execOr a0 a1 a2 a3 a4 a5 s
  | .xor a0 a1 a2 a3 a4 a5 => Sys2Proof.Machine.execXor a0 a1 a2 a3 a4 a5 s
  | .shl a0 a1 a2 a3 a4 a5 => Sys2Proof.Machine.execShl a0 a1 a2 a3 a4 a5 s
  | .shr a0 a1 a2 a3 a4 a5 => Sys2Proof.Machine.execShr a0 a1 a2 a3 a4 a5 s
  | .sar a0 a1 a2 a3 a4 a5 => Sys2Proof.Machine.execSar a0 a1 a2 a3 a4 a5 s
  | .imin a0 a1 a2 a3 a4 a5 => Sys2Proof.Machine.execImin a0 a1 a2 a3 a4 a5 s
  | .imax a0 a1 a2 a3 a4 a5 => Sys2Proof.Machine.execImax a0 a1 a2 a3 a4 a5 s
  | .sel a0 a1 a2 a3 a4 a5 => Sys2Proof.Machine.execSel a0 a1 a2 a3 a4 a5 s
  | .mov a0 a1 a2 a3 a4 => Sys2Proof.Machine.execMov a0 a1 a2 a3 a4 s
  | .not a0 a1 a2 a3 a4 => Sys2Proof.Machine.execNot a0 a1 a2 a3 a4 s
  | .neg a0 a1 a2 a3 a4 => Sys2Proof.Machine.execNeg a0 a1 a2 a3 a4 s
  | .abs a0 a1 a2 a3 a4 => Sys2Proof.Machine.execAbs a0 a1 a2 a3 a4 s
  | .popc a0 a1 a2 a3 a4 => Sys2Proof.Machine.execPopc a0 a1 a2 a3 a4 s
  | .clz a0 a1 a2 a3 a4 => Sys2Proof.Machine.execClz a0 a1 a2 a3 a4 s
  | .ctz a0 a1 a2 a3 a4 => Sys2Proof.Machine.execCtz a0 a1 a2 a3 a4 s
  | .brev a0 a1 a2 a3 a4 => Sys2Proof.Machine.execBrev a0 a1 a2 a3 a4 s
  | .sxb a0 a1 a2 a3 a4 => Sys2Proof.Machine.execSxb a0 a1 a2 a3 a4 s
  | .sxh a0 a1 a2 a3 a4 => Sys2Proof.Machine.execSxh a0 a1 a2 a3 a4 s
  | .zxb a0 a1 a2 a3 a4 => Sys2Proof.Machine.execZxb a0 a1 a2 a3 a4 s
  | .zxh a0 a1 a2 a3 a4 => Sys2Proof.Machine.execZxh a0 a1 a2 a3 a4 s
  | .bswap a0 a1 a2 a3 a4 => Sys2Proof.Machine.execBswap a0 a1 a2 a3 a4 s
  | .pand a0 a1 a2 a3 a4 a5 a6 => Sys2Proof.Machine.execPand a0 a1 a2 a3 a4 a5 a6 s
  | .por a0 a1 a2 a3 a4 a5 a6 => Sys2Proof.Machine.execPor a0 a1 a2 a3 a4 a5 a6 s
  | .pxor a0 a1 a2 a3 a4 a5 a6 => Sys2Proof.Machine.execPxor a0 a1 a2 a3 a4 a5 a6 s
  | .movp a0 a1 a2 a3 a4 => Sys2Proof.Machine.execMovp a0 a1 a2 a3 a4 s
  | .setp a0 a1 a2 a3 => Sys2Proof.Machine.execSetp a0 a1 a2 a3 s
  | .p2w a0 a1 a2 => Sys2Proof.Machine.execP2w a0 a1 a2 s
  | .w2p a0 a1 a2 => Sys2Proof.Machine.execW2p a0 a1 a2 s
  | .cmp a0 a1 a2 a3 a4 a5 a6 => Sys2Proof.Machine.execCmp a0 a1 a2 a3 a4 a5 a6 s
  | .fcmp a0 a1 a2 a3 a4 a5 a6 => Sys2Proof.Machine.execFcmp a0 a1 a2 a3 a4 a5 a6 s
  | .hcmp a0 a1 a2 a3 a4 a5 a6 => Sys2Proof.Machine.execHcmp a0 a1 a2 a3 a4 a5 a6 s
  | .cmpi a0 a1 a2 a3 a4 a5 a6 a7 => Sys2Proof.Machine.execCmpi a0 a1 a2 a3 a4 a5 a6 a7 s
  | .fadd a0 a1 a2 a3 a4 a5 => Sys2Proof.Machine.execFadd a0 a1 a2 a3 a4 a5 s
  | .fsub a0 a1 a2 a3 a4 a5 => Sys2Proof.Machine.execFsub a0 a1 a2 a3 a4 a5 s
  | .fmul a0 a1 a2 a3 a4 a5 => Sys2Proof.Machine.execFmul a0 a1 a2 a3 a4 a5 s
  | .ffma a0 a1 a2 a3 a4 a5 => Sys2Proof.Machine.execFfma a0 a1 a2 a3 a4 a5 s
  | .ffms a0 a1 a2 a3 a4 a5 => Sys2Proof.Machine.execFfms a0 a1 a2 a3 a4 a5 s
  | .fmin a0 a1 a2 a3 a4 a5 => Sys2Proof.Machine.execFmin a0 a1 a2 a3 a4 a5 s
  | .fmax a0 a1 a2 a3 a4 a5 => Sys2Proof.Machine.execFmax a0 a1 a2 a3 a4 a5 s
  | .fneg a0 a1 a2 a3 a4 => Sys2Proof.Machine.execFneg a0 a1 a2 a3 a4 s
  | .fabs a0 a1 a2 a3 a4 => Sys2Proof.Machine.execFabs a0 a1 a2 a3 a4 s
  | .fsqrt a0 a1 a2 a3 a4 => Sys2Proof.Machine.execFsqrt a0 a1 a2 a3 a4 s
  | .frcp a0 a1 a2 a3 a4 => Sys2Proof.Machine.execFrcp a0 a1 a2 a3 a4 s
  | .frsq a0 a1 a2 a3 a4 => Sys2Proof.Machine.execFrsq a0 a1 a2 a3 a4 s
  | .fex2 a0 a1 a2 a3 a4 => Sys2Proof.Machine.execFex2 a0 a1 a2 a3 a4 s
  | .flg2 a0 a1 a2 a3 a4 => Sys2Proof.Machine.execFlg2 a0 a1 a2 a3 a4 s
  | .fsin a0 a1 a2 a3 a4 => Sys2Proof.Machine.execFsin a0 a1 a2 a3 a4 s
  | .fcos a0 a1 a2 a3 a4 => Sys2Proof.Machine.execFcos a0 a1 a2 a3 a4 s
  | .fflr a0 a1 a2 a3 a4 => Sys2Proof.Machine.execFflr a0 a1 a2 a3 a4 s
  | .fceil a0 a1 a2 a3 a4 => Sys2Proof.Machine.execFceil a0 a1 a2 a3 a4 s
  | .ftrnc a0 a1 a2 a3 a4 => Sys2Proof.Machine.execFtrnc a0 a1 a2 a3 a4 s
  | .frint a0 a1 a2 a3 a4 => Sys2Proof.Machine.execFrint a0 a1 a2 a3 a4 s
  | .fcls a0 a1 a2 a3 a4 => Sys2Proof.Machine.execFcls a0 a1 a2 a3 a4 s
  | .hneg2 a0 a1 a2 a3 a4 => Sys2Proof.Machine.execHneg2 a0 a1 a2 a3 a4 s
  | .habs2 a0 a1 a2 a3 a4 => Sys2Proof.Machine.execHabs2 a0 a1 a2 a3 a4 s
  | .hsqrt2 a0 a1 a2 a3 a4 => Sys2Proof.Machine.execHsqrt2 a0 a1 a2 a3 a4 s
  | .hrcp2 a0 a1 a2 a3 a4 => Sys2Proof.Machine.execHrcp2 a0 a1 a2 a3 a4 s
  | .hadd2 a0 a1 a2 a3 a4 a5 => Sys2Proof.Machine.execHadd2 a0 a1 a2 a3 a4 a5 s
  | .hmul2 a0 a1 a2 a3 a4 a5 => Sys2Proof.Machine.execHmul2 a0 a1 a2 a3 a4 a5 s
  | .hfma2 a0 a1 a2 a3 a4 a5 => Sys2Proof.Machine.execHfma2 a0 a1 a2 a3 a4 a5 s
  | .hmin2 a0 a1 a2 a3 a4 a5 => Sys2Proof.Machine.execHmin2 a0 a1 a2 a3 a4 a5 s
  | .hmax2 a0 a1 a2 a3 a4 a5 => Sys2Proof.Machine.execHmax2 a0 a1 a2 a3 a4 a5 s
  | .cvt a0 a1 a2 a3 a4 a5 => Sys2Proof.Machine.execCvt a0 a1 a2 a3 a4 a5 s
  | .iaddi a0 a1 a2 a3 a4 a5 => Sys2Proof.Machine.execIaddi a0 a1 a2 a3 a4 a5 s
  | .andi a0 a1 a2 a3 a4 => Sys2Proof.Machine.execAndi a0 a1 a2 a3 a4 s
  | .ori a0 a1 a2 a3 a4 => Sys2Proof.Machine.execOri a0 a1 a2 a3 a4 s
  | .xori a0 a1 a2 a3 a4 => Sys2Proof.Machine.execXori a0 a1 a2 a3 a4 s
  | .shli a0 a1 a2 a3 a4 => Sys2Proof.Machine.execShli a0 a1 a2 a3 a4 s
  | .shri a0 a1 a2 a3 a4 => Sys2Proof.Machine.execShri a0 a1 a2 a3 a4 s
  | .sari a0 a1 a2 a3 a4 => Sys2Proof.Machine.execSari a0 a1 a2 a3 a4 s
  | .lui a0 a1 a2 => Sys2Proof.Machine.execLui a0 a1 a2 s
  | .ldg a0 a1 a2 a3 a4 a5 => Sys2Proof.Machine.execLdg a0 a1 a2 a3 a4 a5 s
  | .stg a0 a1 a2 a3 a4 a5 => Sys2Proof.Machine.execStg a0 a1 a2 a3 a4 a5 s
  | .lds a0 a1 a2 a3 a4 a5 => Sys2Proof.Machine.execLds a0 a1 a2 a3 a4 a5 s
  | .sts a0 a1 a2 a3 a4 a5 => Sys2Proof.Machine.execSts a0 a1 a2 a3 a4 a5 s
  | .atomg a0 a1 a2 a3 a4 a5 a6 => Sys2Proof.Machine.execAtomg a0 a1 a2 a3 a4 a5 a6 s
  | .atoms a0 a1 a2 a3 a4 a5 a6 => Sys2Proof.Machine.execAtoms a0 a1 a2 a3 a4 a5 a6 s
  | .ldm a0 a1 a2 a3 a4 a5 => Sys2Proof.Machine.execLdm a0 a1 a2 a3 a4 a5 s
  | .stm a0 a1 a2 a3 a4 a5 => Sys2Proof.Machine.execStm a0 a1 a2 a3 a4 a5 s
  | .hinit a0 a1 a2 a3 => Sys2Proof.Machine.execHinit a0 a1 a2 a3 s
  | .hann a0 a1 a2 a3 => Sys2Proof.Machine.execHann a0 a1 a2 a3 s
  | .happ a0 a1 a2 a3 => Sys2Proof.Machine.execHapp a0 a1 a2 a3 s
  | .hrun a0 a1 a2 a3 => Sys2Proof.Machine.execHrun a0 a1 a2 a3 s
  | .hres a0 a1 a2 a3 => Sys2Proof.Machine.execHres a0 a1 a2 a3 s
  | .hpeek a0 a1 a2 a3 => Sys2Proof.Machine.execHpeek a0 a1 a2 a3 s
  | .hpois a0 a1 a2 a3 => Sys2Proof.Machine.execHpois a0 a1 a2 a3 s
  | .hclr a0 a1 a2 => Sys2Proof.Machine.execHclr a0 a1 a2 s
  | .br a0 a1 => Sys2Proof.Machine.execBr a0 a1 s
  | .call a0 a1 => Sys2Proof.Machine.execCall a0 a1 s
  | .jmpi a0 a1 a2 => Sys2Proof.Machine.execJmpi a0 a1 a2 s
  | .nop a0 a1 => Sys2Proof.Machine.execNop a0 a1 s
  | .fence a0 a1 a2 a3 => Sys2Proof.Machine.execFence a0 a1 a2 a3 s
  | .waitc a0 a1 a2 a3 => Sys2Proof.Machine.execWaitc a0 a1 a2 a3 s
  | .awaitG a0 a1 a2 => Sys2Proof.Machine.execAwaitG a0 a1 a2 s
  | .awaitSt a0 a1 a2 => Sys2Proof.Machine.execAwaitSt a0 a1 a2 s
  | .awaitPr a0 a1 a2 => Sys2Proof.Machine.execAwaitPr a0 a1 a2 s
  | .trap a0 a1 => Sys2Proof.Machine.execTrap a0 a1 s
  | .eret a0 => Sys2Proof.Machine.execEret a0 s
  | .gets a0 a1 a2 a3 => Sys2Proof.Machine.execGets a0 a1 a2 a3 s
  | .sets a0 a1 a2 a3 => Sys2Proof.Machine.execSets a0 a1 a2 a3 s
  | .win a0 a1 a2 => Sys2Proof.Machine.execWin a0 a1 a2 s
  | .winReg a0 a1 a2 => Sys2Proof.Machine.execWinReg a0 a1 a2 s
  | .wgrow a0 a1 a2 a3 => Sys2Proof.Machine.execWgrow a0 a1 a2 a3 s
  | .tagrd a0 a1 a2 a3 => Sys2Proof.Machine.execTagrd a0 a1 a2 a3 s
  | .bkpt a0 a1 => Sys2Proof.Machine.execBkpt a0 a1 s
  | .cntrd a0 a1 a2 a3 => Sys2Proof.Machine.execCntrd a0 a1 a2 a3 s
  | .time a0 a1 a2 => Sys2Proof.Machine.execTime a0 a1 a2 s
  | .hld a0 a1 a2 a3 => Sys2Proof.Machine.execHld a0 a1 a2 a3 s
  | .hev a0 a1 => Sys2Proof.Machine.execHev a0 a1 s
  | .hst a0 a1 => Sys2Proof.Machine.execHst a0 a1 s
  | .hset a0 a1 a2 a3 => Sys2Proof.Machine.execHset a0 a1 a2 a3 s
  | .hget a0 a1 a2 a3 => Sys2Proof.Machine.execHget a0 a1 a2 a3 s
  | .wld a0 a1 => Sys2Proof.Machine.execWld a0 a1 s
  | .wsw a0 => Sys2Proof.Machine.execWsw a0 s
  | .mma a0 a1 a2 a3 => Sys2Proof.Machine.execMma a0 a1 a2 a3 s
  | .mmaReg a0 a1 a2 a3 a4 => Sys2Proof.Machine.execMmaReg a0 a1 a2 a3 a4 s
  | .mmaz a0 a1 a2 a3 => Sys2Proof.Machine.execMmaz a0 a1 a2 a3 s
  | .mmazReg a0 a1 a2 a3 a4 => Sys2Proof.Machine.execMmazReg a0 a1 a2 a3 a4 s
  | .accz a0 a1 => Sys2Proof.Machine.execAccz a0 a1 s
  | .accst a0 a1 a2 a3 => Sys2Proof.Machine.execAccst a0 a1 a2 a3 s
  | .accstReg a0 a1 a2 a3 a4 => Sys2Proof.Machine.execAccstReg a0 a1 a2 a3 a4 s
  | .accld a0 a1 a2 => Sys2Proof.Machine.execAccld a0 a1 a2 s
  | .accldReg a0 a1 a2 a3 => Sys2Proof.Machine.execAccldReg a0 a1 a2 a3 s
  | .qnt a0 a1 a2 a3 => Sys2Proof.Machine.execQnt a0 a1 a2 a3 s
  | .mxstat a0 a1 => Sys2Proof.Machine.execMxstat a0 a1 s
  | .topen a0 a1 a2 => Sys2Proof.Machine.execTopen a0 a1 a2 s
  | .tclose a0 => Sys2Proof.Machine.execTclose a0 s
  | .cpy a0 a1 => Sys2Proof.Machine.execCpy a0 a1 s
  | .cpyg a0 a1 a2 => Sys2Proof.Machine.execCpyg a0 a1 a2 s
  | .garm a0 a1 a2 => Sys2Proof.Machine.execGarm a0 a1 a2 s
  | .gadd a0 a1 a2 => Sys2Proof.Machine.execGadd a0 a1 a2 s
  | .gtst a0 a1 a2 => Sys2Proof.Machine.execGtst a0 a1 a2 s
  | .prclr a0 a1 a2 => Sys2Proof.Machine.execPrclr a0 a1 a2 s
  | .prclrOwn a0 a1 a2 => Sys2Proof.Machine.execPrclrOwn a0 a1 a2 s
  | .prclrRel a0 a1 a2 => Sys2Proof.Machine.execPrclrRel a0 a1 a2 s
  | .spawn a0 a1 a2 a3 a4 => Sys2Proof.Machine.execSpawn a0 a1 a2 a3 a4 s
  | .freeze a0 => Sys2Proof.Machine.execFreeze a0 s
  | .stamp a0 a1 => Sys2Proof.Machine.execStamp a0 a1 s
  | .tstw a0 a1 a2 a3 a4 => Sys2Proof.Machine.execTstw a0 a1 a2 a3 a4 s
  | .exit a0 => Sys2Proof.Machine.execExit a0 s
  | .yield a0 => Sys2Proof.Machine.execYield a0 s
  | .yieldReg a0 a1 => Sys2Proof.Machine.execYieldReg a0 a1 s
  | .migr a0 a1 a2 => Sys2Proof.Machine.execMigr a0 a1 a2 s
  | .merge a0 => Sys2Proof.Machine.execMerge a0 s
  | .elect a0 a1 => Sys2Proof.Machine.execElect a0 a1 s
  | .ballot a0 a1 a2 => Sys2Proof.Machine.execBallot a0 a1 a2 s
  | .shfl a0 a1 a2 a3 a4 a5 => Sys2Proof.Machine.execShfl a0 a1 a2 a3 a4 a5 s
  | .redx a0 a1 a2 a3 => Sys2Proof.Machine.execRedx a0 a1 a2 a3 s
  | .send a0 a1 a2 a3 => Sys2Proof.Machine.execSend a0 a1 a2 a3 s
  | .rarm a0 a1 a2 => Sys2Proof.Machine.execRarm a0 a1 a2 s
  | .rack a0 a1 a2 => Sys2Proof.Machine.execRack a0 a1 a2 s
  | .pxpush a0 a1 a2 => Sys2Proof.Machine.execPxpush a0 a1 a2 s
  | .next a0 a1 a2 => Sys2Proof.Machine.execNext a0 a1 a2 s
  | .launch a0 a1 a2 => Sys2Proof.Machine.execLaunch a0 a1 a2 s
  | .fabw a0 a1 a2 => Sys2Proof.Machine.execFabw a0 a1 a2 s
  | .movx a0 a1 a2 a3 a4 => Sys2Proof.Machine.execMovx a0 a1 a2 a3 a4 s
  | .movxIndex a0 a1 a2 a3 => Sys2Proof.Machine.execMovxIndex a0 a1 a2 a3 s
  | .stx a0 a1 a2 a3 a4 => Sys2Proof.Machine.execStx a0 a1 a2 a3 a4 s
  | .ixset a0 a1 a2 a3 => Sys2Proof.Machine.execIxset a0 a1 a2 a3 s
  | .ixadd a0 a1 a2 a3 => Sys2Proof.Machine.execIxadd a0 a1 a2 a3 s
  | .abset a0 a1 a2 a3 => Sys2Proof.Machine.execAbset a0 a1 a2 a3 s
  | .loadDataReturn a0 a1 a2 => Sys2Proof.Machine.execLoadDataReturn a0 a1 a2 s
  | .deferredWalkDone a0 a1 => Sys2Proof.Machine.execDeferredWalkDone a0 a1 s
  | .copyLineArrival a0 a1 => Sys2Proof.Machine.execCopyLineArrival a0 a1 s
  | .copyRetire a0 a1 => Sys2Proof.Machine.execCopyRetire a0 a1 s
  | .aRowFetch a0 a1 => Sys2Proof.Machine.execARowFetch a0 a1 s
  | .matrixArbitration a0 => Sys2Proof.Machine.execMatrixArbitration a0 s
  | .matrixRetire a0 => Sys2Proof.Machine.execMatrixRetire a0 s
  | .nextApply a0 a1 => Sys2Proof.Machine.execNextApply a0 a1 s
  | .sendAppend a0 a1 => Sys2Proof.Machine.execSendAppend a0 a1 s
  | .creditReturn a0 => Sys2Proof.Machine.execCreditReturn a0 s
  | .fabwWriteArrival a0 => Sys2Proof.Machine.execFabwWriteArrival a0 s
  | .fabwAck a0 a1 a2 => Sys2Proof.Machine.execFabwAck a0 a1 a2 s
  | .migrArrival a0 => Sys2Proof.Machine.execMigrArrival a0 s
  | .continuationDelivery a0 => Sys2Proof.Machine.execContinuationDelivery a0 s
  | .backlogPlacement a0 => Sys2Proof.Machine.execBacklogPlacement a0 s
  | .binTimerLaunch a0 a1 a2 => Sys2Proof.Machine.execBinTimerLaunch a0 a1 a2 s
  | .mergeTimeout a0 a1 a2 => Sys2Proof.Machine.execMergeTimeout a0 a1 a2 s
  | .itemStamp a0 a1 => Sys2Proof.Machine.execItemStamp a0 a1 s
  | .registerGrant a0 a1 a2 => Sys2Proof.Machine.execRegisterGrant a0 a1 a2 s
  | .registerEviction a0 a1 a2 => Sys2Proof.Machine.execRegisterEviction a0 a1 a2 s
  | .causalDelivery a0 a1 => Sys2Proof.Machine.execCausalDelivery a0 a1 s
  | .guestFill a0 a1 => Sys2Proof.Machine.execGuestFill a0 a1 s
  | .replForward a0 => Sys2Proof.Machine.execReplForward a0 s
  | .nodeRetire a0 => Sys2Proof.Machine.execNodeRetire a0 s
  | .sluiceDrain a0 a1 => Sys2Proof.Machine.execSluiceDrain a0 a1 s
  | .sluiceBatchArrival a0 => Sys2Proof.Machine.execSluiceBatchArrival a0 s
  | .sluiceRetry a0 a1 => Sys2Proof.Machine.execSluiceRetry a0 a1 s
  | .hostRead a0 a1 a2 a3 => Sys2Proof.Machine.execHostRead a0 a1 a2 a3 s
  | .hostWrite a0 a1 a2 a3 => Sys2Proof.Machine.execHostWrite a0 a1 a2 a3 s
  | .hostHelpedStep a0 a1 a2 a3 => Sys2Proof.Machine.execHostHelpedStep a0 a1 a2 a3 s
  | .attestationRequest a0 a1 a2 => Sys2Proof.Machine.execAttestationRequest a0 a1 a2 s
  | .publicKeyRequest a0 => Sys2Proof.Machine.execPublicKeyRequest a0 s
  | .tnreplayPage a0 a1 a2 => Sys2Proof.Machine.execTnreplayPage a0 a1 a2 s
  | .tnreplayToken a0 a1 => Sys2Proof.Machine.execTnreplayToken a0 a1 s
  | .tnreplayAll a0 => Sys2Proof.Machine.execTnreplayAll a0 s
  | .tninvPage a0 a1 a2 => Sys2Proof.Machine.execTninvPage a0 a1 a2 s
  | .tninvAll a0 => Sys2Proof.Machine.execTninvAll a0 s
  | .invalidationDone a0 => Sys2Proof.Machine.execInvalidationDone a0 s
  | .faultRingControlWrite a0 a1 => Sys2Proof.Machine.execFaultRingControlWrite a0 a1 s
  | .preempt a0 => Sys2Proof.Machine.execPreempt a0 s
  | .preemptSave a0 => Sys2Proof.Machine.execPreemptSave a0 s
  | .resume a0 => Sys2Proof.Machine.execResume a0 s
  | .kill a0 => Sys2Proof.Machine.execKill a0 s
  | .tenancyReset a0 => Sys2Proof.Machine.execTenancyReset a0 s
  | .dbgHalt a0 a1 => Sys2Proof.Machine.execDbgHalt a0 a1 s
  | .dbgRel a0 a1 => Sys2Proof.Machine.execDbgRel a0 a1 s
  | .dbgStep a0 a1 => Sys2Proof.Machine.execDbgStep a0 a1 s
  | .joinWatchdog a0 => Sys2Proof.Machine.execJoinWatchdog a0 s
  | .gaugeWatchdog a0 a1 => Sys2Proof.Machine.execGaugeWatchdog a0 a1 s
  | .weirPeriodBoundary a0 => Sys2Proof.Machine.execWeirPeriodBoundary a0 s
  | .counterRotation a0 a1 => Sys2Proof.Machine.execCounterRotation a0 a1 s
  | .pcSample a0 a1 => Sys2Proof.Machine.execPcSample a0 a1 s
  | .ptpMessage a0 a1 => Sys2Proof.Machine.execPtpMessage a0 a1 s
  | .patrolScrub a0 => Sys2Proof.Machine.execPatrolScrub a0 s
  | .powerThrottle a0 a1 => Sys2Proof.Machine.execPowerThrottle a0 a1 s
  | .powerOnStart a0 a1 a2 => Sys2Proof.Machine.execPowerOnStart a0 a1 a2 s
  | .registerWrite a0 a1 => Sys2Proof.Machine.execRegisterWrite a0 a1 s
  | .illegalInstruction a0 => Sys2Proof.Machine.execIllegalInstruction a0 s
  | .powerLoss a0 => Sys2Proof.Machine.execPowerLoss a0 s

end Sys2Proof.Machine
end

