-- ==== Sys2Proof/Machine/Due.lean ====
section
/-! DEFINITION. What follows a step at once, and the events that are due: the steps of the machine's agents in the order
in which the model takes them when State.plan names none (notes/assumptions/2). -/

namespace Sys2Proof.Machine

/-! ### After a step -/

/-- Engine writes to REPL pages that every die has applied are owed no longer (R268, R273). -/
def State.pruneOwing (s : State) : State :=
  if s.cores.any fun e => !e.2.owing.isEmpty then
    { s with cores := s.cores.map fun (e : Nat × Core) =>
        (e.1, { e.2 with owing := e.2.owing.filter fun g => s.fwds.any (·.tag == g) }) }
  else s

/-- With no plan, late stores are applied at once. -/
def State.settleLate (s : State) : State := if s.plan.isEmpty then s.applyAllLate else s

/-- What follows a step of the machine at once: late stores, halts, drains and debug steps, tile records, fabric writes, NEXTs
without a context, answers, replays and host requests that were held, freed templates, grants of registers, rolled-back nodes,
ended contexts, watches, the schedulers (R181, R202, R223, R226, R292, R296, R310, R313, R324, R326, R341, R355, R358, R375). -/
def State.tidy (s : State) : State :=
  s.settleLate.settleAx.settleAcq.settleDebug.settleDrain.flushTileRecs.fabwPump.orphanPump.takeAnswers
    |>.replayPump.hostPump.freeTmpls.grantAll.settleNodes.endContexts.watchGauges.resumeAll.examineWatches
    |>.pruneOwing.considerAll

/-! ### Events that are due -/

/-- Numbers 0..n−1 of a list. -/
def indices {α : Type} (l : List α) : List Nat := List.range l.length

/-- Events of a thread: loads that return, a deferred walk, the gauge watchdog. -/
def State.thrEvents (s : State) (c t : Nat) (th : Thread) : List Instr :=
  ((indices th.pend).filterMap fun (k : Nat) =>
    match th.pend[k]? with | some p => if p.engine = 0 then some (.loadDataReturn c t k) else none | none => none)
  ++ (if th.log.any (fun l => l.kind != 3 && l.phase == .walking) then [.deferredWalkDone c t] else [])
  ++ (if s.gaugeDue c th then [.gaugeWatchdog c t] else [])

/-- Events of a core's engines. -/
def Core.engineEvents (k : Core) (c : Nat) : List Instr :=
  (k.copies.flatMap fun x =>
    (if x.err.isNone && x.held.isNone && !x.lines.isEmpty then [.copyLineArrival c x.id] else [])
      ++ (if k.copyDone x then [.copyRetire c x.id] else []))
  ++ ((List.range 4).filterMap fun p =>
    match k.mxHead p with | some o => if o.canFetch then some (.aRowFetch c p) else none | none => none)
  ++ (if k.mxq.isEmpty then [] else [.matrixArbitration c, .matrixRetire c])
  ++ (k.colls.filterMap fun x =>
    if x.done || x.err.isSome || x.held.isSome then none
    else match x.op with | .send .. => some (.sendAppend c x.id) | .next .. => some (.nextApply c x.id) | _ => none)

/-- Events of a partition's threads, bins and templates. -/
def State.partEvents (s : State) (c p : Nat) : List Instr :=
  let k := s.core c
  let q := k.part p
  (q.bins.filterMap fun e => if e.2.due ≤ s.cycle then some (.binTimerLaunch c p e.1) else none)
  ++ (q.groups.filterMap fun g => if s.mergeDue c p g then some (.mergeTimeout c p g.pc) else none)
  ++ (if (k.stampNext p).isSome then [.itemStamp c p] else [])
  ++ ((List.range Config.lanes).flatMap fun l =>
    match k.oldest p l with
    | none => []
    | some cl => if k.canGrant p l cl then [.registerGrant c p l] else if k.partRuns p then [] else [.registerEviction c p l])
  ++ (if s.rotationDue c p then [.counterRotation c p] else [])
  ++ (if s.sampleDue c p then [.pcSample c p] else [])

/-- The core on which an event of an engine or a thread runs; events of a core that drains go on there (R293, R313). -/
def eventCore : Instr → Option Nat
  | .loadDataReturn c _ _ | .deferredWalkDone c _ | .copyLineArrival c _ | .copyRetire c _ | .aRowFetch c _
  | .matrixArbitration c | .matrixRetire c | .nextApply c _ | .sendAppend c _ | .backlogPlacement c | .binTimerLaunch c _ _
  | .mergeTimeout c _ _ | .itemStamp c _ | .registerGrant c _ _ | .registerEviction c _ _ | .gaugeWatchdog c _ => some c
  | _ => none

/-- Whether an event may take place: a cascade that belongs to none runs nothing, but for what a core that drains completes
(R293, R313). -/
def State.mayRun (s : State) (i : Instr) : Bool :=
  match eventCore i with
  | none => true
  | some c =>
    s.coreOwned c || ((s.core c).draining && match i with | .loadDataReturn .. | .deferredWalkDone .. => true | _ => false)

/-- Events of a core; a cascade that belongs to none runs nothing (R293). -/
def State.coreEvents (s : State) (c : Nat) (k : Core) : List Instr :=
  let owned := s.coreOwned c
  let run : List Instr :=
    if k.ctx.isNone || k.draining || !owned then []
    else (k.threads.flatMap fun e => s.thrEvents c e.1 e.2) ++ (List.range 4).flatMap (s.partEvents c ·)
      ++ (if k.backlog.isEmpty then [] else [.backlogPlacement c])
  let drain : List Instr :=
    if k.draining then
      (k.threads.flatMap fun e => s.thrEvents c e.1 e.2) ++ (if k.drained && k.crheld.isNone then [.preemptSave c] else [])
    else []
  run ++ drain ++ (if k.ctx.isNone || !owned then [] else k.engineEvents c)

/-- Events of the messages on their way. -/
def State.msgEvents (s : State) : List Instr :=
  (indices s.msgs).filterMap fun (k : Nat) =>
    match s.msgs[k]? with
    | some (.credit ..) => some (.creditReturn k)
    | some (.migr ..) => some (.migrArrival k)
    | some (.continuation ..) => some (.continuationDelivery k)
    | some (.fabw ..) => some (.fabwWriteArrival k)
    | some (.batch ..) => some (.sluiceBatchArrival k)
    | _ => none

/-- Events between the dies. -/
def State.dieEvents (s : State) : List Instr :=
  (s.dies.flatMap fun e =>
    ((indices e.2.inbound).filterMap fun (k : Nat) =>
      match e.2.inbound[k]? with
      | some w => if s.deliverable e.1 w then some (.causalDelivery e.1 k) else none
      | none => none)
    ++ (indices e.2.fills).map fun (k : Nat) => .guestFill e.1 k)
  ++ (indices s.fwds).map .replForward

/-- Events of a tenancy: its sluice, its sweep, its weir. -/
def State.tenEvents (s : State) (t : Nat) (x : Tenancy) : List Instr :=
  let b := BitVec.ofNat 4 t
  (if x.sluice = 0 then [] else (List.range 16).flatMap fun n =>
    let st := s.sluiceSt t n
    if st.disabled || st.inFlight || st.held.isSome then []
    else if st.unsent.isEmpty then (if (s.sluiceEntry t n).any (·.enabled) then [.sluiceDrain t n] else [])
    else if st.retryAt.any (· ≤ s.time.toNat) then [.sluiceRetry t n] else [])
  ++ (if x.inv.getLsbD 63 && s.sweepDone t then [.invalidationDone b] else [])
  ++ (if s.periodDue t then [.weirPeriodBoundary b] else [])

/-- Every event that is due. -/
def State.dueEvents (s : State) : List Instr :=
  (s.cores.flatMap fun e => s.coreEvents e.1 e.2) ++ s.msgEvents ++ s.dieEvents
    ++ (s.nodes.filterMap fun e => if s.nodeDone e.1 e.2 then some (.nodeRetire e.1) else none)
    ++ (s.tens.flatMap fun e => s.tenEvents e.1 e.2)
    ++ ((indices s.watch).filterMap fun (k : Nat) =>
      match s.watch[k]? with | some w => if s.watchDue w then some (.joinWatchdog k) else none | none => none)

/-- Values of State.turn from this upward stand for a round of due events: turn − eventTurn of them are left
(notes/assumptions/2). -/
def eventTurn : Nat := 2 ^ 20

/-- How many of the due events the round of events still covers, its next one included. -/
def State.eventsLeft (s : State) : Nat :=
  let n := s.dueEvents.length
  if eventTurn ≤ s.turn then min (s.turn - eventTurn) n else n

/-- The event taken next: a round of events goes from the last of those that are due to the first
(notes/assumptions/2). -/
def State.dueEvent (s : State) : Option Instr :=
  if s.eventsLeft = 0 then none else s.dueEvents[s.eventsLeft - 1]?

/-- State.turn after that event: 0, a new round of issue slots, once the round of events is over. -/
def State.turnAfterEvent (s : State) : Nat :=
  if s.eventsLeft ≤ 1 then 0 else eventTurn + (s.eventsLeft - 1)

end Sys2Proof.Machine
end

