-- ==== Sys2Proof/Machine/Ecc.lean ====
section
/-! DEFINITION. Errors in stored bits and what the code of R334..R336 makes of them: the input Pick.bitError
(notes/assumptions/16). -/

namespace Sys2Proof.Machine

/-- How the difference between the stored and the computed check bits of a word of n data and m check bits changes when the
bits of a mask flip: data bit j is bit j of the mask and check bit k is bit n + k (R335, cut down to the data width by
R334). -/
def eccDelta (n m mask : Nat) : Nat :=
  let data := (List.range n).foldl (fun d j =>
    if mask.testBit j then let v := eccColumn j; d ^^^ (v + 2 ^ (m - 1) * ((1 + popcount m v) % 2)) else d) 0
  data ^^^ (mask / 2 ^ n % 2 ^ m)

/-- What a read makes of that difference (R336). -/
def eccJudge (n m delta : Nat) : Ecc :=
  let s := delta % 2 ^ (m - 1)
  if popcount m delta % 2 = 0 then (if s = 0 then .clean else .bad)
  else if s = 0 ∨ 2 ^ Nat.log2 s = s then .check
  else match (List.range n).find? fun j => eccColumn j == s with | some j => .data j | none => .bad

/-- A read of a word of n data and m check bits in which the bits of a mask are in error: the data that it is rewritten
with, whether it is poisoned, and whether it was corrected (R334, R336). -/
def eccRead (n m : Nat) (v : Nat) (poisoned : Bool) (mask : Nat) : Nat × Bool × Bool :=
  let delta := eccDelta n m mask ^^^ (if poisoned then 2 ^ m - 1 else 0)
  let got := v ^^^ (mask % 2 ^ n)
  match eccJudge n m delta with
  | .clean => (got, false, false)
  | .check => (got, false, true)
  | .data j => (got ^^^ 2 ^ j, false, true)
  | .bad => (got, true, false)

/-- The counts of ERCORE after such a read (R345). -/
def ercoreRead (w : Word) (was poisoned corrected : Bool) : Word :=
  if corrected then ercoreCorr w
  else if poisoned && !was then (if w.toNat / 2 ^ 24 = 0xFF then w else w + 0x1000000)
  else w

/-- The template whose entry i of a window is, of the nearest enclosing level that has its own; none where it is the
window's (R24, R225). -/
def entHome (p : Part) : Nat → Window → Nat → Option Nat
  | 0, _, _ => none
  | fuel + 1, w, i =>
    match w.ent i with
    | .ref n =>
      match tget? p.tmpls n with
      | some t => some ((entHome p fuel t.win i).getD n)
      | none => none
    | _ => none

/-- A word of the register file in error: the thread's entry, or the template's that it shares (R334). -/
def Core.registerError (k : Core) (t e mask : Nat) : Core :=
  match k.thr? t with
  | none => k
  | some th =>
    if th.win.alloc ≤ e then k
    else
      let (v, was) := k.entry t e
      let (v', bad, ok) := eccRead 32 7 v.toNat was mask
      let p := k.part (posPart t)
      let k := { k with ercore := ercoreRead k.ercore was bad ok }
      match entHome p entDepth th.win e with
      | none => k.setThr t { th with win := th.win.rewrite e v' bad }
      | some n =>
        match tget? p.tmpls n with
        | some tm => k.setPart (posPart t) { p with tmpls := tset p.tmpls n { tm with win := tm.win.rewrite e v' bad } }
        | none => k

/-- 32-bit word w of the scratchpad in error (R334). -/
def Core.scratchpadError (k : Core) (w mask : Nat) : Core :=
  if Config.spBytes ≤ 4 * w then k
  else
    let was := k.spPoison.contains w
    let (v, bad, ok) := eccRead 32 7 (ofBytes (cellsRead k.sp (4 * w) 4)) was mask
    { k with sp := cellsWrite k.sp (4 * w) (toBytes 4 v)
             spPoison := if bad then (if was then k.spPoison else w :: k.spPoison) else k.spPoison.filter (· != w)
             ercore := ercoreRead k.ercore was bad ok }

/-- 64-bit word w of the cistern in error: accumulators 2w and 2w + 1 (R334). -/
def Core.cisternError (k : Core) (w mask : Nat) : Core :=
  let acc (n : Nat) := (tget 0 k.cistern n).toNat
  let put (t : Tbl Word) (n v : Nat) : Tbl Word := if v = 0 then tdel t n else tset t n (wd v)
  if Config.cisternWords ≤ 2 * w then k
  else
    let was := k.ciPoison.contains w
    let (v, bad, ok) := eccRead 64 8 (acc (2 * w) + 2 ^ 32 * acc (2 * w + 1)) was mask
    { k with cistern := put (put k.cistern (2 * w) (v % 2 ^ 32)) (2 * w + 1) (v / 2 ^ 32)
             ciPoison := if bad then (if was then k.ciPoison else w :: k.ciPoison) else k.ciPoison.filter (· != w)
             ercore := ercoreRead k.ercore was bad ok }

/-- Stored bits of a sector flip: its data, and the difference of its check bits; nothing is corrected until a read
(R335, R336). -/
def State.sectorError (s : State) (sec mask : Nat) : State :=
  if Config.memBytes ≤ sec * 32 then s
  else
    let bs := List.zipWith (fun (b : Byte) j => b ^^^ BitVec.ofNat 8 (mask >>> (8 * j))) (cellsRead s.mem (sec * 32) 32)
      (List.range 32)
    let d := tget 0 s.check sec ^^^ BitVec.ofNat 10 (eccDelta 256 10 mask)
    { s with mem := cellsWrite s.mem (sec * 32) bs
             check := if d = 0 then tdel s.check sec else tset s.check sec d
             poison := s.poison.filter (· != sec) }

/-- An error in stored bits (R334..R336). -/
def State.bitError (s : State) (e : BitError) : State :=
  match e with
  | .memory sec mask => s.sectorError sec mask
  | .register c t n mask => s.modCore c fun k => k.registerError t n mask
  | .scratchpad c w mask => s.modCore c fun k => k.scratchpadError w mask
  | .cistern c w mask => s.modCore c fun k => k.cisternError w mask

end Sys2Proof.Machine
end

