-- ==== Sys2Proof/Machine/Step.lean ====
section
/-! DEFINITION. One step of the machine: time advances, then the next event of the plan, the next issue slot, or the
next due event of an agent is taken (notes/assumptions/2). withFetchWord places an instruction. -/

namespace Sys2Proof.Machine

/-- A step that ran into a physical address without memory stops (R301). -/
def settle (o : Host.Outcome State Fault Refusal) : Host.Outcome State Fault Refusal :=
  match o with
  | .next s => match s.bad with | some pa => .fault (.offMemory pa) | none => .next s.tidy
  | o => o

/-- An event of an agent, or an injected unit; one of a core whose cascade belongs to none does not take place (R293). -/
def stepEvent (i : Instr) (s : State) : Host.Outcome State Fault Refusal :=
  if s.mayRun i then settle (exec i { s with cur := .none }) else settle (.next { s with cur := .none })

/-- The issue slot of partition k = core x 4 + partition. -/
def stepSlot (k : Nat) (s : State) : Host.Outcome State Fault Refusal :=
  match s.takeSlot (k / 4) (k % 4) with
  | .idle s => settle (.next s)
  | .stopped s => settle (.next s)
  | .unit i s => settle (counted i s (exec i s))

/-- After a slot whose stores are late. -/
def undelay (o : Host.Outcome State Fault Refusal) : Host.Outcome State Fault Refusal :=
  match o with
  | .next s => .next { s with delay := false }
  | o => o

/-- With an empty plan: the first partition at or after turn with a unit to issue, then a round of the due events. -/
def stepAuto : List Nat → State → Host.Outcome State Fault Refusal
  | [], s =>
    match s.dueEvent with
    | some i => stepEvent i { s with turn := s.turnAfterEvent }
    | none => settle (.next { s with turn := 0 })
  | k :: ks, s =>
    match s.takeSlot (k / 4) (k % 4) with
    | .idle s => stepAuto ks s
    | .stopped s => settle (.next { s with turn := k + 1 })
    | .unit i s => settle (counted i s (exec i { s with turn := k + 1 }))

/-- One step of the machine. -/
def step (s : State) : Host.Outcome State Fault Refusal :=
  match s.plan with
  | .ev i :: rest => stepEvent i { s.tick with plan := rest }
  | .recv m :: rest => settle (.next { s.tick with plan := rest, msgs := s.msgs ++ [m] })
  | .issue k :: rest => stepSlot k { s.tick with plan := rest }
  | .delay k :: rest => undelay (stepSlot k { s.tick with plan := rest, delay := true })
  | .apply c k :: rest => settle (.next ({ s.tick with plan := rest }.applyLate c k))
  | .idle ns :: rest => settle (.next ({ s with plan := rest }.elapse (s.idleRoom ns)))
  | .dropL1 c line :: rest =>
    settle (.next ({ s.tick with plan := rest }.modCore c fun k => { k with l1 := tdel k.l1 line }))
  | .dropGuest d line :: rest =>
    let s := { s.tick with plan := rest }
    settle (.next (s.setDie d { s.die d with guests := tdel (s.die d).guests line }))
  | .checker n lane :: rest => settle (.next { s.tick with plan := rest, upset := some (n, lane) })
  | .bitError e :: rest => settle (.next ({ s.tick with plan := rest }.bitError e))
  | [] => stepAuto (s.slotsFrom s.turn) s.tick

/-- The machine with one instruction where step fetches next (notes/assumptions/11). -/
def State.withFetchWord (s : State) (nbits w : Nat) : State :=
  s.placeWord (toBytes (max 16 (nbits / 8)) (w % 2 ^ nbits))

end Sys2Proof.Machine
end

