-- ==== Sys2Proof/Safety.lean ====
section
/-! DEFINITION. What a safe run is: every step answers a next state, and the byte stores keep their canonical form. -/

namespace Sys2Proof

/-- A step completes: neither a fault nor a refusal. -/
def Machine.State.Completes (s : Machine.State) : Prop := ∃ t, Machine.step s = .next t

/-- Memory, every scratchpad and every saved scratchpad in canonical form. -/
def Machine.State.storesWf (s : Machine.State) : Bool :=
  Machine.Memory.wf s.mem && (s.cores.all fun e => Machine.Memory.wf e.2.sp)
    && s.saves.all fun v => Machine.Memory.wf v.core.sp

/-- Every state in k steps completes and keeps its byte stores in canonical form. -/
def Machine.State.SafeFor : Nat → Machine.State → Prop
  | 0, s => s.storesWf = true
  | k + 1, s => s.storesWf = true ∧ ∃ t, Machine.step s = .next t ∧ Machine.State.SafeFor k t

end Sys2Proof
end

