-- ==== Sys2Proof/Certificates/Slice0/Obligations.lean ====
section
/-! DEFINITION. The statements for the provers: what a unit of a Caerian program does, what a step of each other agent does,
what an instruction leaves alone, and what holds of every step. -/

namespace Sys2Proof.Claims

open Sys2Proof.Machine

/-! ### The forms of the statements -/

/-- A unit i is reached by one thread, which is not in the midst of it: its guard is true, and no deferred access or checker
mismatch stops it. -/
def Met (i : Instr) (s : State) (c t : Nat) (th : Thread) : Prop :=
  s.cur.core = c ∧ s.cur.members = [t] ∧ s.thr? c t = some th ∧ guardHolds th.win.preds i.guard = true
  ∧ th.log = none ∧ s.cur.upset = none ∧ th.prog = none

/-- A unit i runs for one thread: its guard is true, its access conditions hold, no deferred access or checker
mismatch stops it, and record and replay is off. -/
structure Solo (i : Instr) (pre : State → Nat → Nat → Except Stop Unit) (s : State) (c t : Nat) (th : Thread) :
    Prop where
  core    : s.cur.core = c
  members : s.cur.members = [t]
  thread  : s.thr? c t = some th
  guard   : guardHolds th.win.preds i.guard = true
  noLog   : th.log = none
  noUpset : s.cur.upset = none
  noRr    : bits (s.ten (s.core c).tenancy).rr.toNat 63 62 = 0
  checks  : startUnit i pre s c t th = .ok ()

/-- The state after a unit whose effect gave s, with its latch (R84, R85, R353). -/
def ran (s : State) (c t : Nat) (i : Instr) (l : Latch) : State := (s.countLane c t i).complete c t i l

/-- The unit completes, with an effect and a latch. -/
def Gives (i : Instr) (pre : State → Nat → Nat → Except Stop Unit) (P : State → Nat → Nat → Thread → Prop)
    (eff : State → Nat → Nat → Thread → State) (l : State → Nat → Nat → Thread → Latch) : Prop :=
  ∀ s c t th, Solo i pre s c t th → P s c t th → exec i s = .next (ran (eff s c t th) c t i (l s c t th))

/-- The latch of a unit without a result (R18). -/
def noL (_ : State) (_ _ : Nat) (_ : Thread) : Latch := .val 0

/-- No condition beyond those of Solo. -/
def always (_ : State) (_ _ : Nat) (_ : Thread) : Prop := True

/-- The unit writes a 32-bit result to d, which is its latch too (R18). -/
def Gives32 (i : Instr) (d : Dst) (v : State → Nat → Nat → Word) : Prop :=
  Gives i noPre always (fun s c t _ => s.dst c t d (v s c t)) fun s c t _ => .val ((v s c t).setWidth 64)

/-- The unit writes a 64-bit result to the pair d, which is its latch too (R18). -/
def Gives64 (i : Instr) (d : Dst) (v : State → Nat → Nat → DWord) : Prop :=
  Gives i noPre always (fun s c t _ => s.dst64 c t d (v s c t)) fun s c t _ => .val (v s c t)

/-- The unit writes the predicates; the latch is a bit (R18). -/
def GivesPreds (i : Instr) (ps : State → Nat → Nat → BitVec 7) (b : State → Nat → Nat → Bool) : Prop :=
  Gives i noPre always (fun s c t _ => s.setPreds c t (ps s c t)) fun s c t _ => .val (if b s c t then 1 else 0)

/-- The unit stops its thread. -/
def Stops (i : Instr) (pre : State → Nat → Nat → Except Stop Unit) (P : State → Nat → Nat → Thread → Prop)
    (e : State → Nat → Nat → Thread → Stop) : Prop :=
  ∀ s c t th, Solo i pre s c t th → P s c t th → exec i s = .next (s.stopAt c t (e s c t th))

/-- A fault of class 1 whose restart PC is the chain head. -/
def fault1 (kind : Nat) (info : List Word) : Stop := .trap 1 kind info false

/-! ### Integer values, on bit vectors (R94, R99, R101) -/

section
variable {n : Nat}

/-- The reading of an operand: signed, or unsigned under N (R94). -/
def rd (m : Option Mode) (x : BitVec n) : Int := if modeN m then (x.toNat : Int) else x.toInt

/-- The least and the greatest integer of the result's range (R94). -/
def least (n : Nat) (m : Option Mode) : Int := if modeN m then 0 else -(2 ^ (n - 1) : Int)
def most (n : Nat) (m : Option Mode) : Int := if modeN m then 2 ^ n - 1 else 2 ^ (n - 1) - 1

/-- The pattern of a result: modulo 2^n, or clamped under SAT (R94). -/
def fit (n : Nat) (m : Option Mode) (v : Int) : BitVec n :=
  BitVec.ofInt n (if modeSat m then max (least n m) (min (most n m) v) else v)

/-- NEG and ABS: under SAT the most negative number gives the greatest (R99). -/
def negSpec (m : Option Mode) (x : BitVec n) : BitVec n :=
  if modeSat m ∧ x = BitVec.intMin n then BitVec.intMax n else -x
def absSpec (m : Option Mode) (x : BitVec n) : BitVec n := if x.toInt < 0 then negSpec m x else x

/-- The number of ones (R99). -/
def ones (x : BitVec n) : Nat := (List.range n).countP fun k => x.getLsbD k

/-- Zeros above the highest one, and below the lowest; n for 0 (R99). -/
def zerosAbove (x : BitVec n) : Nat := ((List.range n).takeWhile fun k => !x.getLsbD (n - 1 - k)).length
def zerosBelow (x : BitVec n) : Nat := ((List.range n).takeWhile fun k => !x.getLsbD k).length

/-- A compare's condition (R101). -/
def condSpec (m : Option Mode) (cc : Cc) (x y : BitVec n) : Bool :=
  match cc with
  | .eq => x == y
  | .lt => decide (rd m x < rd m y)
  | .le => decide (rd m x ≤ rd m y)
  | .tst => (x &&& y) != 0
end

/-- The bytes in the other order (R99). -/
def swap32 (x : Word) : Word :=
  x.extractLsb' 0 8 ++ x.extractLsb' 8 8 ++ x.extractLsb' 16 8 ++ x.extractLsb' 24 8
def swap64 (x : DWord) : DWord := swap32 (x.extractLsb' 0 32) ++ swap32 (x.extractLsb' 32 32)

/-- Src(a) and Src(b) as pairs, for a function of two 64-bit operands. -/
def on2 (f : DWord → DWord → DWord) (a b : Src) (s : State) (c t : Nat) : DWord := f (s.src64 c t a) (s.src64 c t b)

end Sys2Proof.Claims

open Sys2Proof Sys2Proof.Machine Sys2Proof.Claims

/-! ### Integer units (R92..R99) -/

/-- R94 on 32 bits: IADD, ISUB and IMUL, exact, modulo 2^32 or saturated; IMULW's 64-bit product. R94 on 32 bits: the
bitwise units, shifts, minimum and maximum; R98: SEL. R93: under W the same on pairs; a shift's count stays 32 bits. -/
def Obligations.IntegerTwoSource : Prop :=
  (∀ (m : Option Mode) (d : Dst) (a b : Src) (g : Guard) (ch : Bool), modeW m = false →
     Gives32 (.iadd m d a b g ch) d (fun s c t => fit 32 m (rd m (s.src c t a) + rd m (s.src c t b)))
     ∧ Gives32 (.isub m d a b g ch) d (fun s c t => fit 32 m (rd m (s.src c t a) - rd m (s.src c t b)))
     ∧ Gives32 (.imul m d a b g ch) d (fun s c t => fit 32 m (rd m (s.src c t a) * rd m (s.src c t b)))
     ∧ Gives64 (.imulw m d a b g ch) d (fun s c t => BitVec.ofInt 64 (rd m (s.src c t a) * rd m (s.src c t b))))
  ∧ (∀ (m : Option Mode) (gp : Option Guard) (d : Dst) (a b : Src) (g : Guard) (ch : Bool), modeW m = false →
     Gives32 (.and m d a b g ch) d (fun s c t => s.src c t a &&& s.src c t b)
     ∧ Gives32 (.or m d a b g ch) d (fun s c t => s.src c t a ||| s.src c t b)
     ∧ Gives32 (.xor m d a b g ch) d (fun s c t => s.src c t a ^^^ s.src c t b)
     ∧ Gives32 (.shl m d a b g ch) d (fun s c t => s.src c t a <<< (s.src c t b).toNat)
     ∧ Gives32 (.shr m d a b g ch) d (fun s c t => s.src c t a >>> (s.src c t b).toNat)
     ∧ Gives32 (.sar m d a b g ch) d (fun s c t => (s.src c t a).sshiftRight (s.src c t b).toNat)
     ∧ Gives32 (.imin m d a b g ch) d
         (fun s c t => if rd m (s.src c t a) ≤ rd m (s.src c t b) then s.src c t a else s.src c t b)
     ∧ Gives32 (.imax m d a b g ch) d
         (fun s c t => if rd m (s.src c t a) ≤ rd m (s.src c t b) then s.src c t b else s.src c t a)
     ∧ Gives32 (.sel gp d a b g ch) d
         (fun s c t => if guardHolds (s.preds c t) g then s.src c t a else s.src c t b))
  ∧ (∀ (m : Option Mode) (d : Dst) (a b : Src) (g : Guard) (ch : Bool), modeW m = true →
     Gives64 (.iadd m d a b g ch) d (on2 (fun x y => fit 64 m (rd m x + rd m y)) a b)
     ∧ Gives64 (.isub m d a b g ch) d (on2 (fun x y => fit 64 m (rd m x - rd m y)) a b)
     ∧ Gives64 (.imul m d a b g ch) d (on2 (fun x y => fit 64 m (rd m x * rd m y)) a b)
     ∧ Gives64 (.and m d a b g ch) d (on2 (· &&& ·) a b)
     ∧ Gives64 (.or m d a b g ch) d (on2 (· ||| ·) a b)
     ∧ Gives64 (.xor m d a b g ch) d (on2 (· ^^^ ·) a b)
     ∧ Gives64 (.imin m d a b g ch) d (on2 (fun x y => if rd m x ≤ rd m y then x else y) a b)
     ∧ Gives64 (.imax m d a b g ch) d (on2 (fun x y => if rd m x ≤ rd m y then y else x) a b)
     ∧ Gives64 (.shl m d a b g ch) d (fun s c t => s.src64 c t a <<< (s.src c t b).toNat)
     ∧ Gives64 (.shr m d a b g ch) d (fun s c t => s.src64 c t a >>> (s.src c t b).toNat)
     ∧ Gives64 (.sar m d a b g ch) d (fun s c t => (s.src64 c t a).sshiftRight (s.src c t b).toNat))

/-- R99: the UNI units, on 32 bits and under W on pairs. -/
def Obligations.UniUnits : Prop :=
  (∀ (m : Option Mode) (d : Dst) (a : Src) (g : Guard) (ch : Bool), modeW m = false →
     Gives32 (.mov m d a g ch) d (fun s c t => s.src c t a)
     ∧ Gives32 (.not m d a g ch) d (fun s c t => ~~~ s.src c t a)
     ∧ Gives32 (.neg m d a g ch) d (fun s c t => negSpec m (s.src c t a))
     ∧ Gives32 (.abs m d a g ch) d (fun s c t => absSpec m (s.src c t a))
     ∧ Gives32 (.popc m d a g ch) d (fun s c t => BitVec.ofNat 32 (ones (s.src c t a)))
     ∧ Gives32 (.clz m d a g ch) d (fun s c t => BitVec.ofNat 32 (zerosAbove (s.src c t a)))
     ∧ Gives32 (.ctz m d a g ch) d (fun s c t => BitVec.ofNat 32 (zerosBelow (s.src c t a)))
     ∧ Gives32 (.brev m d a g ch) d (fun s c t => (s.src c t a).reverse)
     ∧ Gives32 (.sxb m d a g ch) d (fun s c t => ((s.src c t a).setWidth 8).signExtend 32)
     ∧ Gives32 (.sxh m d a g ch) d (fun s c t => ((s.src c t a).setWidth 16).signExtend 32)
     ∧ Gives32 (.zxb m d a g ch) d (fun s c t => ((s.src c t a).setWidth 8).setWidth 32)
     ∧ Gives32 (.zxh m d a g ch) d (fun s c t => ((s.src c t a).setWidth 16).setWidth 32)
     ∧ Gives32 (.bswap m d a g ch) d (fun s c t => swap32 (s.src c t a)))
  ∧ (∀ (m : Option Mode) (d : Dst) (a : Src) (g : Guard) (ch : Bool), modeW m = true →
     Gives64 (.mov m d a g ch) d (fun s c t => s.src64 c t a)
     ∧ Gives64 (.not m d a g ch) d (fun s c t => ~~~ s.src64 c t a)
     ∧ Gives64 (.neg m d a g ch) d (fun s c t => negSpec m (s.src64 c t a))
     ∧ Gives64 (.abs m d a g ch) d (fun s c t => absSpec m (s.src64 c t a))
     ∧ Gives64 (.popc m d a g ch) d (fun s c t => BitVec.ofNat 64 (ones (s.src64 c t a)))
     ∧ Gives64 (.clz m d a g ch) d (fun s c t => BitVec.ofNat 64 (zerosAbove (s.src64 c t a)))
     ∧ Gives64 (.ctz m d a g ch) d (fun s c t => BitVec.ofNat 64 (zerosBelow (s.src64 c t a)))
     ∧ Gives64 (.brev m d a g ch) d (fun s c t => (s.src64 c t a).reverse)
     ∧ Gives64 (.sxb m d a g ch) d (fun s c t => ((s.src64 c t a).setWidth 8).signExtend 64)
     ∧ Gives64 (.sxh m d a g ch) d (fun s c t => ((s.src64 c t a).setWidth 16).signExtend 64)
     ∧ Gives64 (.zxb m d a g ch) d (fun s c t => ((s.src64 c t a).setWidth 8).setWidth 64)
     ∧ Gives64 (.zxh m d a g ch) d (fun s c t => ((s.src64 c t a).setWidth 16).setWidth 64)
     ∧ Gives64 (.bswap m d a g ch) d (fun s c t => swap64 (s.src64 c t a)))

/-- The 32-bit immediate of R95: a prefix's 20 bits above the 12, else the 12 bits extended. -/
def Sys2Proof.Claims.imm32 (signed : Bool) (x : Option (BitVec 20)) (imm : BitVec 12) : Word :=
  match x with
  | some p => p ++ imm
  | none => if signed then imm.signExtend 32 else imm.setWidth 32

/-- R95, R96, R97: the immediate units, on 32 bits and, where they take W, on pairs. -/
def Obligations.ImmediateUnits : Prop :=
  ∀ (x : Option (BitVec 20)) (gp : Option Guard) (m : Option Mode) (d : Dst) (a : Src) (imm : BitVec 12)
    (n : BitVec 6) (u : BitVec 19),
    Gives32 (.andi x gp d a imm) d (fun s c t => s.src c t a &&& imm32 false x imm)
    ∧ Gives32 (.ori x gp d a imm) d (fun s c t => s.src c t a ||| imm32 false x imm)
    ∧ Gives32 (.xori x gp d a imm) d (fun s c t => s.src c t a ^^^ imm32 false x imm)
    ∧ Gives32 (.lui gp d u) d (fun _ _ _ => u ++ 0#13)
    ∧ (modeW m = false →
        Gives32 (.iaddi x gp m d a imm) d (fun s c t => fit 32 m (rd m (s.src c t a) + rd m (imm32 true x imm)))
        ∧ Gives32 (.shli gp m d a n) d (fun s c t => s.src c t a <<< n.toNat)
        ∧ Gives32 (.shri gp m d a n) d (fun s c t => s.src c t a >>> n.toNat)
        ∧ Gives32 (.sari gp m d a n) d (fun s c t => (s.src c t a).sshiftRight n.toNat))
    ∧ (modeW m = true →
        Gives64 (.iaddi x gp m d a imm) d
          (fun s c t => fit 64 m (rd m (s.src64 c t a) + rd m ((imm32 true x imm).signExtend 64)))
        ∧ Gives64 (.shli gp m d a n) d (fun s c t => s.src64 c t a <<< n.toNat)
        ∧ Gives64 (.shri gp m d a n) d (fun s c t => s.src64 c t a >>> n.toNat)
        ∧ Gives64 (.sari gp m d a n) d (fun s c t => (s.src64 c t a).sshiftRight n.toNat))

/-! ### Predicates and compares (R100..R102, R134) -/

/-- R22, R100: the predicate units, whose latch holds the value written; a write to predicate k is read back there and nowhere
else, and p7 stays true; a guard holds when its predicate XOR neg is true. -/
def Obligations.PredicateUnits : Prop :=
  (∀ (pd pa pb : BitVec 3) (na nb v : Bool) (d : Dst) (a : Src) (g : Guard) (ch : Bool),
     GivesPreds (.pand pd pa na pb nb g ch) (fun s c t => predSet (s.preds c t) pd
         ((predGet (s.preds c t) pa ^^ na) && (predGet (s.preds c t) pb ^^ nb)))
       (fun s c t => (predGet (s.preds c t) pa ^^ na) && (predGet (s.preds c t) pb ^^ nb))
     ∧ GivesPreds (.por pd pa na pb nb g ch) (fun s c t => predSet (s.preds c t) pd
         ((predGet (s.preds c t) pa ^^ na) || (predGet (s.preds c t) pb ^^ nb)))
       (fun s c t => (predGet (s.preds c t) pa ^^ na) || (predGet (s.preds c t) pb ^^ nb))
     ∧ GivesPreds (.pxor pd pa na pb nb g ch) (fun s c t => predSet (s.preds c t) pd
         ((predGet (s.preds c t) pa ^^ na) ^^ (predGet (s.preds c t) pb ^^ nb)))
       (fun s c t => (predGet (s.preds c t) pa ^^ na) ^^ (predGet (s.preds c t) pb ^^ nb))
     ∧ GivesPreds (.movp pd pa na g ch) (fun s c t => predSet (s.preds c t) pd (predGet (s.preds c t) pa ^^ na))
       (fun s c t => predGet (s.preds c t) pa ^^ na)
     ∧ GivesPreds (.setp pd v g ch) (fun s c t => predSet (s.preds c t) pd v) (fun _ _ _ => v)
     ∧ Gives32 (.p2w d g ch) d (fun s c t => (1#1 ++ s.preds c t).setWidth 32)
     ∧ Gives (.w2p a g ch) noPre always (fun s c t _ => s.setPreds c t ((s.src c t a).setWidth 7))
         (fun s c t _ => .val (((s.src c t a).setWidth 7).setWidth 64)))
  ∧ (∀ (ps : BitVec 7) (k j : BitVec 3) (v : Bool),
     predGet ps 7 = true ∧ predSet ps 7 v = ps ∧ (k ≠ 7 → predGet (predSet ps k v) k = v)
     ∧ (j ≠ k → predGet (predSet ps k v) j = predGet ps j)
     ∧ guardHolds ps { neg := v, p := k } = (predGet ps k ^^ v)
     ∧ guardHolds ps { neg := false, p := 7 } = true ∧ guardHolds ps { neg := true, p := 7 } = false)

/-- The immediate of CMPI (R102): 11 bits by sign, or by zero under N; a prefix's 21 bits above them. -/
def Sys2Proof.Claims.cmpImm (n : Nat) (x : Option (BitVec 21)) (m : Option Mode) (imm : BitVec 11) : BitVec n :=
  match x with
  | some p => if modeN m then (p ++ imm).setWidth n else (p ++ imm).signExtend n
  | none => if modeN m then imm.setWidth n else imm.signExtend n

/-! ### Floating point (R125..R137) -/

namespace Sys2Proof.Claims

/-- The exact value of a register operand in a format, after FZI (R35, R46). -/
def val (f : Fp) (m : Option Mode) (w : Nat) : Ex := f.widen (rndOf m).fzi w

/-- Round of an exact value, as a register of 32 bits. -/
def out32 (m : Option Mode) (x : Ex) : Word := BitVec.ofNat 32 (fp32.round (rndOf m) x)

/-- The rounding mode of a unit. -/
def rmOf (m : Option Mode) : Nat := (rndOf m).rm

/-- The halves of a packed register (R132). -/
def low (w : Word) : Nat := w.toNat % 2 ^ 16
def high (w : Word) : Nat := w.toNat / 2 ^ 16

/-- Both halves rounded to FP16 and packed. -/
def outHalves (m : Option Mode) (l h : Ex) : Word :=
  BitVec.ofNat 16 (fp16.round (rndOf m) h) ++ BitVec.ofNat 16 (fp16.round (rndOf m) l)

/-- Src of a T-format unit's three operands. -/
def arg3 (s : State) (c t : Nat) (a b : Src) (d : Dst) : Word × Word × Word :=
  (s.src c t a, s.src c t b, s.src c t d.toSrc)

/-- An FP32 unit of three operands gives Round(FP32, f x y z). -/
def GivesF3 (i : Instr) (m : Option Mode) (d : Dst) (a b : Src) (f : Ex → Ex → Ex → Ex) : Prop :=
  Gives32 i d fun s c t =>
    out32 m (f (val fp32 m (s.src c t a).toNat) (val fp32 m (s.src c t b).toNat) (val fp32 m (s.src c t d.toSrc).toNat))

/-- A packed unit of three operands gives Round(FP16, f x y z) in each half. -/
def GivesH3 (i : Instr) (m : Option Mode) (d : Dst) (a b : Src) (f : Ex → Ex → Ex → Ex) : Prop :=
  Gives32 i d fun s c t =>
    outHalves m
      (f (val fp16 m (low (s.src c t a))) (val fp16 m (low (s.src c t b))) (val fp16 m (low (s.src c t d.toSrc))))
      (f (val fp16 m (high (s.src c t a))) (val fp16 m (high (s.src c t b))) (val fp16 m (high (s.src c t d.toSrc))))

/-- A unit of one FP32 operand gives Round(FP32, f x). -/
def GivesF1 (i : Instr) (m : Option Mode) (d : Dst) (a : Src) (f : Ex → Ex) : Prop :=
  Gives32 i d fun s c t => out32 m (f (val fp32 m (s.src c t a).toNat))

/-- A packed unit of one operand gives Round(FP16, f x) in each half. -/
def GivesH1 (i : Instr) (m : Option Mode) (d : Dst) (a : Src) (f : Ex → Ex) : Prop :=
  Gives32 i d fun s c t =>
    outHalves m (f (val fp16 m (low (s.src c t a)))) (f (val fp16 m (high (s.src c t a))))

/-- A unit of one FP32 operand gives a function of its bits and of the MODE fields. -/
def GivesBits (i : Instr) (d : Dst) (a : Src) (f : Word → Word) : Prop :=
  Gives32 i d fun s c t => f (s.src c t a)

/-- The class of an FP32 pattern as a one-hot mask (R131), from its exponent field, its mantissa field and its sign. -/
def classMask (fzi : Bool) (w : Word) : Word :=
  let e := w.extractLsb' 23 8
  let f := w.extractLsb' 0 23
  if e = 0xFF then (if f = 0 then (if w.msb then 0x001 else 0x080) else 0x100)
  else if e ≠ 0 then (if w.msb then 0x002 else 0x040)
  else if f = 0 ∨ fzi = true then (if w.msb then 0x008 else 0x010)
  else if w.msb then 0x004 else 0x020

/-- Two spacings of FP32 at y (R52): 2^(max(⌊log₂|y|⌋, −126) − 22), at most the largest finite value's. -/
def twoUlp : Ex → Ex
  | .fin _ m e => .fin false 1 ((if m = 0 then -126 else max (-126) (min 127 ((m.log2 : Int) + e))) - 22)
  | _ => .zero

/-- What R52 allows as the result v of an approximate function at a finite x, for its result y computed to about 190 bits:
y rounded to the nearest FP32 value, or the value z of some pattern within 2 ulp(y), 2^−20 and at most 1 in magnitude for a
sine or cosine of |x| > 2^20; FZO and SAT act on either. -/
def Within (fn : Nat) (r : Rnd) (x y : Ex) (v : Nat) : Prop :=
  v = fp32.round { r with rm := 0 } y
  ∨ ∃ z : Word, let e := fp32.widen false z.toNat
      v = fp32.round { r with rm := 0 } e ∧ e.isNan = false
      ∧ (if 3 ≤ fn ∧ (Ex.fin false 1 20).lt x.abs = true then
          (Ex.fin false 1 (-20)).lt (e.add 0 y.neg).abs = false ∧ (Ex.fin false 1 0).lt e.abs = false
        else (twoUlp y).lt (e.add 0 y.neg).abs = false)

end Sys2Proof.Claims

/-- R127, R128, R129, R132: FADD, FSUB, FMUL, FFMA, FFMS, FMIN and FMAX round the exact result once; the packed-half units
do so in each half on its own. -/
def Obligations.FloatArithmetic : Prop :=
  (∀ (m : Option Mode) (d : Dst) (a b : Src) (g : Guard) (ch : Bool),
     GivesF3 (.fadd m d a b g ch) m d a b (fun x y _ => x.add (rmOf m) y)
     ∧ GivesF3 (.fsub m d a b g ch) m d a b (fun x y _ => x.add (rmOf m) y.neg)
     ∧ GivesF3 (.fmul m d a b g ch) m d a b (fun x y _ => x.mul y)
     ∧ GivesF3 (.ffma m d a b g ch) m d a b (fun x y z => (x.mul y).add (rmOf m) z)
     ∧ GivesF3 (.ffms m d a b g ch) m d a b (fun x y z => (x.mul y).add (rmOf m) z.neg)
     ∧ GivesF3 (.fmin m d a b g ch) m d a b (fun x y _ => fpMinMax false x y)
     ∧ GivesF3 (.fmax m d a b g ch) m d a b (fun x y _ => fpMinMax true x y))
  ∧ (∀ (m : Option Mode) (d : Dst) (a b : Src) (g : Guard) (ch : Bool),
     GivesH3 (.hadd2 m d a b g ch) m d a b (fun x y _ => x.add (rmOf m) y)
     ∧ GivesH3 (.hmul2 m d a b g ch) m d a b (fun x y _ => x.mul y)
     ∧ GivesH3 (.hfma2 m d a b g ch) m d a b (fun x y z => (x.mul y).add (rmOf m) z)
     ∧ GivesH3 (.hmin2 m d a b g ch) m d a b (fun x y _ => fpMinMax false x y)
     ∧ GivesH3 (.hmax2 m d a b g ch) m d a b (fun x y _ => fpMinMax true x y))

/-- R52, R53, R130, R131, R133: the exactly rounded functions of one operand, in FP32 and in packed halves; FCLS gives the
class table's mask; the approximate functions give a function of the operand's bits and the MODE fields, which keeps R52's
bound at every finite operand but those of R53. Within the bound the pattern is the device's own; the result that the bound
is measured from is the model's, to about 190 bits, and 2^±1000 for FEX2 beyond ±2^10 (notes/assumptions/6). -/
def Obligations.FloatFunctions : Prop :=
  (∀ (m : Option Mode) (d : Dst) (a : Src) (g : Guard) (ch : Bool),
     GivesF1 (.fneg m d a g ch) m d a Ex.neg
     ∧ GivesF1 (.fabs m d a g ch) m d a Ex.abs
     ∧ GivesF1 (.fsqrt m d a g ch) m d a Ex.sqrt
     ∧ GivesF1 (.frcp m d a g ch) m d a Ex.rcp
     ∧ GivesF1 (.fflr m d a g ch) m d a (Ex.toIntegral 3)
     ∧ GivesF1 (.fceil m d a g ch) m d a (Ex.toIntegral 2)
     ∧ GivesF1 (.ftrnc m d a g ch) m d a (Ex.toIntegral 1)
     ∧ GivesF1 (.frint m d a g ch) m d a (Ex.toIntegral (rmOf m))
     ∧ GivesH1 (.hneg2 m d a g ch) m d a Ex.neg
     ∧ GivesH1 (.habs2 m d a g ch) m d a Ex.abs
     ∧ GivesH1 (.hsqrt2 m d a g ch) m d a Ex.sqrt
     ∧ GivesH1 (.hrcp2 m d a g ch) m d a Ex.rcp)
  ∧ (∀ (m : Option Mode) (d : Dst) (a : Src) (g : Guard) (ch : Bool),
     GivesBits (.frsq m d a g ch) d a (fun x => BitVec.ofNat 32 (fpApprox 0 (rndOf m) x))
     ∧ GivesBits (.fex2 m d a g ch) d a (fun x => BitVec.ofNat 32 (fpApprox 1 (rndOf m) x))
     ∧ GivesBits (.flg2 m d a g ch) d a (fun x => BitVec.ofNat 32 (fpApprox 2 (rndOf m) x))
     ∧ GivesBits (.fsin m d a g ch) d a (fun x => BitVec.ofNat 32 (fpApprox 3 (rndOf m) x))
     ∧ GivesBits (.fcos m d a g ch) d a (fun x => BitVec.ofNat 32 (fpApprox 4 (rndOf m) x))
     ∧ GivesBits (.fcls m d a g ch) d a (classMask (rndOf m).fzi))
  ∧ (∀ (fn : Nat) (r : Rnd) (x : Word) (neg : Bool) (n : Nat) (e : Int),
     fn < 5 → fp32.widen r.fzi x.toNat = .fin neg n e → n ≠ 0 → (fn = 0 ∨ fn = 2 → neg = false) →
     (fn = 1 → exactExp neg n e = none) → (fn = 2 → 2 ^ n.log2 ≠ n) →
     let y := if fn = 1 ∧ (Ex.fin false 1 10).lt (.fin false n e) = true then .fin false 1 (if neg then -1000 else 1000)
       else approxExact fn neg n e
     Within fn r (.fin neg n e) y (fpApprox fn r x))

/-- R44, R53: the special operands of the approximate functions, whatever the approximation elsewhere; a NaN among the
operands of an FP32 sum, product or fused sum makes the result the canonical NaN. -/
def Obligations.FloatSpecialResults : Prop :=
  (∀ r : Rnd, r.sat = false →
     fpApprox 0 r 0x00000000#32 = 0x7F800000 ∧ fpApprox 0 r 0x80000000#32 = 0xFF800000 ∧ fpApprox 0 r 0x7F800000#32 = 0
     ∧ fpApprox 0 r 0xBF800000#32 = 0x7FC00000
     ∧ fpApprox 1 r 0x00000000#32 = 0x3F800000 ∧ fpApprox 1 r 0x7F800000#32 = 0x7F800000 ∧ fpApprox 1 r 0xFF800000#32 = 0
     ∧ fpApprox 2 r 0x00000000#32 = 0xFF800000 ∧ fpApprox 2 r 0x7F800000#32 = 0x7F800000 ∧ fpApprox 2 r 0xBF800000#32 = 0x7FC00000
     ∧ fpApprox 2 r 0x3F800000#32 = 0
     ∧ fpApprox 3 r 0x80000000#32 = 0x80000000 ∧ fpApprox 3 r 0x7F800000#32 = 0x7FC00000
     ∧ fpApprox 4 r 0x80000000#32 = 0x3F800000 ∧ fpApprox 4 r 0xFF800000#32 = 0x7FC00000
     ∧ ∀ fn < 5, fpApprox fn r 0x7F800001#32 = 0x7FC00000)
  ∧ (∀ (m : Option Mode) (x y z : Ex), (x.isNan = true ∨ y.isNan = true ∨ z.isNan = true) →
     out32 m ((x.mul y).add (rmOf m) z) = 0x7FC00000
     ∧ (x.isNan = true ∨ y.isNan = true → out32 m (x.add (rmOf m) y) = 0x7FC00000 ∧ out32 m (x.mul y) = 0x7FC00000))

namespace Sys2Proof.Claims

/-- The 32 bits of Round to an integer format of range lo..hi (R42): rounded under rm, then clamped; NaN gives 0. -/
def outInt (m : Option Mode) (lo hi : Int) (x : Ex) : Word :=
  match x.toIntegral (rmOf m) with
  | .nan => 0
  | .inf neg => BitVec.ofInt 32 (if neg then lo else hi)
  | .fin neg n _ => BitVec.ofInt 32 (max lo (min hi (if neg then -(n : Int) else n)))

/-- The value of an E2M1S element: its code in bits 3:0, the spare in 15:8, the scale in 23:16 (R39, R50, R137). -/
def spareVal (m : Option Mode) (v : Word) : Ex :=
  (if v.extractLsb' 0 4 = 8 then val e4m3 m (v.extractLsb' 8 8).toNat else val e2m1 m (v.extractLsb' 0 4).toNat).mul
    (if v.extractLsb' 16 8 = 0xFF then .nan else .fin false 1 (((v.extractLsb' 16 8).toNat : Int) - 127))

/-- A minor between single registers: Round(dst, Widen(src, v), rm), placed as R49 says (R50). -/
def cvtSpec (m : Option Mode) (k : Cvt) (v : Word) : Word :=
  let x := val fp32 m v.toNat
  let code (f : Fp) : Word := BitVec.ofNat 32 (f.round (rndOf m) x)
  match k with
  | .f32i32 => out32 m (Ex.ofInt v.toInt)
  | .f32n32 => out32 m (Ex.ofInt v.toNat)
  | .f32i8 => out32 m (Ex.ofInt (v.extractLsb' 0 8).toInt)
  | .f32n8 => out32 m (Ex.ofInt (v.extractLsb' 0 8).toNat)
  | .f32i4 => out32 m (Ex.ofInt (v.extractLsb' 0 4).toInt)
  | .f32n4 => out32 m (Ex.ofInt (v.extractLsb' 0 4).toNat)
  | .i32f32 => outInt m (-2147483648) 2147483647 x
  | .n32f32 => outInt m 0 4294967295 x
  | .i8f32 => outInt m (-128) 127 x
  | .n8f32 => outInt m 0 255 x
  | .i4f32 => outInt m (-8) 7 x
  | .n4f32 => outInt m 0 15 x
  | .f32f16 => out32 m (val fp16 m (v.extractLsb' 0 16).toNat)
  | .f32bf16 => out32 m (val bf16 m (v.extractLsb' 0 16).toNat)
  | .f32e4m3 => out32 m (val e4m3 m (v.extractLsb' 0 8).toNat)
  | .f32e5m2 => out32 m (val e5m2 m (v.extractLsb' 0 8).toNat)
  | .f32e2m1 => out32 m (val e2m1 m (v.extractLsb' 0 4).toNat)
  | .f32e2m1s => out32 m (spareVal m v)
  | .f16f32 => code fp16
  | .bf16f32 => code bf16
  | .e4m3f32 => code e4m3
  | .e5m2f32 => code e5m2
  | .e2m1f32 => code e2m1
  | .f16x2f32 | .bf16x2f32 | .f32x2f16x2 | .e2m1sf32 => v

end Sys2Proof.Claims

/-- R42, R49, R50, R137: CVT: the minors between single registers, each by the exact value of its source and one rounding to
its destination; the packing minors 23 and 24, the unpacking minor 25, and the quantising minor 26. An E2M1S code 0b1000 is
the E4M3 value of its spare times the scale, −0 too (notes/assumptions/52). -/
def Obligations.ConvertUnits : Prop :=
  ∀ (m : Option Mode) (d : Dst) (a : Src) (k : Cvt) (g : Guard) (ch : Bool),
    (k ≠ .f16x2f32 → k ≠ .bf16x2f32 → k ≠ .f32x2f16x2 → k ≠ .e2m1sf32 →
      Gives32 (.cvt m d a k g ch) d (fun s c t => cvtSpec m k (s.src c t a)))
    ∧ Gives32 (.cvt m d a .f16x2f32 g ch) d (fun s c t =>
        BitVec.ofNat 16 (fp16.round (rndOf m) (val fp32 m ((s.src64 c t a) >>> 32).toNat))
          ++ BitVec.ofNat 16 (fp16.round (rndOf m) (val fp32 m ((s.src64 c t a).setWidth 32).toNat)))
    ∧ Gives32 (.cvt m d a .bf16x2f32 g ch) d (fun s c t =>
        BitVec.ofNat 16 (bf16.round (rndOf m) (val fp32 m ((s.src64 c t a) >>> 32).toNat))
          ++ BitVec.ofNat 16 (bf16.round (rndOf m) (val fp32 m ((s.src64 c t a).setWidth 32).toNat)))
    ∧ Gives64 (.cvt m d a .f32x2f16x2 g ch) d (fun s c t =>
        out32 m (val fp16 m (high (s.src c t a))) ++ out32 m (val fp16 m (low (s.src c t a))))
    ∧ Gives32 (.cvt m d a .e2m1sf32 g ch) d (fun s c t =>
        BitVec.ofNat 32 (e2m1sQuant (rmOf m) (val fp32 m ((s.src64 c t a).setWidth 32).toNat)
          (bits (s.src64 c t a).toNat 55 48) (bits (s.src64 c t a).toNat 47 40)))

/-- R101, R102: CMP and CMPI write pt := t and then pf := NOT t; the latch holds t. R134: FCMP and HCMP write pt := t
and then pf := NOT t; the latch holds t. -/
def Obligations.Compares : Prop :=
  (∀ (m : Option Mode) (x : Option (BitVec 21)) (gp : Option Guard) (pt pf : BitVec 3) (a b : Src) (g : Guard) (cc : Cc)
     (imm : BitVec 11),
     (modeW m = false →
       GivesPreds (.cmp m pt pf a b g cc)
         (fun s c t => predPair (s.preds c t) pt pf (condSpec m cc (s.src c t a) (s.src c t b)))
         (fun s c t => condSpec m cc (s.src c t a) (s.src c t b))
       ∧ GivesPreds (.cmpi x gp m pt pf a cc imm)
         (fun s c t => predPair (s.preds c t) pt pf (condSpec m cc (s.src c t a) (cmpImm 32 x m imm)))
         (fun s c t => condSpec m cc (s.src c t a) (cmpImm 32 x m imm)))
     ∧ (modeW m = true →
       GivesPreds (.cmp m pt pf a b g cc)
         (fun s c t => predPair (s.preds c t) pt pf (condSpec m cc (s.src64 c t a) (s.src64 c t b)))
         (fun s c t => condSpec m cc (s.src64 c t a) (s.src64 c t b))
       ∧ GivesPreds (.cmpi x gp m pt pf a cc imm)
         (fun s c t => predPair (s.preds c t) pt pf (condSpec m cc (s.src64 c t a) (cmpImm 64 x m imm)))
         (fun s c t => condSpec m cc (s.src64 c t a) (cmpImm 64 x m imm))))
  ∧ (∀ (m : Option Mode) (pt pf : BitVec 3) (a b : Src) (g : Guard) (cc : Fcc),
     GivesPreds (.fcmp m pt pf a b g cc)
       (fun s c t => predPair (s.preds c t) pt pf
         (fpCond cc (val fp32 m (s.src c t a).toNat) (val fp32 m (s.src c t b).toNat)))
       (fun s c t => fpCond cc (val fp32 m (s.src c t a).toNat) (val fp32 m (s.src c t b).toNat))
     ∧ GivesPreds (.hcmp m pt pf a b g cc)
       (fun s c t => predPair (s.preds c t) pt pf (fpCond cc (val fp16 m (low (s.src c t a))) (val fp16 m (low (s.src c t b)))))
       (fun s c t => fpCond cc (val fp16 m (low (s.src c t a))) (val fp16 m (low (s.src c t b)))))

/-! ### Arrays (R151..R153) -/

namespace Sys2Proof.Claims

/-- No ax element that the unit names stands in its way: a destination's line is not engine-owned, a source's line is
present (R19, R169). -/
def axFree (s : State) (c t : Nat) (ds : List Dst) (fs : List Src) : Prop :=
  (∀ d ∈ ds, s.dstOwned c t d = .ok ()) ∧ s.srcsPresent c t fs = .ok ()

/-- An element is read from a present line without poison (R152). -/
def elemReads (d : Dst) (n : Bool) (k : BitVec 2) (s : State) (c t : Nat) (th : Thread) : Prop :=
  axFree s c t [d] [] ∧ checkPresent (s.core c) (arrElem (th.ar n) (th.ix k.toNat)) 4 = .ok ()
  ∧ checkSpPoison (s.core c) (arrElem (th.ar n) (th.ix k.toNat)) 4 = .ok ()

/-- An element is stored to a line that no engine owns (R144, R152). -/
def elemWrites (n : Bool) (k : BitVec 2) (a : Src) (s : State) (c t : Nat) (th : Thread) : Prop :=
  axFree s c t [] [a] ∧ checkOwned (s.core c) (arrElem (th.ar n) (th.ix k.toNat)) 4 = .ok ()

/-- An element access outside its array raises the index-bounds fault (R21, R31, R152). -/
def StopsAtIndex (i : Instr) (n : Bool) (k : BitVec 2) : Prop :=
  ∀ s c t th, Met i s c t th → checkWindow th.win i.srcs i.dsts = .ok () → checkBounds th i.srcs [] = .ok () →
    (th.ar n).lim.toNat ≤ (th.ix k.toNat).toNat →
    exec i s = .next (s.stopAt c t
      (fault1 2 [wd n.toNat, wd k.toNat, (th.ix k.toNat).setWidth 32, (th.ar n).lim.setWidth 32]))

/-- The little-endian word of the scratchpad at an offset. -/
def spWord (k : Core) (o : Nat) : Word := BitVec.ofNat 32 (ofBytes (k.spRead o 4))

/-- The window after a change of one index register. -/
def withIx (th : Thread) (k : BitVec 2) (v : BitVec 16) : Thread := { th with win := th.win.setIx k v }

end Sys2Proof.Claims

/-- R21, R152, R153: MOVX, STX, IXSET, IXADD and ABSET; an index at or above its limit, and array settings out of range,
raise their faults. -/
def Obligations.ArrayUnits : Prop :=
  (∀ (d : Dst) (n : Bool) (k : BitVec 2) (a : Src) (g : Guard) (ch : Bool),
     Gives (.movx d n k g ch) noPre (elemReads d n k)
       (fun s c t th => (s.bump c (posPart t) 26 1).dst c t d (spWord (s.core c) (arrElem (th.ar n) (th.ix k.toNat))))
       (fun s c _ th => .val ((spWord (s.core c) (arrElem (th.ar n) (th.ix k.toNat))).setWidth 64))
     ∧ Gives (.movxIndex d k g ch) noPre always (fun s c t th => s.dst c t d ((th.ix k.toNat).setWidth 32))
       (fun _ _ _ th => .val ((th.ix k.toNat).setWidth 64))
     ∧ Gives (.stx n k a g ch) noPre (elemWrites n k a)
       (fun s c t th => (s.bump c (posPart t) 26 1).modCore c fun q =>
         q.spStore (arrElem (th.ar n) (th.ix k.toNat)) (toBytes 4 (s.src c t a).toNat))
       noL
     ∧ Gives (.ixset k a g ch) noPre always
       (fun s c t th => s.setThr c t (withIx th k ((s.src c t a).setWidth 16))) noL
     ∧ Gives (.ixadd k a g ch) noPre always
       (fun s c t th => s.setThr c t (withIx th k (th.ix k.toNat + (s.src c t a).setWidth 16))) noL
     ∧ Gives (.abset n a g ch) noPre
       (fun s c t _ => ((s.src64 c t a).setWidth 32).toNat % 4 = 0 ∧ ((s.src64 c t a).setWidth 32).toNat < 1048576
         ∧ ((s.src64 c t a) >>> 32).toNat ≤ 65535
         ∧ ((s.src64 c t a).setWidth 32).toNat + 4 * ((s.src64 c t a) >>> 32).toNat ≤ 1048576)
       (fun s c t th => s.setThr c t
         { th with win := th.win.setAr n (.mk ((s.src64 c t a).setWidth 32) (((s.src64 c t a) >>> 32).setWidth 16)) })
       noL)
  ∧ (∀ (d : Dst) (n : Bool) (k : BitVec 2) (a : Src) (g : Guard) (ch : Bool),
     StopsAtIndex (.movx d n k g ch) n k ∧ StopsAtIndex (.stx n k a g ch) n k
     ∧ Stops (.abset n a g ch) noPre
       (fun s c t _ => ((s.src64 c t a).setWidth 32).toNat % 4 ≠ 0
         ∨ 1048576 ≤ ((s.src64 c t a).setWidth 32).toNat ∨ 65535 < ((s.src64 c t a) >>> 32).toNat
         ∨ 1048576 < ((s.src64 c t a).setWidth 32).toNat + 4 * ((s.src64 c t a) >>> 32).toNat)
       (fun s c t _ => fault1 14 [wd n.toNat, (s.src64 c t a).setWidth 32, ((s.src64 c t a) >>> 32).setWidth 32]))

/-! ### Memory units (R139..R150) -/

namespace Sys2Proof.Claims

/-- The effective address (R142): Src(a) plus a prefix's 24 bits, or the field times the size. -/
def ea (x : Option (BitVec 24)) (a : Src) (off : BitVec 5) (n : Nat) (s : State) (c t : Nat) : Word :=
  s.src c t a + (match x with | some p => p.signExtend 32 | none => wd (off.toNat * n))

/-- An access is aligned: its address, and the offset a prefix gives, are multiples of the size (R80, R141). -/
def aligned (x : Option (BitVec 24)) (a : Src) (off : BitVec 5) (n : Nat) (s : State) (c t : Nat) : Prop :=
  (∀ p, x = some p → p.toNat % n = 0) ∧ (ea x a off n s c t).toNat % n = 0

/-- The scoreboard entry of a load (R143). -/
def loadPend (s : State) (c : Nat) (th : Thread) (d : Dst) (sz : LdSz) (src : LoadSrc) (engine : Nat) : Pend :=
  { id := (s.core c).nextOp + 1, pc := th.pc, reg := dstCode d, engine, acqs := (s.core c).acqs
    ents := (th.target d (if sz = .b64 then 2 else 1)).1, ax := (th.target d (if sz = .b64 then 2 else 1)).2
    latch := d == .zr, sz, src, spray := match th.st with | .spray id => id | _ => 0 }

/-- A load has issued: its destination is private and pending (R24, R143). -/
def loadIssued (s : State) (c t : Nat) (th : Thread) (d : Dst) (sz : LdSz) (src : LoadSrc) (engine : Nat) : State :=
  (s.modCore c fun k =>
      { (k.ownEnts t (th.target d (if sz = .b64 then 2 else 1)).1) with nextOp := (s.core c).nextOp + 1 }).modThr c t
    fun th' => { th' with pend := th'.pend ++ [loadPend s c th d sz src engine] }

/-- The latch of a load: the load itself for zr, which has no other destination (R143). -/
def loadLatch (d : Dst) (s : State) (c _ : Nat) (_ : Thread) : Latch :=
  if d = .zr then .load ((s.core c).nextOp + 1) else .val 0

/-- The address of an LDM or STM (R149). -/
def blockAddr (b : Src) (off : BitVec 4) (s : State) (c t : Nat) : Word := s.src c t b + wd (16 * off.toNat)

/-- A load of the scratchpad at o may be performed (R140, R144, R338). -/
def spLoads (o n : Nat) (s : State) (c : Nat) : Prop :=
  o + n ≤ 1048576 ∧ checkPresent (s.core c) o n = .ok () ∧ checkSpPoison (s.core c) o n = .ok ()

/-- A store to the scratchpad at o may be performed (R140, R144). -/
def spStores (o n : Nat) (s : State) (c : Nat) : Prop := o + n ≤ 1048576 ∧ checkOwned (s.core c) o n = .ok ()

/-- A store register's value (R142). -/
def stored (s : State) (c t : Nat) (sz : StSz) (d : Src) : Nat :=
  if sz = .b64 then (s.src64 c t d).toNat else (s.src c t d).toNat

/-- The state in which a global access finds its translation e in the core: counted, and learnt by the lane (R304, R353). -/
def found (s : State) (c t va : Nat) (e : TlbEntry) : State :=
  (s.countXlate c t va).learn c (posPart t * 32 + posLane t) va e

/-- No lower lane of the unit still has to apply its access to any of n bytes at va, physical pa (R145, R148). -/
def lanesDone (s : State) (c t n va pa : Nat) (x : Option (BitVec 24)) (a : Src) (off : BitVec 5) : Prop :=
  s.laneWaits c t n va pa (fun u => (ea x a off n s c u).toNat) = false

/-- No other lane of the unit still has to apply its access to any of n bytes at va, physical pa (R145, R261). -/
def lanesAlone (s : State) (c t n va pa : Nat) (x : Option (BitVec 24)) (a : Src) (off : BitVec 5) : Prop :=
  s.laneStores c t (s.unitKey c t) n va pa (fun u => some (ea x a off n s c u).toNat) = []

end Sys2Proof.Claims

/-- R142, R143, R144: LDS binds its bytes at issue and leaves its destination pending; STS writes its bytes at once. -/
def Obligations.ScratchpadLoadsAndStores : Prop :=
  ∀ (x : Option (BitVec 24)) (d : Dst) (e a : Src) (lz : LdSz) (sz : StSz) (g : Guard) (off : BitVec 5),
    Gives (.lds x d a lz g off) noPre
      (fun s c t _ => aligned x a off (ldBytes lz) s c t ∧ axFree s c t [d] [a]
        ∧ spLoads (ea x a off (ldBytes lz) s c t).toNat (ldBytes lz) s c)
      (fun s c t th => loadIssued (s.bump c (posPart t) 26 1) c t th d lz
        (.bound (ldExtend lz (ofBytes ((s.core c).spRead (ea x a off (ldBytes lz) s c t).toNat (ldBytes lz))))) 0)
      (loadLatch d)
    ∧ Gives (.sts x e a sz g off) noPre
      (fun s c t _ => aligned x a off (stBytes sz) s c t ∧ axFree s c t [] [a, e]
        ∧ spStores (ea x a off (stBytes sz) s c t).toNat (stBytes sz) s c)
      (fun s c t _ => (s.bump c (posPart t) 26 1).modCore c fun k =>
        k.spStore (ea x a off (stBytes sz) s c t).toNat (toBytes (stBytes sz) (stored s c t sz e)))
      noL

/-- R80, R140, R141, R149: a misaligned access, by its address or by the offset of its prefix, and one past the end of the
scratchpad raise their faults; LDM and STM are aligned to 16 bytes and bounded as a whole. -/
def Obligations.AlignmentAndBoundsFaults : Prop :=
  ∀ (x : Option (BitVec 24)) (m : Option Mode) (d : Dst) (e a : Src) (lz : LdSz) (sz : StSz) (op : AtomOp) (g : Guard)
    (off : BitVec 5) (gp : Option Guard) (r : BitVec 7) (cnt : BitVec 6) (sp : Bool) (o4 : BitVec 4),
    let mis (n : Nat) := fun (s : State) (c t : Nat) (_ : Thread) => ¬ aligned x a off n s c t
    let misF (n : Nat) := fun (s : State) (c t : Nat) (_ : Thread) => fault1 10 [ea x a off n s c t, wd n]
    let past (n : Nat) := fun (s : State) (c t : Nat) (_ : Thread) =>
      aligned x a off n s c t ∧ 1048576 < (ea x a off n s c t).toNat + n
    let pastF (n : Nat) := fun (s : State) (c t : Nat) (_ : Thread) => fault1 11 [ea x a off n s c t, wd n]
    let w := if modeW m then 8 else 4
    let misB := fun (s : State) (c t : Nat) (_ : Thread) => (blockAddr a o4 s c t).toNat % 16 ≠ 0
    let misBF := fun (s : State) (c t : Nat) (_ : Thread) => fault1 10 [blockAddr a o4 s c t, wd 16]
    let pastB := fun (s : State) (c t : Nat) (_ : Thread) =>
      (blockAddr a o4 s c t).toNat % 16 = 0 ∧ 1048576 < (blockAddr a o4 s c t).toNat + 4 * (cnt.toNat + 1)
    let pastBF := fun (s : State) (c t : Nat) (_ : Thread) => fault1 11 [blockAddr a o4 s c t, wd (4 * (cnt.toNat + 1))]
    Stops (.ldm gp r a cnt sp o4) noPre misB misBF
    ∧ Stops (.stm gp r a cnt sp o4) noPre misB misBF
    ∧ Stops (.ldm gp r a cnt true o4) noPre pastB pastBF
    ∧ Stops (.stm gp r a cnt true o4) noPre pastB pastBF
    ∧ Stops (.lds x d a lz g off) noPre (mis (ldBytes lz)) (misF (ldBytes lz))
    ∧ Stops (.ldg x d a lz g off) noPre (mis (ldBytes lz)) (misF (ldBytes lz))
    ∧ Stops (.sts x e a sz g off) noPre (mis (stBytes sz)) (misF (stBytes sz))
    ∧ Stops (.stg x e a sz g off) noPre (mis (stBytes sz)) (misF (stBytes sz))
    ∧ Stops (.atoms x m d a op g off) noPre (mis w) (misF w)
    ∧ Stops (.atomg x m d a op g off) noPre (mis w) (misF w)
    ∧ Stops (.lds x d a lz g off) noPre (past (ldBytes lz)) (pastF (ldBytes lz))
    ∧ Stops (.sts x e a sz g off) noPre (past (stBytes sz)) (pastF (stBytes sz))
    ∧ Stops (.atoms x m d a op g off) noPre (past w) (pastF w)

/-- R142, R143: LDG through a translation the core holds: the load is pending, and is charged for its bytes. -/
def Obligations.GlobalLoads : Prop :=
  ∀ (x : Option (BitVec 24)) (d : Dst) (a : Src) (sz : LdSz) (g : Guard) (off : BitVec 5) (e : TlbEntry),
    let n := ldBytes sz
    let va (s : State) (c t : Nat) (th : Thread) := regionVa th.region (ea x a off n s c t)
    Gives (.ldg x d a sz g off) noPre
      (fun s c t th => aligned x a off n s c t ∧ axFree s c t [d] [a]
        ∧ s.cached c (posPart t * 32 + posLane t) (va s c t th) = some e
        ∧ s.checkEntry e (va s c t th) .load = .ok e
        ∧ (found s c t (va s c t th) e).seesPoison c (e.pa (va s c t th)) e.attr n = false)
      (fun s c t th =>
        loadIssued (((found s c t (va s c t th) e).charge (s.core c).tenancy 0 n).bump c (posPart t) 24 n) c t th d sz
          (.global (va s c t th) (e.pa (va s c t th)) e.attr) 0)
      (loadLatch d)

/-- R142, R145, R252: STG through a translation the core holds, of bytes that none of the thread's own loads, no store of the
core and no other lane of the unit still waits for: applied at once, or, in a slot whose stores are late, kept for later; such
a store is applied once no earlier one of another unit meets it, and not before. That a slot may put its stores off, and that
those of one unit that meet are applied together, is the model's choice (notes/assumptions/63). -/
def Obligations.GlobalStores : Prop :=
  ∀ (x : Option (BitVec 24)) (d a : Src) (sz : StSz) (g : Guard) (off : BitVec 5) (e : TlbEntry),
    let n := stBytes sz
    let va (s : State) (c t : Nat) (th : Thread) := regionVa th.region (ea x a off n s c t)
    let applied (s : State) (c t : Nat) (th : Thread) : State :=
      let u := found s c t (va s c t th) e
      let v := { u with fresh := u.fresh + 1 }.coreStore c (e.pa (va s c t th)) e.attr (toBytes n (stored s c t sz d)) u.fresh
      if e.attr = 2 then v.modThr c t fun th => { th with owing := u.fresh :: th.owing } else v
    let ready (s : State) (c t : Nat) (th : Thread) : Prop := aligned x a off n s c t ∧ axFree s c t [] [a, d]
      ∧ s.cached c (posPart t * 32 + posLane t) (va s c t th) = some e
      ∧ s.checkEntry e (va s c t th) .store = .ok e
      ∧ lanesAlone (found s c t (va s c t th) e) c t n (va s c t th) (e.pa (va s c t th)) x a off
      ∧ s.checkStage c (e.pa (va s c t th)) n = .ok ()
      ∧ (∀ p ∈ th.pend, p.reads (e.pa (va s c t th)) n = false)
      ∧ (∀ w ∈ (s.core c).late, w.meets (e.pa (va s c t th)) n = false)
    Gives (.stg x d a sz g off) noPre
      (fun s c t th => ready s c t th ∧ (s.delay = false ∨ s.replayable c = true)
        ∧ (e.attr = 1 → s.replayable c = true ∨ s.atomicReady (dieOf c) (e.pa (va s c t th)) = true))
      (fun s c t th => ((applied s c t th).bump c (posPart t) 25 n).charge (s.core c).tenancy 0 n)
      noL
    ∧ Gives (.stg x d a sz g off) noPre
      (fun s c t th => ready s c t th ∧ s.delay = true ∧ s.replayable c = false)
      (fun s c t th =>
        let u := found s c t (va s c t th) e
        let w : LateStore := { tag := u.fresh, unit := s.unitKey c t, uid := th.uid, va := va s c t th
                               pa := e.pa (va s c t th), attr := e.attr, bytes := toBytes n (stored s c t sz d) }
        ((({ u with fresh := u.fresh + 1 }.modCore c fun k => { k with late := k.late ++ [w] }).bump c (posPart t) 25 n).charge
          (s.core c).tenancy 0 n))
      noL
    ∧ ∀ (s : State) (c k t : Nat) (w : LateStore) (th : Thread), (s.core c).late[k]? = some w → w.bytes ≠ [] →
      let earlier := (s.core c).late.takeWhile fun v => v.tag != w.tag
      ((∃ v ∈ earlier, v.unit ≠ w.unit ∧ v.meets w.pa w.bytes.length = true) → s.applyLate c k = s)
      ∧ (((s.core c).late.filter fun v => v.unit == w.unit && v.meets w.pa w.bytes.length) = [w] →
        (∀ v ∈ earlier, v.unit ≠ w.unit → v.meets w.pa w.bytes.length = false) →
        (w.attr = 1 → s.atomicReady (dieOf c) w.pa = true) → (s.core c).byUid w.uid = some (t, th) →
        let u := (s.modCore c fun q => { q with late := q.late.filter fun v => v.tag != w.tag }).coreStore c w.pa w.attr w.bytes
          w.tag
        let v := if w.attr = 2 then u.modThr c t fun th => { th with owing := w.tag :: th.owing } else u
        s.applyLate c k = if th.relWait.home.contains w.tag then v.syncHomes (dieOf c) else v)

/-- R305: a load into a window register or a store whose page the core does not hold is logged, and the unit
completes. -/
def Obligations.UnresolvedAccessesAreDeferred : Prop :=
  ∀ (x : Option (BitVec 24)) (k : BitVec 7) (d a : Src) (lz : LdSz) (sz : StSz) (g : Guard) (off : BitVec 5)
    (s : State) (c t : Nat) (th : Thread),
    (Solo (.ldg x (.w k) a lz g off) noPre s c t th → aligned x a off (ldBytes lz) s c t → axFree s c t [] [a] →
      s.cached c (posPart t * 32 + posLane t) (regionVa th.region (ea x a off (ldBytes lz) s c t)) = none →
      ∃ u th' l, exec (.ldg x (.w k) a lz g off) s = .next u ∧ u.thr? c t = some th' ∧ th'.log = some l
        ∧ l.kind = 1 ∧ l.phase = .walking ∧ l.ea = ea x a off (ldBytes lz) s c t ∧ l.sz = ldCode lz ∧ l.dst = k.toNat
        ∧ l.pc = th.pc ∧ th'.pend.length = th.pend.length + 1)
    ∧ (Solo (.stg x d a sz g off) noPre s c t th → aligned x a off (stBytes sz) s c t → axFree s c t [] [a, d] →
      s.cached c (posPart t * 32 + posLane t) (regionVa th.region (ea x a off (stBytes sz) s c t)) = none →
      ∃ u th' l, exec (.stg x d a sz g off) s = .next u ∧ u.thr? c t = some th' ∧ th'.log = some l
        ∧ l.kind = 2 ∧ l.phase = .walking ∧ l.ea = ea x a off (stBytes sz) s c t ∧ l.sz = stCode sz
        ∧ l.data.toNat = stored s c t sz d ∧ l.pc = th.pc ∧ th'.pend = th.pend)

namespace Sys2Proof.Claims

/-- The old value and the operands decide an atomic's new value (R147). -/
def atomSpec (m : Option Mode) (op : AtomOp) (n : Nat) (old x y : BitVec n) : BitVec n :=
  match op with
  | .add => old + x
  | .and => old &&& x
  | .or => old ||| x
  | .xor => old ^^^ x
  | .min => if rd m old ≤ rd m x then old else x
  | .max => if rd m old ≤ rd m x then x else old
  | .exch => x
  | .cas => if old = x then y else old

end Sys2Proof.Claims

/-- R147: ATOMS writes the new value to the scratchpad and the old one to d, on 32 bits and under W on pairs; the operand is
d's value, and a CAS group's compare and replacement are d and the register or pair after it. -/
def Obligations.ScratchpadAtomics : Prop :=
  ∀ (x : Option (BitVec 24)) (m : Option Mode) (d : Dst) (a : Src) (op : AtomOp) (g : Guard) (off : BitVec 5),
    (op = .cas → ∃ k, d = .w k) →
    let next (j : BitVec 7) : Src := match d with | .w k => .w (k + j) | d => d.toSrc
    let n := if modeW m then 8 else 4
    let o (s : State) (c t : Nat) := (ea x a off n s c t).toNat
    let ready (s : State) (c t : Nat) (_ : Thread) : Prop :=
      aligned x a off n s c t ∧ axFree s c t [d] [a, d.toSrc] ∧ spLoads (o s c t) n s c ∧ spStores (o s c t) n s c
    let old (s : State) (c t : Nat) : DWord := BitVec.ofNat 64 (ofBytes ((s.core c).spRead (o s c t) 8))
    let put (s : State) (c t : Nat) (new : Nat) : State :=
      (s.bump c (posPart t) 26 1).modCore c fun q => q.spStore (o s c t) (toBytes n new)
    (modeW m = false → Gives (.atoms x m d a op g off) noPre ready
      (fun s c t _ => (put s c t (atomSpec m op 32 (spWord (s.core c) (o s c t)) (s.src c t d.toSrc)
        (s.src c t (next 1))).toNat).dst c t d (spWord (s.core c) (o s c t)))
      (fun s c t _ => .val ((spWord (s.core c) (o s c t)).setWidth 64)))
    ∧ (modeW m = true → Gives (.atoms x m d a op g off) noPre ready
      (fun s c t _ => (put s c t (atomSpec m op 64 (old s c t) (s.src64 c t d.toSrc)
        (s.src64 c t (next 2))).toNat).dst64 c t d (old s c t))
      (fun s c t _ => .val (old s c t)))

/-- R147, R148: ATOMG through a translation the core holds, at a home that can perform it now, when no lower lane of the
unit goes first. -/
def Obligations.GlobalAtomics : Prop :=
  ∀ (x : Option (BitVec 24)) (m : Option Mode) (d : Dst) (a : Src) (op : AtomOp) (g : Guard) (off : BitVec 5)
    (e : TlbEntry) (s : State) (c t : Nat) (th : Thread),
    let n := if modeW m then 8 else 4
    let va := regionVa th.region (ea x a off n s c t)
    let pa := e.pa va
    let u := found s c t va e
    let old := ofBytes (cellsRead s.mem pa n)
    let args := u.atomArgs c t (modeW m) d op
    Solo (.atomg x m d a op g off) noPre s c t th → aligned x a off n s c t → axFree s c t [d] [a, d.toSrc] →
    lanesDone u c t n va pa x a off →
    s.cached c (posPart t * 32 + posLane t) va = some e → s.checkEntry e va .atomic = .ok e →
    s.replayable c = false → (∀ p ∈ th.pend, p.reads pa n = false) → s.check = [] → s.poisonedAt pa n = false →
    (∀ w ∈ (s.core c).late, w.meets pa n = false) → s.rmwReady (dieOf c) pa e.attr = true → (e.attr = 1 →
      s.atomicBound (dieOf c) pa n = true) →
    s.weirHolds (s.core c).tenancy 6 = false →
      ∃ v w, exec (.atomg x m d a op g off) s = .next w
        ∧ v = { u with fresh := u.fresh + 1 }.homeStore c pa e.attr
          (toBytes n (atomNew m op (8 * n) old args.1 args.2)) u.fresh
        ∧ w.mem = v.mem ∧ w.dies = v.dies
        ∧ (∀ k, d = .w k → w.reg c t k.toNat = wd old ∧ (modeW m = true → w.reg c t (k.toNat + 1) = wd (old / 2 ^ 32)))
        ∧ (∀ k, d = .zr → w.reg c t k = s.reg c t k)
        ∧ (∀ k, d = .ax k → modeW m = false → (w.core c).sp = ((s.core c).spStore (th.axElem k) (toBytes 4 old)).sp)

namespace Sys2Proof.Claims

/-- A beat of a block unit begins for one thread: its first, at the address of its base register, or the one that its log
names (R149, R150). -/
structure Beat (i : Instr) (b : Src) (off : BitVec 4) (s : State) (c t : Nat) (th : Thread) (addr k : Nat) : Prop where
  core    : s.cur.core = c
  members : s.cur.members = [t]
  thread  : s.thr? c t = some th
  guard   : guardHolds th.win.preds i.guard = true
  noUpset : s.cur.upset = none
  noRr    : bits (s.ten (s.core c).tenancy).rr.toNat 63 62 = 0
  checks  : startUnit i noPre s c t th = .ok ()
  start   : (th.log = none ∧ k = 0 ∧ addr = (blockAddr b off s c t).toNat ∧ s.srcsPresent c t [b] = .ok ())
    ∨ ∃ l, th.log = some l ∧ l.kind = 3 ∧ l.pc = th.pc ∧ addr = l.ea.toNat ∧ k = l.beat ∧ 0 < k

/-- After beat k of n words: the unit has completed, without a log, or it stays, its log holding the address and the beats
completed (R149, R150). -/
def Moved (s v : State) (c t : Nat) (th : Thread) (addr k n : Nat) : Prop :=
  ∃ th', v.thr? c t = some th'
    ∧ (n ≤ 32 * (k + 1) → th'.log = none ∧ th'.pc = s.nextPc th)
    ∧ (32 * (k + 1) < n → th'.pc = th.pc ∧ th'.st = th.st
        ∧ ∃ l, th'.log = some l ∧ l.kind = 3 ∧ l.pc = th.pc ∧ l.ea = wd addr ∧ l.beat = k + 1)

/-- The bytes of consecutive window registers. -/
def regBytes (s : State) (c t r n : Nat) : List Byte := (List.range n).flatMap fun j => toBytes 4 (s.reg c t (r + j)).toNat

/-- Window registers hold consecutive little-endian words of bs. -/
def RegsHold (v : State) (c t r n : Nat) (bs : List Byte) : Prop :=
  ∀ j < n, v.reg c t (r + j) = BitVec.ofNat 32 (ofBytes ((bs.drop (4 * j)).take 4))

end Sys2Proof.Claims

/-- R149, R150: LDM and STM move a beat of at most 32 words whole: between the scratchpad, where it names present lines that
no engine owns, or global memory, where it lies in one line and its translation is known, and consecutive registers. After
its last beat the unit completes; before that its log holds the address and the beats completed. A beat that meets an absent
line, an owned line or a page that is not mapped stops the thread. -/
def Obligations.BlockTransfers : Prop :=
  ∀ (gp : Option Guard) (r : BitVec 7) (b : Src) (cnt : BitVec 6) (off : BitVec 4) (s : State) (c t : Nat) (th : Thread)
    (addr k : Nat),
    let n := cnt.toNat + 1
    let words := min 32 (n - 32 * k)
    let at_ := (addr + 128 * k) % 2 ^ 32
    let first := r.toNat + 32 * k
    let va := regionVa th.region (wd at_)
    let lane := posPart t * 32 + posLane t
    addr % 16 = 0 → 32 * k < n →
    (Beat (.ldm gp r b cnt true off) b off s c t th addr k → addr + 4 * n ≤ 1048576 →
      (∀ e, checkPresent (s.core c) at_ (4 * words) = .error e → exec (.ldm gp r b cnt true off) s = .next (s.stopAt c t e))
      ∧ (checkPresent (s.core c) at_ (4 * words) = .ok () → checkSpPoison (s.core c) at_ (4 * words) = .ok () →
        s.lowerMember c t = false →
        ∃ v, exec (.ldm gp r b cnt true off) s = .next v ∧ Moved s v c t th addr k n
          ∧ RegsHold v c t first words ((s.core c).spRead at_ (4 * words))))
    ∧ (Beat (.stm gp r b cnt true off) b off s c t th addr k → addr + 4 * n ≤ 1048576 →
      (∀ e, checkOwned (s.core c) at_ (4 * words) = .error e → exec (.stm gp r b cnt true off) s = .next (s.stopAt c t e))
      ∧ (checkOwned (s.core c) at_ (4 * words) = .ok () → s.lowerMember c t = false →
        ∃ v, exec (.stm gp r b cnt true off) s = .next v ∧ Moved s v c t th addr k n
          ∧ (v.core c).sp = ((s.core c).spStore at_ (regBytes s c t first words)).sp))
    ∧ (Beat (.ldm gp r b cnt false off) b off s c t th addr k → at_ % 128 + 4 * words ≤ 128 →
      let s0 := if k = 0 then s.modCore c (·.ownEnts t ((List.range n).map (th.win.wbase + r.toNat + ·))) else s
      (∀ u, (s0.countXlate c t va).translate c t va .load = (.page, u) →
        exec (.ldm gp r b cnt false off) s = .next (s.stopAt c t (.page va)))
      ∧ ∀ (e : TlbEntry) (bs : List Byte) (u : State), s.cached c lane va = some e → s.checkEntry e va .load = .ok e →
        (∀ p ∈ th.pend, p.reads (e.pa va) (4 * words) = false) → (∀ w ∈ (s.core c).late, w.meets (e.pa va) (4 * words) = false) →
        s.fwds = [] → (found s0 c t va e).loadNow c (e.pa va) e.attr (4 * words) true = .bytes bs false u →
        ∃ v, exec (.ldm gp r b cnt false off) s = .next v ∧ Moved s v c t th addr k n ∧ RegsHold v c t first words bs
          ∧ v.mem = u.mem)
    ∧ (Beat (.stm gp r b cnt false off) b off s c t th addr k → at_ % 128 + 4 * words ≤ 128 →
      (∀ u, (s.countXlate c t va).translate c t va .store = (.page, u) →
        exec (.stm gp r b cnt false off) s = .next (s.stopAt c t (.page va)))
      ∧ ∀ (e : TlbEntry), s.cached c lane va = some e → s.checkEntry e va .store = .ok e →
        (∀ p ∈ th.pend, p.reads (e.pa va) (4 * words) = false) → (∀ w ∈ (s.core c).late, w.meets (e.pa va) (4 * words) = false) →
        (s.delay = false ∨ s.replayable c = true) → s.checkStage c (e.pa va) (4 * words) = .ok () →
        (e.attr = 1 → s.replayable c = true ∨ s.atomicReady (dieOf c) (e.pa va) = true) →
        let u := found s c t va e
        u.laneStores c t (u.unitKey c t) (4 * n) (u.regionAddr c t addr) (e.pa va - 128 * k)
          (fun l => some (u.blockStart c l b off).1) = [] →
        ∃ v, exec (.stm gp r b cnt false off) s = .next v ∧ Moved s v c t th addr k n
          ∧ v.mem = ({ u with fresh := u.fresh + 1 }.coreStore c (e.pa va) e.attr (regBytes s c t first words) u.fresh).mem)

/-! ### Control flow (R104..R107) -/

/-- The lane has a free entry for a call's link register, where the register is shared (R24, R124). -/
def Sys2Proof.Claims.linkFree (s : State) (c t : Nat) (d : Dst) : Prop :=
  ∃ th, s.thr? c t = some th ∧ checkCopy (s.core c) t th (writeEnts th.win [.f d 1]) = .ok ()

/-- R104, R105, R106: BR and JMPI set PC; JMPI with a register destination and CALL write the return address first, once
the budget rule lets them. R107: the budget rule. Without a budget word, or when the window fits, nothing changes;
above 256 registers the call faults; otherwise the allocation grows, or the thread waits for its registers. -/
def Obligations.BranchesAndCalls : Prop :=
  (∀ (off : BitVec 22) (d : Dst) (a : Src) (g : Guard) (s : State) (c t : Nat) (th : Thread),
     (Solo (.br g off) noPre s c t th →
       exec (.br g off) s = .next (s.jumpTo c t (th.pc + 4 * off.signExtend 32)))
     ∧ (Solo (.call g off) noPre s c t th → ∀ s' : State, s.budgetRule c t (th.pc + 4 * off.signExtend 32) = .ok (.ok s') →
       linkFree s' c t (.w 0) →
       exec (.call g off) s = .next ((s'.dst c t (.w 0) (th.pc + 4)).jumpTo c t (th.pc + 4 * off.signExtend 32)))
     ∧ (Solo (.jmpi d a g) noPre s c t th → (s.src c t a).toNat % 4 ≠ 0 →
       exec (.jmpi d a g) s = .next (s.stopAt c t (fault1 17 [th.pc, s.src c t a])))
     ∧ (Solo (.jmpi .zr a g) noPre s c t th → (s.src c t a).toNat % 4 = 0 →
       exec (.jmpi .zr a g) s = .next (s.jumpTo c t (s.src c t a)))
     ∧ (Solo (.jmpi d a g) noPre s c t th → (s.src c t a).toNat % 4 = 0 → d ≠ .zr →
       ∀ s' : State, s.budgetRule c t (s.src c t a) = .ok (.ok s') → linkFree s' c t d →
       exec (.jmpi d a g) s = .next ((s'.dst c t d (th.pc + 4)).jumpTo c t (s.src c t a))))
  ∧ (∀ (s : State) (c t : Nat) (th : Thread) (target : Word), s.thr? c t = some th →
     (target.toNat % 65536 = 0 → s.budgetRule c t target = .ok (.ok s))
     ∧ (∀ (b : Budget) (s' : State), s.budgetWord c th.region target = .ok (b, s') →
       (b = .none → s.budgetRule c t target = .ok (.ok s'))
       ∧ (∀ n, b = .some n →
         (256 < th.win.wbase + n → s.budgetRule c t target = .error (fault1 18 [target, wd n, wd th.win.wbase]))
         ∧ (th.win.wbase + n ≤ th.win.alloc → th.win.wbase + n ≤ 256 → s.budgetRule c t target = .ok (.ok s'))
         ∧ (th.win.alloc < th.win.wbase + n → th.win.wbase + n ≤ 256 →
           s.budgetRule c t target =
             if s'.canGrow c t (th.win.wbase + n - th.win.alloc) th then .ok (.ok (s'.growTo c t (th.win.wbase + n)))
             else .error (.grant (th.win.wbase + n - th.win.alloc) (some (th.win.wbase + n)) [])))))

/-! ### System units (R109..R123) -/

namespace Sys2Proof.Claims

/-- The unit runs in handler mode, or reads no frame register (R27). -/
def frameOk (r : BitVec 7) (_ : State) (_ _ : Nat) (th : Thread) : Prop := 64 ≤ r.toNat → th.handler = true

/-- An acquire drops the core's lines that are not local, and any load in flight leaves none behind (R257). -/
def dropped (s : State) (c : Nat) : State :=
  s.modCore c fun q => { q with l1 := q.l1.filter (fun e => localLine c e.1), acqs := q.acqs + 1 }

/-- An error mark of a class (R173). -/
def mark (k : EngClass) (th : Thread) : Option (List Word) := tget? th.errs (clsCode k)

/-- Where P holds of a thread whose guard is true and that no deferred access or collective round stops, the unit does not
issue. -/
def HeldWhere (i : Instr) (P : State → Nat → Nat → Thread → Prop) : Prop :=
  ∀ (s : State) (c t : Nat) (th : Thread), s.thr? c t = some th → th.yround = none →
    guardHolds th.win.preds i.guard = true → th.log = none → P s c t th → s.canIssue c t th i = false

/-- Where P holds of a thread that nothing else holds, the unit issues: no load, store or latch is outstanding. -/
def IssuesWhere (i : Instr) (P : State → Nat → Nat → Thread → Prop) : Prop :=
  ∀ (s : State) (c t : Nat) (th : Thread), s.thr? c t = some th → th.yround = none → th.log = none → th.pend = [] →
    th.lats = [] → th.acqWait = [] → (s.core c).late = [] → s.tileRecs = [] → s.fwds = [] → P s c t th →
    s.canIssue c t th i = true

/-- A load that is neither bound nor into an ax element, or one into an ax element: outstanding as a fence counts it. -/
def outstanding (p : Pend) : Prop := (p.engine = 0 ∨ p.engine = 3) ∧ (p.isBound = false ∨ p.ax ≠ none)

end Sys2Proof.Claims

/-- R110, R111, R253: NOP; FENCE, whose acquires of scope .s or wider drop the core's lines that are not local; WAITC
with and without an error mark. A FENCE.F that releases leaves the stores of its die at their homes: the model's reading
(notes/assumptions/51). R25, R111, R143, R253, R298, R356: what holds a unit at issue: WAITC's threshold, a pending register,
a class counter at 255, the thread's 31 scoreboard entries, the weir, the accesses that a FENCE waits for, those that an
earlier FENCE.rel orders before a store, and an acquire that waits for its loads; a unit that none of these holds issues.
R211: a READY thread whose next unit does not issue becomes HELD, and the other way round. -/
def Obligations.NopFenceWaitcAndIssueHolds : Prop :=
  (∀ (i : Instr) (k : EngClass) (n : BitVec 7) (g : Guard) (ch : Bool) (sc : Scope),
    HeldWhere (.waitc k n g ch) (fun _ _ _ th => n.toNat < th.oc k)
    ∧ HeldWhere i (fun _ _ _ th => ∃ p ∈ th.pend, p.engine ≠ 1 ∧ ∃ e ∈ p.ents,
        e ∈ readEnts th.win i.srcs ++ writeEnts th.win i.dsts)
    ∧ (i.cls = some k → HeldWhere i (fun _ _ _ th => 255 ≤ th.oc k))
    ∧ (i.isGlobal = true → HeldWhere i (fun s c t th =>
        s.weirHolds (s.core c).tenancy 0 = true ∧ s.stopsAnyway c t th i = false))
    ∧ (i.isStep = true → HeldWhere i (fun s c t th =>
        s.weirHolds (s.core c).tenancy 6 = true ∧ s.stopsAnyway c t th i = false))
    ∧ (sc ≠ .t →
        HeldWhere (.fence .full sc g ch) (fun s c _ th => (∃ p ∈ th.pend, outstanding p)
          ∨ (∃ w ∈ (s.core c).late, w.uid = th.uid)
          ∨ ((sc = .x ∨ sc = .f) ∧ ∃ f ∈ s.fwds, f.tag ∈ th.owing))
        ∧ HeldWhere (.fence .acq sc g ch) (fun _ _ _ th => ∃ p ∈ th.pend, outstanding p)
        ∧ IssuesWhere (.fence .full sc g ch) always ∧ IssuesWhere (.fence .acq sc g ch) always)
    ∧ (isStoreUnit i = true → HeldWhere i (fun s c _ th =>
        (∃ p ∈ th.pend, outstanding p ∧ p.id ∈ th.relWait.loads)
        ∨ (∃ w ∈ (s.core c).late, w.tag ∈ th.relWait.late) ∨ ∃ f ∈ s.fwds, f.tag ∈ th.relWait.repl))
    ∧ (i.accesses = true → HeldWhere i (fun _ _ _ th => th.acqWait ≠ []))
    ∧ IssuesWhere (.waitc k n g ch) (fun _ _ _ th => th.oc k ≤ n.toNat))
  ∧ (∀ (x : Option (BitVec 24)) (gp : Option Guard) (d : Dst) (a e : Src) (r : BitVec 7) (lz : LdSz) (sz : StSz) (g : Guard)
      (ch : Bool) (m : Option Mode) (off : BitVec 5) (cnt : BitVec 6) (sp : Bool) (o4 : BitVec 4),
    let full := fun (_ : State) (_ _ : Nat) (th : Thread) => (th.pend.filter fun p => !p.latch).length = 31
    let free := fun (s : State) (c : Nat) (_ : Nat) (_ : Thread) => s.weirHolds (s.core c).tenancy 0 = false
    (d ≠ .zr → HeldWhere (.ldg x d a lz g off) full ∧ HeldWhere (.lds x d a lz g off) full)
    ∧ HeldWhere (.ldm gp r a cnt sp o4) full
    ∧ IssuesWhere (.iadd m d a e g ch) always ∧ IssuesWhere (.lds x d a lz g off) always
    ∧ IssuesWhere (.sts x e a sz g off) always
    ∧ IssuesWhere (.ldg x d a lz g off) free ∧ IssuesWhere (.stg x e a sz g off) free)
  ∧ (∀ (s u : State) (c t n : Nat) (th : Thread) (ws : List Word) (i : Instr), s.thr? c t = some th →
    s.fetchUnit c th = (.unit (.ok i n) ws, u) → th.mergesAt i = false →
    (u.canIssue c t th i = false → th.st = .ready → (s.refreshUnit c t).thr? c t = some { th with st := .held })
    ∧ (u.canIssue c t th i = true → th.st = .held →
        (s.refreshUnit c t).thr? c t = some { th with st := .ready, readyAt := u.cycle }))
  ∧ ∀ (sc : Scope) (k : EngClass) (n : BitVec 7) (g : Guard) (ch : Bool),
    Gives (.nop g ch) noPre always (fun s _ _ _ => s) noL
    ∧ Gives (.fence .acq sc g ch) noPre always
      (fun s c _ _ => if sc = .t ∨ sc = .c then s else dropped s c) noL
    ∧ Gives (.fence .full sc g ch) noPre always
      (fun s c _ _ => if sc = .t ∨ sc = .c then s
        else
          if sc = .f then (dropped s c).syncHomes (dieOf c) else dropped s c) noL
    ∧ Gives (.fence .rel sc g ch) noPre always
      (fun s c t th => if sc = .t then s
        else
          let late := ((s.core c).lateOf th).map (·.tag) ++ (s.recordsOf c th).map (·.tag)
          let w := s.setThr c t { th with relWait :=
            { loads := th.relWait.loads ++ (th.pend.filter fun p => !p.settled).map (·.id)
              late := th.relWait.late ++ late
              repl := th.relWait.repl ++ if sc = .x ∨ sc = .f then th.owing ++ (s.core c).owing ++ late else []
              home := th.relWait.home ++ if sc = .f then late else [] } }
          if sc = .f then w.syncHomes (dieOf c) else w) noL
    ∧ Gives (.waitc k n g ch) noPre (fun _ _ _ th => mark k th = none) (fun s _ _ _ => s) noL
    ∧ (∀ s c t th, Solo (.waitc k n g ch) noPre s c t th → ∀ info, mark k th = some info →
        exec (.waitc k n g ch) s = .next
          ((s.setThr c t { th with errs := tdel th.errs (clsCode k) }).stopAt c t (.trap 0 6 (info.take 4) false)))

/-- R112: AWAIT.G, AWAIT.ST and AWAIT.PR: complete when their condition holds, or when their own wait was met, whose mark
they clear; else park. -/
def Obligations.AwaitUnits : Prop :=
  ∀ (a : Src) (g : Guard) (ch : Bool),
    let o (s : State) (c t : Nat) := (s.src c t a).toNat
    let so (s : State) (c t : Nat) := ((s.src64 c t a).setWidth 32).toNat
    let tg (s : State) (c t : Nat) : Word := ((s.src64 c t a) >>> 32).setWidth 32
    let unmark (s : State) (c t : Nat) (th : Thread) : State := s.setThr c t { th with mark := none }
    let gok (s : State) (c t : Nat) (th : Thread) : Prop :=
      o s c t % 16 = 0 ∧ o s c t + 16 ≤ 1048576 ∧ th.marked 0 (o s c t) 0 = false ∧ ((s.core c).gauge (o s c t)).short = false
        ∧ ¬ (((s.core c).gauge (o s c t)).owner.toNat = t ∧ (((s.core c).gauge (o s c t)).over
          ∨ ((s.core c).gauge (o s c t)).expected.toNat < ((s.core c).gauge (o s c t)).arrived.toNat)) ∧ th.errs = []
    let sok (s : State) (c t : Nat) : Prop :=
      so s c t % 8 = 0 ∧ so s c t + 8 ≤ 1048576 ∧ ((s.core c).lineAttr (so s c t / 128)).own = true
    let stamped (s : State) (c t : Nat) : Prop := stampReached (wd ((s.core c).stamp (so s c t))) (tg s c t) = true
    Gives (.awaitG a g ch) noPre (fun s c t th => gok s c t th ∧ ((s.core c).gauge (o s c t)).metFor t = true)
      (fun s _ _ _ => s) noL
    ∧ Gives (.awaitG a g ch) noPre
      (fun s c t th => o s c t % 16 = 0 ∧ o s c t + 16 ≤ 1048576 ∧ th.marked 0 (o s c t) 0 = true) unmark noL
    ∧ Stops (.awaitG a g ch) noPre (fun s c t th => gok s c t th ∧ ((s.core c).gauge (o s c t)).metFor t = false)
      (fun s c t _ => .await 0 (o s c t) 0)
    ∧ Stops (.awaitG a g ch) noPre
      (fun s c t th => o s c t % 16 = 0 ∧ o s c t + 16 ≤ 1048576 ∧ th.marked 0 (o s c t) 0 = false
        ∧ th.errs = [] ∧ ((s.core c).gauge (o s c t)).short = true)
      (fun s c t _ => fault1 21 [s.src c t a, ((s.core c).gauge (o s c t)).expected, ((s.core c).gauge (o s c t)).arrived])
    ∧ Stops (.awaitG a g ch) noPre
      (fun s c t th => o s c t % 16 = 0 ∧ o s c t + 16 ≤ 1048576 ∧ th.marked 0 (o s c t) 0 = false
        ∧ th.errs = [] ∧ ((s.core c).gauge (o s c t)).short = false ∧ ((s.core c).gauge (o s c t)).owner.toNat = t
        ∧ ((s.core c).gauge (o s c t)).over = true)
      (fun s c t _ => fault1 20 [s.src c t a, ((s.core c).gauge (o s c t)).expected, ((s.core c).gauge (o s c t)).arrived])
    ∧ Gives (.awaitSt a g ch) noPre
      (fun s c t th => sok s c t ∧ th.marked 1 (so s c t) (tg s c t) = false ∧ stamped s c t) (fun s _ _ _ => s) noL
    ∧ Gives (.awaitSt a g ch) noPre
      (fun s c t th => so s c t % 8 = 0 ∧ so s c t + 8 ≤ 1048576 ∧ th.marked 1 (so s c t) (tg s c t) = true) unmark noL
    ∧ Stops (.awaitSt a g ch) noPre
      (fun s c t th => sok s c t ∧ th.marked 1 (so s c t) (tg s c t) = false ∧ ¬ stamped s c t)
      (fun s c t _ => .await 1 (so s c t) (tg s c t))
    ∧ Stops (.awaitSt a g ch) noPre
      (fun s c t th => so s c t % 8 = 0 ∧ so s c t + 8 ≤ 1048576 ∧ th.marked 1 (so s c t) (tg s c t) = false
        ∧ ((s.core c).lineAttr (so s c t / 128)).own = false)
      (fun s c t _ => fault1 13 [(s.src64 c t a).setWidth 32])
    ∧ Gives (.awaitPr a g ch) noPre
      (fun s c t th => o s c t < 1048576 ∧ th.marked 2 (o s c t) 0 = false
        ∧ ((s.core c).lineAttr (o s c t / 128)).pres = true)
      (fun s _ _ _ => s) noL
    ∧ Gives (.awaitPr a g ch) noPre (fun s c t th => o s c t < 1048576 ∧ th.marked 2 (o s c t) 0 = true) unmark noL
    ∧ Stops (.awaitPr a g ch) noPre
      (fun s c t th => o s c t < 1048576 ∧ th.marked 2 (o s c t) 0 = false ∧ ((s.core c).lineAttr (o s c t / 128)).pres = false)
      (fun s c t _ => if ((s.core c).lineAttr (o s c t / 128)).pend = 0 then fault1 22 [s.src c t a] else .await 2 (o s c t) 0)

/-- R115, R117: TRAP n traps with class 0 kind 4 and restarts at the next unit; BKPT does so with kind 5 when debugging
is off, and completes and halts its partition when it is on. R116: ERET leaves handler mode and
jumps to $epc; outside handler mode it raises the privilege fault. -/
def Obligations.TrapsAndReturns : Prop :=
  (∀ (n : BitVec 7) (g : Guard) (s : State) (c t : Nat) (th : Thread),
     (Solo (.trap n g) noPre s c t th →
       exec (.trap n g) s = .next (s.stopAt c t (.trap 0 4 [n.setWidth 32] true)))
     ∧ (Solo (.trap n g) noPre s c t th → th.handler = false → th.evec ≠ 0 → (s.part c (posPart t)).stepping th.uid = false →
       ∃ u th', exec (.trap n g) s = .next u ∧ u.thr? c t = some th' ∧ th'.epc = th.pc + wd (4 * s.cur.len)
         ∧ th'.ecause = 4 ∧ th'.einfo = [n.setWidth 32, 0, 0, 0] ∧ th'.handler = true ∧ th'.pc = th.evec)
     ∧ (Solo (.bkpt n g) noPre s c t th → bitOf (s.ten (s.core c).tenancy).ctl.toNat 26 = false →
       exec (.bkpt n g) s = .next (s.stopAt c t (.trap 0 5 [n.setWidth 32] true)))
     ∧ (Solo (.bkpt n g) noPre s c t th → bitOf (s.ten (s.core c).tenancy).ctl.toNat 26 = true →
       exec (.bkpt n g) s = .next ((ran s c t (.bkpt n g) (.val 0)).haltPart c s.cur.part)))
  ∧ (∀ (g : Guard) (s : State) (c t : Nat) (th : Thread),
     Solo (.eret g) handlerOnly s c t th →
       exec (.eret g) s = .next ((s.setThr c t { th with handler := false }).jumpTo c t th.epc))
  ∧ (∀ (g : Guard) (s : State) (c t : Nat) (th : Thread), Met (.eret g) s c t th → th.handler = false →
       exec (.eret g) s = .next (s.stopAt c t (fault1 5 [])))

/-- R113: outside a handler and with $evec set, a trap or fault enters the handler: the saved registers are written,
handler mode is entered, and the thread is READY at $evec with no latches. R113, R308, R310: with $evec 0 the thread
ends with status FAULT, inside a handler with status DOUBLE; a record goes to the fault ring; DOUBLE notifies the
error handler (R344). -/
def Obligations.TakingTraps : Prop :=
  (∀ (s : State) (c t : Nat) (th : Thread) (cls kind : Nat) (info : List Word) (after : Bool),
     s.thr? c t = some th → th.log = none → th.handler = false → th.evec ≠ 0 →
     (s.part c (posPart t)).stepping th.uid = false → ¬ (cls = 1 ∧ kind = 29 ∧ s.replayable c = true) →
       ∃ u th', s.stopAt c t (.trap cls kind info after) = u ∧ u.thr? c t = some th'
         ∧ th'.handler = true ∧ th'.epc = (if after then s.nextPc th else th.head)
         ∧ th'.ecause = BitVec.ofNat 16 (cls * 256 + kind) ∧ th'.einfo = (info ++ [0, 0, 0, 0]).take 4
         ∧ th'.einst = s.cur.word ∧ th'.pc = th.evec ∧ th'.head = th.evec ∧ th'.lats = [] ∧ th'.st = .ready
         ∧ th'.win = th.win ∧ th'.evec = th.evec ∧ th'.errs = th.errs ∧ th'.ocCp = th.ocCp ∧ th'.ocMx = th.ocMx
         ∧ th'.ocGa = th.ocGa ∧ th'.ocCo = th.ocCo ∧ u.mem = s.mem ∧ u.tens = s.tens
         ∧ (u.core c).sp = (s.core c).sp ∧ (∀ d v, d ≠ c ∨ v ≠ t → u.thr? d v = s.thr? d v))
  ∧ (∀ (s : State) (c t : Nat) (th : Thread) (cls kind : Nat) (info : List Word) (after : Bool),
     s.thr? c t = some th → th.log = none → (th.handler = true ∨ th.evec = 0) →
     ¬ (cls = 1 ∧ kind = 29 ∧ s.replayable c = true) →
       let status := if th.handler then 2 else 1
       let r := { thrRec cls kind status th c t th.pc s.cur.word info 0 with
         rpc := if after then s.nextPc th else th.head }
       let u := (s.sendRec (s.core c).tenancy r).2
       s.stopAt c t (.trap cls kind info after)
         = (if th.handler then u.notify (s.core c).tenancy 1 else u).endThread c t status
       ∧ (s.stopAt c t (.trap cls kind info after)).thr? c t = none)

/-- R26, R118, R290, R348: GETS reads the register; the values of the table, $topo's fields with them; a read of $time latches
$timesub. SETS writes $epc, $evec and, with sampling enabled, $smpctl. -/
def Obligations.SystemRegisters : Prop :=
  (∀ (d : Dst) (r : BitVec 7) (g : Guard) (ch : Bool),
     (sysRegWide r = false →
       Gives (.gets d r g ch) (framePriv r) always
         (fun s c t th => s.dst c t d (wd (s.sysReg c t th r.toNat)))
          (fun s c t th => .val ((wd (s.sysReg c t th r.toNat)).setWidth 64)))
     ∧ (sysRegWide r = true → r ≠ 0x0B →
       Gives (.gets d r g ch) (framePriv r) always
         (fun s c t th => s.dst64 c t d (BitVec.ofNat 64 (s.sysReg c t th r.toNat)))
         (fun s c t th => .val (BitVec.ofNat 64 (s.sysReg c t th r.toNat))))
     ∧ Gives (.gets d 0x0B g ch) (framePriv 0x0B) always
         (fun s c t th => (s.setThr c t { th with tsub := wd (s.timeFrac * 65536 / 13500) |>.setWidth 16 }).dst64 c t d s.time)
         (fun s _ _ _ => .val s.time)
     ∧ ∀ (s : State) (c t : Nat) (th : Thread),
       s.sysReg c t th 0x00 = t % 32 ∧ s.sysReg c t th 0x01 = t ∧ s.sysReg c t th 0x02 = th.item0.toNat
       ∧ s.sysReg c t th 0x03 = th.item1.toNat ∧ s.sysReg c t th 0x04 = th.item2.toNat ∧ s.sysReg c t th 0x05 = c
       ∧ s.sysReg c t th 0x08 = s.device.toNat ∧ s.sysReg c t th 0x09 = (s.core c).tenancy
       ∧ s.sysReg c t th 0x10 = th.win.alloc ∧ s.sysReg c t th 0x11 = th.win.wbase ∧ s.sysReg c t th 0x12 = th.ocCp
       ∧ s.sysReg c t th 0x13 = th.ocMx ∧ s.sysReg c t th 0x14 = th.ocGa ∧ s.sysReg c t th 0x15 = th.ocCo
       ∧ s.sysReg c t th 0x40 = th.epc.toNat ∧ s.sysReg c t th 0x41 = th.ecause.toNat
       ∧ s.sysReg c t th 0x46 = th.einst.toNat ∧ s.sysReg c t th 0x47 = th.evec.toNat
       ∧ s.sysReg c t th 0x06 = c / 8 ∧ s.sysReg c t th 0x07 = c / 24
       ∧ s.sysReg c t th 0x0A = (s.cycle + (s.core c).skew + th.bias) % 2 ^ 64
       ∧ s.sysReg c t th 0x0B = s.time.toNat ∧ s.sysReg c t th 0x0C = th.tsub.toNat
       ∧ s.sysReg c t th 0x18 = (s.ten (s.core c).tenancy).smpctl.toNat
       ∧ (∀ k < 4, s.sysReg c t th (0x42 + k) = (th.einfo.getD k 0).toNat)
       ∧ (∀ (x : Ctx) (nd : Node), (s.core c).ctx = some x → s.nodeOf c = some nd →
         x.index < 16 → 0 < nd.gang → nd.gang ≤ 16 → nd.shape < 256 →
         let v := s.sysReg c t th 0x19
         v / 2 ^ 24 = c / 8 ∧ v / 2 ^ 8 % 256 = nd.shape ∧ v / 16 % 16 = nd.gang - 1 ∧ v % 16 = x.index
         ∧ ∀ k < 8, (bitOf v (16 + k) = true ↔ c / 8 * 8 + k ∈ nd.cores)))
  ∧ (∀ (a : Src) (g : Guard) (ch : Bool),
     Gives (.sets 0x40 a g ch) (setsPre 0x40 a) always (fun s c t th => s.setThr c t { th with epc := s.src c t a }) noL
     ∧ Gives (.sets 0x47 a g ch) (setsPre 0x47 a) always (fun s c t th => s.setThr c t { th with evec := s.src c t a }) noL
     ∧ (∀ s c t th, Solo (.sets 0x18 a g ch) (setsPre 0x18 a) s c t th →
         ∃ u, exec (.sets 0x18 a g ch) s = .next u
           ∧ (u.ten (s.core c).tenancy).smpctl =
             (if 10 < bits (s.src c t a).toNat 23 20 then (s.src c t a &&& 0x80000000) ||| 0x00A00000 else s.src c t a)
           ∧ u.mem = s.mem))

/-- R27, R31, R116, R118, R161: a frame register, ERET or HCLR outside handler mode raises the privilege fault; SETS of
another register, and of $smpctl without permission or with reserved bits, raises its fault; these
records carry no values (R114). -/
def Obligations.PrivilegeFaults : Prop :=
  ∀ (d : Dst) (r : BitVec 7) (a : Src) (g : Guard) (ch : Bool) (s : State) (c t : Nat) (th : Thread),
    Met (.sets r a g ch) s c t th → checkWindow th.win [.f a 1] [] = .ok () → checkBounds th [.f a 1] [] = .ok () →
    (64 ≤ r.toNat → th.handler = false → exec (.sets r a g ch) s = .next (s.stopAt c t (fault1 5 [])))
    ∧ (th.handler = false → exec (.eret g) s = .next (s.stopAt c t (fault1 5 [])))
    ∧ (th.handler = false → exec (.hclr a g ch) s = .next (s.stopAt c t (fault1 5 [])))
    ∧ (64 ≤ r.toNat → th.handler = false → checkWindow th.win [] [.f d (if sysRegWide r then 2 else 1)] = .ok () →
      checkBounds th [] [.f d (if sysRegWide r then 2 else 1)] = .ok () →
      exec (.gets d r g ch) s = .next (s.stopAt c t (fault1 5 [])))
    ∧ (r ≠ 0x18 → r ≠ 0x40 → r ≠ 0x47 → (64 ≤ r.toNat → th.handler = true) →
      exec (.sets r a g ch) s = .next (s.stopAt c t (fault1 4 [])))
    ∧ (bitOf (s.ten (s.core c).tenancy).ctl.toNat 25 = false →
      exec (.sets 0x18 a g ch) s = .next (s.stopAt c t (fault1 5 [])))
    ∧ (bitOf (s.ten (s.core c).tenancy).ctl.toNat 25 = true →
      (bits (s.src c t a).toNat 30 24 ≠ 0 ∨ bits (s.src c t a).toNat 19 0 ≠ 0) →
      exec (.sets 0x18 a g ch) s = .next (s.stopAt c t (fault1 4 [])))

/-- R119, R120: WIN moves the window inside the allocation, or raises the window fault; WGROW answers whether the
allocation holds m registers, growing it when the lane can. -/
def Obligations.WindowUnits : Prop :=
  ∀ (m8 : BitVec 5) (d : Dst) (a : Src) (g : Guard) (ch : Bool),
    let moved (v : Word) (s : State) (c t : Nat) (th : Thread) : State :=
      s.setThr c t { th with win := { th.win with wbase := v.toNat } }
    let fits (v : Word) (th : Thread) : Prop := v.toNat % 8 = 0 ∧ v.toNat + 8 ≤ th.win.alloc
    let legal (v : Word) : Prop := 8 ≤ v.toNat ∧ v.toNat ≤ 256 ∧ v.toNat % 8 = 0
    let dOk (s : State) (c t : Nat) (th : Thread) : Prop :=
      checkWindow th.win [] [.f d 1] = .ok () ∧ checkBounds th [] [.f d 1] = .ok ()
      ∧ checkCopy (s.core c) t th (writeEnts th.win [.f d 1]) = .ok () ∧ checkElems (s.core c) th [] [.f d 1] = .ok ()
    Gives (.win m8 g ch) noPre (fun _ _ _ th => fits (8 * m8.setWidth 32) th)
      (fun s c t th => moved (8 * m8.setWidth 32) s c t th) noL
    ∧ Stops (.win m8 g ch) noPre (fun _ _ _ th => ¬ fits (8 * m8.setWidth 32) th)
      (fun _ _ _ th => fault1 1 [8 * m8.setWidth 32, wd th.win.alloc])
    ∧ Gives (.winReg a g ch) noPre (fun s c t th => fits (s.src c t a) th)
      (fun s c t th => moved (s.src c t a) s c t th) noL
    ∧ Stops (.winReg a g ch) noPre (fun s c t th => ¬ fits (s.src c t a) th)
      (fun s c t th => fault1 1 [s.src c t a, wd th.win.alloc])
    ∧ Stops (.wgrow d a g ch) noPre (fun s c t _ => ¬ legal (s.src c t a)) (fun s c t _ => fault1 19 [s.src c t a])
    ∧ Gives (.wgrow d a g ch) noPre
      (fun s c t th => legal (s.src c t a) ∧ (s.src c t a).toNat ≤ th.win.alloc ∧ dOk s c t th)
      (fun s c t _ => s.dst c t d 1) (fun _ _ _ _ => .val 1)
    ∧ Gives (.wgrow d a g ch) noPre
      (fun s c t th => legal (s.src c t a) ∧ th.win.alloc < (s.src c t a).toNat
        ∧ s.canGrow c t ((s.src c t a).toNat - th.win.alloc) th = false ∧ dOk s c t th)
      (fun s c t _ => s.dst c t d 0) noL
    ∧ (∀ s c t th, Solo (.wgrow d a g ch) noPre s c t th → legal (s.src c t a) → th.win.alloc < (s.src c t a).toNat →
        s.canGrow c t ((s.src c t a).toNat - th.win.alloc) th = true →
        ∀ th', (s.growTo c t (s.src c t a).toNat).thr? c t = some th' → dOk (s.growTo c t (s.src c t a).toNat) c t th' →
        exec (.wgrow d a g ch) s =
          .next (ran ((s.growTo c t (s.src c t a).toNat).dst c t d 1) c t (.wgrow d a g ch) (.val 1)))
    ∧ (∀ s c t th, Solo (.wgrow d a g ch) noPre s c t th → legal (s.src c t a) →
        (((s.src c t a).toNat ≤ th.win.alloc ∨ s.canGrow c t ((s.src c t a).toNat - th.win.alloc) th = false) →
          ∀ e, checkWindow th.win [] [.f d 1] = .error e → exec (.wgrow d a g ch) s = .next (s.stopAt c t e))
        ∧ (th.win.alloc < (s.src c t a).toNat → s.canGrow c t ((s.src c t a).toNat - th.win.alloc) th = true →
          ∀ th', (s.growTo c t (s.src c t a).toNat).thr? c t = some th' → ∀ e, checkWindow th'.win [] [.f d 1] = .error e →
          exec (.wgrow d a g ch) s = .next (s.stopAt c t e)))

/-- R23, R121, R122, R123: TAGRD reads a width tag, CNTRD an event's count and enabled time, TIME the time as 48.16 fixed
point. -/
def Obligations.TagCounterTimeUnits : Prop :=
  ∀ (d : Dst) (k : BitVec 7) (e : BitVec 6) (g : Guard) (ch : Bool),
    Gives32 (.tagrd d k g ch) d (fun s c t =>
      let v := (s.reg c t k.toNat).toNat
      if v < 256 then 3 else if v < 65536 then 1 else if 4294934528 ≤ v then 2 else 0)
    ∧ Gives (.cntrd d e g ch) noPre (fun s c _ _ => bitOf (s.ten (s.core c).tenancy).ctl.toNat 24 = true ∧ e.toNat < 45)
      (fun s c t _ => s.dst64 c t d
        (wd (tget (0, 0) (s.part c (posPart t)).counts e.toNat).2 ++ wd (tget (0, 0) (s.part c (posPart t)).counts e.toNat).1))
      (fun s c t _ => .val
        (wd (tget (0, 0) (s.part c (posPart t)).counts e.toNat).2 ++ wd (tget (0, 0) (s.part c (posPart t)).counts e.toNat).1))
    ∧ Gives (.cntrd d e g ch) noPre
      (fun s c _ _ => 45 ≤ e.toNat ∨ bitOf (s.ten (s.core c).tenancy).ctl.toNat 24 = false) (fun s c t _ => s.dst64 c t d 0) noL
    ∧ Gives (.time d g ch) noPre always
      (fun s c t th => (s.setThr c t { th with tsub := (wd (s.timeFrac * 65536 / 13500)).setWidth 16 }).dst64 c t d
        (BitVec.ofNat 64 (s.time.toNat * 65536 + s.timeFrac * 65536 / 13500)))
      (fun s _ _ _ => .val (BitVec.ofNat 64 (s.time.toNat * 65536 + s.timeFrac * 65536 / 13500)))

/-! ### Helped objects (R154..R168) -/

namespace Sys2Proof.Claims

/-- n bytes of an object or a record that a step of the thread at position t of core c finds at once: translated for an access,
with what the core knows in q, to an ATOMIC page whose home is the core's own die, with neither a difference in the check bits
nor poison (R165, R256, R304, R338). -/
structure NearFor (acc : Acc) (q s : State) (c t va n : Nat) (e : TlbEntry) : Prop where
  walk  : (q.translate c t va acc).1 = .ok e
  home  : homeDie (e.pa va) = dieOf c
  attr  : e.attr = 1
  sane  : s.check = []
  clean : s.poisonedAt (e.pa va) n = false

/-- As NearFor, for helped access. -/
abbrev Near := NearFor .helped

/-- What the core knows after a step's translation of va (R304). -/
def seen (q : State) (c t va : Nat) : State := (q.translate c t va .helped).2

/-- Every byte outside the two ranges reads as before. -/
def memKeeps (s u : State) (p m q n : Nat) : Prop :=
  ∀ a, (a < p ∨ p + m ≤ a) → (a < q ∨ q + n ≤ a) → cellGet u.mem a = cellGet s.mem a

/-- Kinds 1 and 5: the status, the result and the new value of an op on value v with operand x; an op that the table does
not list is INVALID (R157). -/
def wordOp (kind op v x : Nat) : Option (Nat × Nat × Nat) :=
  match kind, op with
  | 1, 1 => some (0, v, (v + x) % 2 ^ 64)
  | 1, 2 => some (0, v, x)
  | 1, 3 => some (0, v, v)
  | 5, 1 => if (BitVec.ofNat 64 v).slt (BitVec.ofNat 64 x) then some (2, v, v) else some (0, v, (v + 2 ^ 64 - x) % 2 ^ 64)
  | 5, 2 => some (0, v, (v + x) % 2 ^ 64)
  | 1, _ | 5, _ => some (6, 0, v)
  | _, _ => none

/-- The next ticket: the upper half counts, the lower half skips 0 (R160). -/
def ticketAfterSpec (t : Nat) : Nat :=
  if (t + 1) % 2 ^ 32 = 0 then (t + 2) % 2 ^ 64 else (t + 1) % 2 ^ 64

/-- The effective address of a HOB unit, and its virtual address (R139, R158). -/
def hobEa (a : Src) (s : State) (c t : Nat) : Nat := (s.src c t a).toNat
def hobVa (a : Src) (s : State) (c t : Nat) (th : Thread) : Nat := regionVa th.region (s.src c t a)

/-- After the acquire of HAPP, HRUN, HPEEK and HRES: the core's L1 holds no line but local ones; where loads of the thread are
outstanding, its later accesses wait for these, and so does the invalidation (R257, R258). -/
def Acquired (w : State) (c t : Nat) (th : Thread) : Prop :=
  let ids := (th.pend.filter fun p => !p.settled).map (·.id)
  if ids = [] then w.thr? c t = some th ∧ ∀ x ∈ (w.core c).l1, localLine c x.1 = true
  else w.thr? c t = some { th with acqWait := ids }

/-- A HOB unit's thread is not of a replayable node, no home-slice step of its tenancy is held, and the byte stores have
their canonical form, which every step keeps (StoresStayCanonical). -/
def hobFree (s : State) (c : Nat) : Prop :=
  s.replayable c = false ∧ s.weirHolds (s.core c).tenancy 6 = false ∧ s.storesWf = true

end Sys2Proof.Claims

/-- R159, R163, R164, R258: HINIT leaves the bytes of its parameters, HPEEK answers the pending count and the low value word,
HPOIS sets POISONED and the code, HCLR clears both; nothing else in memory changes. An acquire that waits for loads
invalidates L1 once these are performed. -/
def Obligations.HobObjects : Prop :=
  (∀ (s : State) (c t : Nat) (th : Thread), s.thr? c t = some th → th.acqWait ≠ [] →
    (∀ p ∈ th.pend, p.settled = false → p.id ∉ th.acqWait) →
    s.settleAcq.thr? c t = some { th with acqWait := [] } ∧ ∀ x ∈ (s.settleAcq.core c).l1, localLine c x.1 = true)
  ∧ ∀ (d : Dst) (b a : Src) (g : Guard) (ch : Bool) (s : State) (c t : Nat) (th : Thread) (e : TlbEntry),
    let pa := e.pa (hobVa a s c t th)
    let ob := cellsRead s.mem pa 256
    let p := (s.src64 c t b).toNat
    let f := (cellGet s.mem (pa + 1)).toNat
    hobEa a s c t % 256 = 0 → hobFree s c → Near s s c t (hobVa a s c t th) 256 e → axFree s c t [] [a, b] →
      (Solo (.hinit b a g ch) noPre s c t th → f % 2 = 0 → obAnnounced ob = obApplied ob →
        initOk (hobVa a s c t th) (p % 2 ^ 32) ob = true →
        ∃ w : State, exec (.hinit b a g ch) s = .next (ran w c t (.hinit b a g ch) (.val 0)) ∧ w.thr? c t = some th
          ∧ cellsRead w.mem pa 256 = initBytes (p % 2 ^ 32) (p / 2 ^ 32) ob ∧ memKeeps s w pa 256 pa 256)
      ∧ (Solo (.hpeek d a g ch) noPre s c t th →
        ∃ w : State, exec (.hpeek d a g ch) s = .next (ran (w.dst64 c t d (pair (wd (obPending ob)) (wd (fieldAt ob 192 4)))) c t
            (.hpeek d a g ch) (.val (pair (wd (obPending ob)) (wd (fieldAt ob 192 4)))))
          ∧ Acquired w c t th ∧ w.mem = s.mem)
      ∧ (Solo (.hpois b a g ch) noPre s c t th →
        ∃ w : State, exec (.hpois b a g ch) s = .next (ran w c t (.hpois b a g ch) (.val 0)) ∧ w.thr? c t = some th
          ∧ cellGet w.mem (pa + 1) = cellGet s.mem (pa + 1) ||| 1#8
          ∧ cellsRead w.mem (pa + 24) 4 = toBytes 4 (s.src c t b).toNat ∧ memKeeps s w (pa + 1) 1 (pa + 24) 4)
      ∧ (Solo (.hclr a g ch) handlerOnly s c t th →
        ∃ w : State, exec (.hclr a g ch) s = .next (ran w c t (.hclr a g ch) (.val 0)) ∧ w.thr? c t = some th
          ∧ cellGet w.mem (pa + 1) = cellGet s.mem (pa + 1) &&& 0xFE#8
          ∧ cellsRead w.mem (pa + 24) 4 = [0, 0, 0, 0] ∧ memKeeps s w (pa + 1) 1 (pa + 24) 4)

/-- R160: HANN gives the record the next ticket, enters its address in the ring, and answers the ticket's low half; a
full ring answers 0 and changes nothing. R157, R161, R258: HAPP applies the next pending ticket and answers 1, of a kind 1 or
kind 5 object with its value, its record's result and status, or with what the record of an agent of the device keeps of
them (the model's reading, notes/assumptions/8); without a pending ticket it answers 0 and changes nothing. -/
def Obligations.HobAnnouncesAndApplies : Prop :=
  (∀ (d : Dst) (a : Src) (g : Guard) (ch : Bool) (s : State) (c t : Nat) (th : Thread) (e eo : TlbEntry),
     let rp := e.pa (hobVa a s c t th)
     let r := cellsRead s.mem rp 32
     let obj := fieldAt r 8 8
     let pa := eo.pa obj
     let ob := cellsRead s.mem pa 256
     let k := ticketAfterSpec (obAnnounced ob)
     Solo (.hann d a g ch) noPre s c t th → hobEa a s c t % 32 = 0 → hobFree s c → axFree s c t [d] [a] →
     Near s s c t (hobVa a s c t th) 32 e → Near (seen s c t (hobVa a s c t th)) s c t obj 256 eo → fieldAt r 0 1 ≠ 1 →
       obj < 2 ^ 57 → obj % 256 = 0 →
     1 ≤ obKind ob → obKind ob ≤ 5 → opListed (obKind ob) (fieldAt r 1 1) = true → obFlags ob % 2 = 0 →
       (obPending ob = 16 →
         ∃ w : State, exec (.hann d a g ch) s = .next (ran (w.dst c t d 0) c t (.hann d a g ch) (.val 0))
           ∧ w.thr? c t = some th ∧ w.mem = s.mem)
       ∧ (obPending ob ≠ 16 →
         ∃ w : State, exec (.hann d a g ch) s
             = .next (ran (w.dst c t d (wd (k % 2 ^ 32))) c t (.hann d a g ch) (.val ((wd (k % 2 ^ 32)).setWidth 64)))
           ∧ w.thr? c t = some th ∧ memKeeps s w rp 32 pa 256
           ∧ ((rp + 32 ≤ pa ∨ pa + 256 ≤ rp) → cellGet w.mem rp = 1 ∧ cellsRead w.mem (rp + 4) 4 = toBytes 4 k
             ∧ cellsRead w.mem (pa + 8) 8 = toBytes 8 k
             ∧ cellsRead w.mem (pa + 64 + 8 * (k % 16)) 8 = toBytes 8 (hobVa a s c t th))))
  ∧ (∀ (d : Dst) (a : Src) (g : Guard) (ch : Bool) (s : State) (c t : Nat) (th : Thread) (e er : TlbEntry),
     let pa := e.pa (hobVa a s c t th)
     let ob := cellsRead s.mem pa 256
     let k := ticketAfterSpec (obApplied ob)
     let q := fieldAt ob (64 + 8 * (k % 16)) 8 % 2 ^ 57
     let rp := er.pa q
     let r := cellsRead s.mem rp 32
     let ef := opEffect ob (fieldAt r 1 1) (fieldAt r 16 8) s.time.toNat
     let applies (P : State → Prop) : Prop :=
       ∃ w : State, exec (.happ d a g ch) s = .next (ran (w.dst c t d 1) c t (.happ d a g ch) (.val 1)) ∧ P w
     Solo (.happ d a g ch) noPre s c t th → hobEa a s c t % 256 = 0 → hobFree s c → axFree s c t [d] [a] →
     Near s s c t (hobVa a s c t th) 256 e →
       (obPending ob = 0 →
         ∃ w : State, exec (.happ d a g ch) s = .next (ran (w.dst c t d 0) c t (.happ d a g ch) (.val 0))
           ∧ Acquired w c t th ∧ w.mem = s.mem)
       ∧ (obPending ob ≠ 0 → (∀ x ∈ s.own, x.pa = pa → x.ticket = k → x.res.isSome = true) →
         Near (seen s c t (hobVa a s c t th)) s c t q 32 er → q % 32 = 0 →
         ((∀ i, (ef.get = some i ∨ ef.put.map (·.1) = some i) →
             ∃ ee, Near (seen (seen s c t (hobVa a s c t th)) c t q) s c t ((hobVa a s c t th + 256 + 8 * i) % 2 ^ 57) 8 ee) →
           applies fun w => Acquired w c t th)
         ∧ (∀ st res new, wordOp (obKind ob) (fieldAt r 1 1) (fieldAt ob 192 8) (fieldAt r 16 8) = some (st, res, new) →
           applies fun w => Acquired w c t th ∧ memKeeps s w rp 32 pa 256
             ∧ ((rp + 32 ≤ pa ∨ pa + 256 ≤ rp) → cellsRead w.mem (pa + 192) 8 = toBytes 8 new
               ∧ cellsRead w.mem (pa + 16) 8 = toBytes 8 k ∧ cellGet w.mem rp = 2
               ∧ cellGet w.mem (rp + 2) = BitVec.ofNat 8 st ∧ cellsRead w.mem (rp + 24) 8 = toBytes 8 res)))
       ∧ (∀ x : OwnRec, s.own.find? (fun x => x.pa == pa && x.ticket == k && x.res.isNone) = some x → obPending ob ≠ 0 →
         ∀ st res new, wordOp (obKind ob) x.op (fieldAt ob 192 8) x.operand = some (st, res, new) →
         applies fun w => Acquired w c t th ∧ { x with res := some (st, res, fieldAt ob 192 8) } ∈ w.own
           ∧ cellsRead w.mem (pa + 192) 8 = toBytes 8 new ∧ cellsRead w.mem (pa + 16) 8 = toBytes 8 k
           ∧ memKeeps s w pa 256 pa 256))

/-- R162, R163, R258: HRUN on a record already applied, and on one whose ticket its object has applied, answers 0; a pass of
its loop that finds the ticket applied answers the tickets it has applied, and one that does not, or that must wait, stays at
the unit with its object, its ticket and its count. HRES answers the result of a record that is applied. -/
def Obligations.HobRunsAndResults : Prop :=
  ∀ (d : Dst) (a : Src) (g : Guard) (ch : Bool) (s : State) (c t : Nat) (th : Thread) (e eo : TlbEntry),
    let rp := e.pa (hobVa a s c t th)
    let r := cellsRead s.mem rp 32
    let obj := fieldAt r 8 8
    hobEa a s c t % 32 = 0 → hobFree s c → axFree s c t [d] [a] →
      (Solo (.hrun d a g ch) noPre s c t th → th.prog = none → Near s s c t (hobVa a s c t th) 32 e →
        (fieldAt r 0 1 = 2 ∨ (fieldAt r 0 1 = 1 ∧ obj < 2 ^ 57 ∧ obj % 256 = 0
          ∧ Near (seen s c t (hobVa a s c t th)) s c t obj 256 eo
          ∧ ticketAfter (obApplied (cellsRead s.mem (eo.pa obj) 256)) (fieldAt r 4 4) = false)) →
        ∃ w : State, exec (.hrun d a g ch) s = .next (ran (w.dst c t d 0) c t (.hrun d a g ch) (.val 0))
          ∧ Acquired w c t th ∧ w.mem = s.mem)
      ∧ (∀ (p : Prog) (u : State) (th' : Thread), Solo (.hrun d a g ch) noPre s c t th →
        th.prog = some p → p.phase ≠ 1 → u.thr? c t = some th' → u.cur = s.cur →
        let stays (n : Nat) : Prop := ∃ (w : State) (x : Thread), exec (.hrun d a g ch) s = .next w ∧ w.mem = u.mem
          ∧ w.thr? c t = some x ∧ x.prog = some { p with phase := 0, count := p.count + n } ∧ x.pc = th'.pc ∧ x.st = th'.st
          ∧ ∀ k, w.reg c t k = u.reg c t k
        (∀ n, s.runPass (s.agent c t) p.obj p.tick = .ok (true, n, u) → ∃ w : State, w.mem = u.mem
          ∧ exec (.hrun d a g ch) s = .next (ran (w.dst c t d (wd (p.count + n))) c t
              (.hrun d a g ch) (.val ((wd (p.count + n)).setWidth 64))))
        ∧ (∀ n, s.runPass (s.agent c t) p.obj p.tick = .ok (false, n, u) → stays n)
        ∧ (s.runPass (s.agent c t) p.obj p.tick = .error (.wait, u) → stays 0))
      ∧ (Solo (.hres d a g ch) noPre s c t th → (s.translate c t (hobVa a s c t th) .load).1 = .ok e →
        homeDie rp = dieOf c → s.check = [] → s.poisonedAt rp 32 = false → (∀ p ∈ th.pend, p.reads rp 32 = false) →
        (∀ w ∈ (s.core c).late, w.meets rp 32 = false) →
        (fieldAt r 0 1 = 2 →
          ∃ w : State, exec (.hres d a g ch) s = .next (ran (w.dst64 c t d (BitVec.ofNat 64 (fieldAt r 24 8))) c t
              (.hres d a g ch) (.val (BitVec.ofNat 64 (fieldAt r 24 8))))
            ∧ Acquired w c t th ∧ w.mem = s.mem)
        ∧ (fieldAt r 0 1 ≠ 2 →
          exec (.hres d a g ch) s = .next (s.stopAt c t (fault1 15 [7, wd (hobEa a s c t), 0]))))

/-- R141, R158, R166, R168: a HOB unit's address must be aligned; in a replayable node every HOB unit but HANN raises the
replay-operation fault with its minor; HANN there of an op that its object's kind defers enters the record's address in the
node's commit list and answers all ones, and HANN of any other op raises that fault; the helped-object faults of HINIT and
HANN. The object's kind is read where the record names it, as the node sees it (notes/assumptions/58). -/
def Obligations.HobFaults : Prop :=
  ∀ (d : Dst) (b a : Src) (g : Guard) (ch : Bool) (s : State) (c t : Nat) (th : Thread) (e eo : TlbEntry),
    let ea := hobEa a s c t
    let va := hobVa a s c t th
    let replay (i : Instr) (pre : State → Nat → Nat → Except Stop Unit) (n minor : Nat) (acc : Acc) : Prop :=
      Solo i pre s c t th → ea % n = 0 → s.dstOwned c t d = .ok () → s.replayable c = true → th.prog = none →
        (s.translate c t va acc).1 = .ok e → exec i s = .next (s.stopAt c t (fault1 16 [wd ea, wd minor, 0]))
    let askew (i : Instr) (pre : State → Nat → Nat → Except Stop Unit) (n : Nat) : Prop :=
      Solo i pre s c t th → th.prog = none → ea % n ≠ 0 → exec i s = .next (s.stopAt c t (fault1 10 [wd ea, wd n]))
    let r := cellsRead s.mem (e.pa va) 32
    let ob := cellsRead s.mem (e.pa va) 256
    let oo := cellsRead s.mem (eo.pa (fieldAt r 8 8)) 256
    (askew (.hinit b a g ch) noPre 256 ∧ askew (.hann d a g ch) noPre 32 ∧ askew (.happ d a g ch) noPre 256
      ∧ askew (.hrun d a g ch) noPre 32 ∧ askew (.hres d a g ch) noPre 32 ∧ askew (.hpeek d a g ch) noPre 256
      ∧ askew (.hpois b a g ch) noPre 256 ∧ askew (.hclr a g ch) handlerOnly 256)
    ∧ (replay (.hinit b a g ch) noPre 256 0 .helped ∧ replay (.happ d a g ch) noPre 256 2 .helped
      ∧ replay (.hrun d a g ch) noPre 32 3 .helped ∧ replay (.hres d a g ch) noPre 32 4 .load
      ∧ replay (.hpeek d a g ch) noPre 256 5 .helped ∧ replay (.hpois b a g ch) noPre 256 6 .helped
      ∧ replay (.hclr a g ch) handlerOnly 256 7 .helped)
    ∧ (∀ nd, Solo (.hann d a g ch) noPre s c t th → ea % 32 = 0 → axFree s c t [d] [a] → s.replayable c = true →
      s.nodeOf c = some nd → (s.translate c t va .helped).1 = .ok e → s.check = [] → s.poison = [] →
      let rec_ := s.overlay c (e.pa va) r
      let obj := fieldAt rec_ 8 8 % 2 ^ 57
      let op := fieldAt rec_ 1 1
      ∀ eo, s.walkFor (s.core c).tenancy obj .load = .ok eo →
        let kd := fieldAt (s.overlay c (eo.pa obj) (cellsRead s.mem (eo.pa obj) 1)) 0 1
        let may := (kd ∈ [1, 2, 3, 4] ∧ op = 1) ∨ (kd = 5 ∧ op = 2)
        (may → ∃ (w : State) (nd' : Node), w.mem = s.mem ∧ w.nodeOf c = some nd' ∧ nd'.commits = nd.commits ++ [va]
          ∧ exec (.hann d a g ch) s = .next (ran (w.dst c t d 0xFFFFFFFF) c t (.hann d a g ch) (.val 0xFFFFFFFF)))
        ∧ (¬ may → exec (.hann d a g ch) s = .next (s.stopAt c t (fault1 16 [wd ea, 1, wd op]))))
    ∧ (Solo (.hinit b a g ch) noPre s c t th → ea % 256 = 0 → hobFree s c → Near s s c t va 256 e →
      (obFlags ob % 2 = 1 → exec (.hinit b a g ch) s = .next (s.stopAt c t (fault1 15 [3, wd ea, wd (obPcode ob)])))
      ∧ (obFlags ob % 2 = 0 → obAnnounced ob ≠ obApplied ob →
        exec (.hinit b a g ch) s = .next (s.stopAt c t (fault1 15 [1, wd ea, 0])))
      ∧ (obFlags ob % 2 = 0 → obAnnounced ob = obApplied ob → initOk va ((s.src64 c t b).toNat % 2 ^ 32) ob = false →
        exec (.hinit b a g ch) s = .next (s.stopAt c t (fault1 15 [6, wd ea, 0]))))
    ∧ (Solo (.hann d a g ch) noPre s c t th → ea % 32 = 0 → s.dstOwned c t d = .ok () → hobFree s c → Near s s c t va 32 e →
      (fieldAt r 0 1 = 1 → exec (.hann d a g ch) s = .next (s.stopAt c t (fault1 15 [1, wd ea, 0])))
      ∧ (fieldAt r 0 1 ≠ 1 → (2 ^ 57 ≤ fieldAt r 8 8 ∨ fieldAt r 8 8 % 256 ≠ 0) →
        exec (.hann d a g ch) s = .next (s.stopAt c t (fault1 15 [8, wd ea, 0])))
      ∧ (fieldAt r 0 1 ≠ 1 → fieldAt r 8 8 < 2 ^ 57 → fieldAt r 8 8 % 256 = 0 → Near (seen s c t va) s c t (fieldAt r 8 8) 256 eo →
        (obKind oo = 0 ∨ 5 < obKind oo → exec (.hann d a g ch) s = .next (s.stopAt c t (fault1 15 [4, wd ea, 0])))
        ∧ (1 ≤ obKind oo → obKind oo ≤ 5 → opListed (obKind oo) (fieldAt r 1 1) = false →
          exec (.hann d a g ch) s = .next (s.stopAt c t (fault1 15 [5, wd ea, 0])))
        ∧ (1 ≤ obKind oo → obKind oo ≤ 5 → opListed (obKind oo) (fieldAt r 1 1) = true → obFlags oo % 2 = 1 →
          exec (.hann d a g ch) s = .next (s.stopAt c t (fault1 15 [3, wd ea, wd (obPcode oo)])))))

/-! ### Spray operations -/

namespace Sys2Proof.Claims

/-- A unit runs once for the members of a spray: each one's guard is true and its access conditions hold, no deferred
access or checker mismatch stops one, and record and replay is off (R172). -/
structure Joint (i : Instr) (pre : State → Nat → Nat → Except Stop Unit) (s : State) (c : Nat) (ps : List Nat) : Prop where
  core    : s.cur.core = c
  members : s.cur.members = ps
  inhabited : ps ≠ []
  all     : ∀ t ∈ ps, ∃ th, s.thr? c t = some th ∧ guardHolds th.win.preds i.guard = true ∧ th.log = none
    ∧ checkUnit i pre s c t th = .ok ()
  noUpset : s.cur.upset = none
  noRr    : bits (s.ten (s.core c).tenancy).rr.toNat 63 62 = 0

/-- Every participant completes. -/
def allRan (s : State) (c : Nat) (ps : List Nat) (i : Instr) : State := ps.foldl (fun s t => s.complete c t i (.val 0)) s

/-- A spray operation has its effect once, and every participant completes. -/
def GivesAll (i : Instr) (pre : State → Nat → Nat → Except Stop Unit) (P : State → Nat → List Nat → Prop)
    (eff : State → Nat → List Nat → State) : Prop :=
  ∀ s c ps, Joint i pre s c ps → P s c ps → exec i s = .next (allRan (eff s c ps) c ps i)

/-- A thread whose unit's first access conditions hold: what remains is the condition of the unit's own (R31). -/
structure Begun (i : Instr) (s : State) (c t : Nat) (th : Thread) : Prop where
  core    : s.cur.core = c
  members : s.cur.members = [t]
  thread  : s.thr? c t = some th
  guard   : guardHolds th.win.preds i.guard = true
  noLog   : th.log = none
  noUpset : s.cur.upset = none
  window  : checkWindow th.win i.srcs i.dsts = .ok ()
  bounds  : checkBounds th i.srcs i.dsts = .ok ()

end Sys2Proof.Claims

/-! ### Headers (R63..R71, R174) -/

namespace Sys2Proof.Claims

/-- The image of 32 bytes, its header and the slot it fills (R58, R65). -/
def imageOf (bs : List Byte) : BitVec 256 := BitVec.ofNat 256 (ofBytes bs)
def slotOf (sp : Bool) (addr : Nat) (bs : List Byte) : Slot :=
  { hdr := imageOf bs, bind := BitVec.ofNat 64 ((addr + 32) % 2 ^ 57 + if sp then 1 else 0), dirty := false }

/-- An image whose crc is right and that no row marked Any of R70 refuses. -/
def goodImage (sp : Bool) (addr : Nat) (bs : List Byte) : Prop :=
  (Hdr.of (imageOf bs)).crc = crc16 (bs.take 30) ∧ (Hdr.of (imageOf bs)).anyFault (slotOf sp addr bs).bind = none

/-- The registers x..x+7 of a thread as bytes. -/
def eightRegs (s : State) (c t x : Nat) : List Byte := (List.range 8).flatMap fun j => toBytes 4 (s.reg c t (x + j)).toNat

/-- Where a slot's image lies: 32 bytes before its data (R65). -/
def imageAt (sl : Slot) : Nat := (sl.loc + 2 ^ 57 - 32) % 2 ^ 57

/-- The image of a slot in the scratchpad can be written there. -/
def imageFits (s : State) (c : Nat) (sl : Slot) : Prop :=
  sl.kind = 1 ∧ imageAt sl + 32 ≤ 1048576 ∧ checkPresent (s.core c) (imageAt sl) 32 = .ok ()

/-- It is written. -/
def imagePut (s : State) (c : Nat) (sl : Slot) : State :=
  s.modCore c (·.spPut (imageAt sl) (toBytes 32 ((s.core c).slotImage sl).toNat))

end Sys2Proof.Claims

/-- R65, R174: HLD fills a slot, CLEAN, from an image in the scratchpad or in global memory; HSET fills it, DIRTY, from
registers with a fresh crc; HGET reads it; HST writes its image and leaves it CLEAN; HEV empties it, a DIRTY one
after its image is written. R28, R65, R70: an EMPTY slot, a wrong crc and a field that R70 marks Any raise their
faults. -/
def Obligations.HeaderUnits : Prop :=
  (∀ (gp : Option Guard) (x y : Src) (z : Dst) (k : BitVec 7) (h : BitVec 5),
     let o (s : State) (c : Nat) (ps : List Nat) : Nat := (s.src c (lead ps) x).toNat
     let sp (s : State) (c : Nat) (ps : List Nat) : List Byte := (s.core c).spRead (o s c ps) 32
     let put (s : State) (c : Nat) (sl : Slot) : State := s.modCore c (·.setSlot h.toNat sl)
     let drop (s : State) (c : Nat) : State := s.modCore c (·.emptySlot h.toNat)
     let regs (s : State) (c : Nat) (ps : List Nat) : List Byte := eightRegs s c (lead ps) k.toNat
     GivesAll (.hld gp x h true) noPre
       (fun s c ps => o s c ps % 32 = 0 ∧ o s c ps + 32 ≤ 1048576 ∧ checkPresent (s.core c) (o s c ps) 32 = .ok ()
         ∧ checkSpPoison (s.core c) (o s c ps) 32 = .ok () ∧ goodImage true (o s c ps) (sp s c ps))
       (fun s c ps => put s c (slotOf true (o s c ps) (sp s c ps)))
     ∧ (∀ (s : State) (c : Nat) (ps : List Nat),
         Joint (.hld gp x h false) noPre s c ps → o s c ps % 32 = 0 →
         ∀ (e : TlbEntry) (u : State), s.xlate c (lead ps) (s.regionAddr c (lead ps) (o s c ps)) .load = .ok (e, u) →
         (∀ t ∈ ps, ∀ th, s.thr? c t = some th → ∀ p ∈ th.pend,
           p.reads (e.pa (s.regionAddr c (lead ps) (o s c ps))) 32 = false) →
         u.partsOwed c ps (e.pa (s.regionAddr c (lead ps) (o s c ps))) 32 = false →
         ∀ (bs : List Byte) (v : State),
           u.loadNow c (e.pa (s.regionAddr c (lead ps) (o s c ps))) e.attr 32 true = .bytes bs false v →
         goodImage false (s.regionAddr c (lead ps) (o s c ps)) bs →
         exec (.hld gp x h false) s = .next (allRan (put (v.charge (v.core c).tenancy 0 32) c
           (slotOf false (s.regionAddr c (lead ps) (o s c ps)) bs)) c ps (.hld gp x h false)))
     ∧ GivesAll (.hset gp k y h) noPre
       (fun s c ps => (Hdr.of (imageOf (regs s c ps))).anyFault (s.src64 c (lead ps) y) = none)
       (fun s c ps => put s c { hdr := (Hdr.of (imageOf (regs s c ps))).image, bind := s.src64 c (lead ps) y, dirty := true })
     ∧ (∀ sl, Gives (.hget gp k z h) (slotPre h.toNat) (fun s c _ _ => (s.core c).slot h.toNat = some sl)
         (fun s c t _ => ((List.range 8).foldl (fun s' j => s'.setReg c t (k.toNat + j)
           (BitVec.ofNat 32 (((s.core c).slotImage sl).toNat / 2 ^ (32 * j)))) s).dst64 c t z sl.bind) noL)
     ∧ (∀ sl, GivesAll (.hst gp h) (hstPre h.toNat) (fun s c _ => (s.core c).slot h.toNat = some sl ∧ imageFits s c sl)
         (fun s c _ => put (imagePut s c sl) c { sl with dirty := false }))
     ∧ GivesAll (.hev gp h) noPre (fun s c _ => (s.core c).slot h.toNat = none) (fun s _ _ => s)
     ∧ (∀ sl, GivesAll (.hev gp h) noPre
         (fun s c _ => (s.core c).slot h.toNat = some sl ∧ (sl.dirty = false ∨ 2 ≤ sl.kind)) (fun s c _ => drop s c))
     ∧ (∀ sl, GivesAll (.hev gp h) noPre
         (fun s c _ => (s.core c).slot h.toNat = some sl ∧ sl.dirty = true ∧ imageFits s c sl)
         (fun s c _ => drop (imagePut s c sl) c)))
  ∧ (∀ (gp : Option Guard) (x y : Src) (z : Dst) (k : BitVec 7) (h : BitVec 5) (s : State) (c t : Nat) (th : Thread),
     let o := (s.src c t x).toNat
     let bs := (s.core c).spRead o 32
     let hd := Hdr.of (imageOf bs)
     let inSp : Prop := o % 32 = 0 ∧ o + 32 ≤ 1048576 ∧ checkPresent (s.core c) o 32 = .ok ()
       ∧ checkSpPoison (s.core c) o 32 = .ok ()
     ((s.core c).slot h.toNat = none →
       (Begun (.hst gp h) s c t th → exec (.hst gp h) s = .next (s.stopAt c t (fault1 3 [wd h.toNat])))
       ∧ (Begun (.hget gp k z h) s c t th → exec (.hget gp k z h) s = .next (s.stopAt c t (fault1 3 [wd h.toNat]))))
     ∧ (Solo (.hld gp x h true) noPre s c t th → inSp → hd.crc ≠ crc16 (bs.take 30) →
       exec (.hld gp x h true) s
         = .next (s.stopAt c t (fault1 6 [wd h.toNat, wd o, wd hd.crc, wd (crc16 (bs.take 30))])))
     ∧ (Solo (.hld gp x h true) noPre s c t th → inSp → hd.crc = crc16 (bs.take 30) →
       ∀ f : Nat × Nat, hd.anyFault (slotOf true o bs).bind = some f →
       exec (.hld gp x h true) s = .next (s.stopAt c t (fault1 7 [wd h.toNat, wd f.1, wd f.2])))
     ∧ (Solo (.hset gp k y h) noPre s c t th →
       ∀ f : Nat × Nat, (Hdr.of (imageOf (eightRegs s c t k.toNat))).anyFault (s.src64 c t y) = some f →
       exec (.hset gp k y h) s = .next (s.stopAt c t (fault1 7 [wd h.toNat, wd f.1, wd f.2]))))

/-! ### Matrix status, tile brackets, matrix operations (R173..R181) -/

/-- R180, R181: MXSTAT's words; TOPEN opens a bracket and TCLOSE closes it, making its record when no operation is
outstanding; a second TOPEN and a TCLOSE without a bracket raise the bracket fault. -/
def Obligations.BracketsAndMatrixStatus : Prop :=
  ∀ (gp : Option Guard) (z : Dst) (x y : Src),
    Gives (.mxstat gp z) noPre always
      (fun s c t th => s.dst64 c t z (pair (wd ((s.core c).mxStat (posPart t))) th.mxUnits)) noL
    ∧ (∀ (k : Core) (p : Nat),
        k.mxStat p % 2 = b2n k.activeBank.isReady ∧ k.mxStat p / 2 % 2 = b2n k.idleBank.isReady
        ∧ k.mxStat p / 4 % 64 = b2n k.active
        ∧ (k.activeBank.efmt < 256 → k.idleBank.efmt < 256 →
          k.mxStat p / 2 ^ 8 % 2 ^ 8 = k.activeBank.efmt ∧ k.mxStat p / 2 ^ 16 % 2 ^ 8 = k.idleBank.efmt
          ∧ k.mxStat p / 2 ^ 24 = min 255 (k.mxq.filter (·.part == p)).length))
    ∧ (∀ s c t th, Solo (.topen gp x y) noPre s c t th → (s.src c t x).toNat % 64 = 0 →
        (th.bracket = none → ∃ (u : State) (th' : Thread) (b : Bracket),
          exec (.topen gp x y) s = .next (ran u c t (.topen gp x y) (.val 0)) ∧ u.thr? c t = some th'
          ∧ th' = { th with bracket := some b } ∧ b.addr = regionVa th.region (s.src c t x) ∧ b.tag = s.src c t y
          ∧ b.topen = s.time.toNat ∧ b.pc = th.pc ∧ b.tid = t ∧ b.ops = [] ∧ u.mem = s.mem)
        ∧ (th.bracket.isSome = true →
          exec (.topen gp x y) s = .next (s.stopAt c t (fault1 27 [1, s.src c t x]))))
    ∧ Stops (.tclose gp) noPre (fun _ _ _ th => th.bracket = none) (fun _ _ _ _ => fault1 27 [2, 0])
    ∧ (∀ s c t th b, Solo (.tclose gp) noPre s c t th → th.bracket = some b →
        ∃ u : State, exec (.tclose gp) s = .next (ran u c t (.tclose gp) (.val 0))
          ∧ u.thr? c t = some { th with bracket := none } ∧ u.mem = s.mem
          ∧ (b.ops = [] → ∃ r : TileRec, u.tileRecs = s.tileRecs ++ [r] ∧ r.va = b.addr ∧ r.core = c
            ∧ r.ten = (s.core c).tenancy ∧ r.held = none ∧ r.bytes.take 8 = toBytes 8 b.topen)
          ∧ (b.ops ≠ [] → u.tileRecs = s.tileRecs ∧ (u.core c).closing = (s.core c).closing ++ [b]))

namespace Sys2Proof.Claims

/-- The matrix units with the kind of their operation, their slots with their roles, and their first register
(R175..R179). -/
def matrixUnits (gp : Option Guard) (m : Option Mode) (x : BitVec 7) (y h : BitVec 5) : List (Instr × MxUse) :=
  [(.wld gp h, { kind := .wld, mode := none, src := some (h.toNat, .w), dst := none, reg := none }),
   (.wsw gp, { kind := .wsw, mode := none, src := none, dst := none, reg := none }),
   (.mma gp m y h, { kind := .mma, mode := m, src := some (h.toNat, .a false), dst := some (y.toNat, .cist), reg := none }),
   (.mmaReg gp m x y h,
     { kind := .mma, mode := m, src := some (h.toNat, .a true), dst := some (y.toNat, .cist), reg := some x.toNat }),
   (.mmaz gp m y h, { kind := .mmaz, mode := m, src := some (h.toNat, .a false), dst := some (y.toNat, .cist), reg := none }),
   (.mmazReg gp m x y h,
     { kind := .mmaz, mode := m, src := some (h.toNat, .a true), dst := some (y.toNat, .cist), reg := some x.toNat }),
   (.accz gp h, { kind := .accz, mode := none, src := some (h.toNat, .cist), dst := none, reg := none }),
   (.accst gp m y h, { kind := .accst, mode := m, src := some (h.toNat, .cist), dst := some (y.toNat, .st false), reg := none }),
   (.accstReg gp m x y h,
     { kind := .accst, mode := m, src := some (h.toNat, .cist), dst := some (y.toNat, .st true), reg := some x.toNat }),
   (.accld gp y h, { kind := .accld, mode := none, src := some (h.toNat, .ld false), dst := some (y.toNat, .cist), reg := none }),
   (.accldReg gp x y h,
     { kind := .accld, mode := none, src := some (h.toNat, .ld true), dst := some (y.toNat, .cist), reg := some x.toNat }),
   (.qnt gp m y h, { kind := .qnt, mode := m, src := some (h.toNat, .cist), dst := some (y.toNat, .qnt), reg := none })]

end Sys2Proof.Claims

/-- R172, R173, R175..R179: a matrix unit whose slots and headers its conditions accept enters the core's queue, behind
what is there, once for the whole spray, with the headers as they stand; the banks, the accumulators, the scratchpad and
memory are as before, and every participant's class counter has risen by 1. -/
def Obligations.MatrixUnitsIssue : Prop :=
  ∀ (gp : Option Guard) (m : Option Mode) (x : BitVec 7) (y h : BitVec 5) (i : Instr) (u : MxUse) (s : State) (c : Nat)
    (ps : List Nat), (i, u) ∈ matrixUnits gp m x y h → Joint i (mxPre u i) s c ps →
      ∃ (v : State) (op : MxOp), exec i s = .next (allRan v c ps i) ∧ (v.core c).mxq = (s.core c).mxq ++ [op]
        ∧ op.kind = u.kind ∧ op.mode = u.mode ∧ op.part = s.cur.part ∧ op.reg = u.reg
        ∧ op.src = (u.src.bind fun e => (s.core c).slot e.1) ∧ op.dst = (u.dst.bind fun e => (s.core c).slot e.1)
        ∧ op.tids = ps ∧ op.fetched = false ∧ op.running = false ∧ op.err = none
        ∧ (v.core c).bank0 = (s.core c).bank0 ∧ (v.core c).bank1 = (s.core c).bank1
        ∧ (v.core c).active = (s.core c).active ∧ (v.core c).cistern = (s.core c).cistern
        ∧ (v.core c).sp = (s.core c).sp ∧ v.mem = s.mem
        ∧ (ps.Nodup → ∀ t ∈ ps, ∀ th, s.thr? c t = some th →
          ∃ th', v.thr? c t = some th' ∧ th'.ocMx = th.ocMx + 1 ∧ th'.win.wbase = th.win.wbase ∧ th'.pc = th.pc)

/-! ### Copies and gauges (R182..R189, R231..R238) -/

namespace Sys2Proof.Claims

/-- Whether n bytes at an address of a request run past the scratchpad or the address space, or a slot number has other bits
set (R182). -/
def pastEnd (a n : Nat) (sp slot : Bool) : Prop := if slot then 32 ≤ a else (if sp then 1048576 else 2 ^ 57) < a + max 1 n

/-- What makes a request wrong, by the causes of the copy-request fault (R182, R183, R185, R203): for a copy, or for a gather of
so many rows. -/
def wrong (k : Core) (r : Req) (rows : Option Nat) : Nat → Prop
  | 1 => bits r.ctl 15 6 ≠ 0 ∨ (r.goff ≠ 0 ∧ r.ga = false) ∨ (r.aux0 ≠ 0 ∧ r.st = false ∧ rows = none)
      ∨ (r.aux1 ≠ 0 ∧ (rows = none ∨ r.handle = true))
  | 2 => (r.handle = true ∧ r.len ≠ 0) ∨ (r.handle = false ∧ (r.len = 0 ∨ (if rows = none then 0x100000 else 65536) < r.len))
      ∨ ∃ n ∈ rows, n = 0 ∨ 65535 < n
  | 3 => pastEnd r.src (if rows = none then r.len else 0) r.ss r.sh ∨ pastEnd r.dst (rows.getD 1 * r.len) r.ds r.dh
      ∨ (r.ga = true ∧ (1048576 < r.goff + 16 ∨ (k.lineAttr (r.goff / 128)).own = true))
      ∨ (r.st = true ∧ rows = none
        ∧ (r.aux0 % 8 ≠ 0 ∨ 1048576 < r.aux0 + 8 ∨ (k.lineAttr (r.aux0 / 128)).own = false))
  | 4 => (r.ss = true ∧ r.sh = true) ∨ (r.ds = true ∧ r.dh = true) ∨ r.sh ≠ r.dh
  | 5 => r.st = true ∧ (rows ≠ none ∨ r.handle = true)
  | 6 => ∃ n ∈ rows, r.aux0 % 4 ≠ 0 ∨ 1048576 < r.aux0 + 4 * n
  | _ => False

/-- A copy cp0 has been issued: it stands last among the core's copies, tagged with its gauge's phase; its destination
lines in the scratchpad are absent; no byte of the scratchpad or of memory has changed. -/
def copyIssued (s v : State) (c : Nat) (th : Thread) (r : Req) (cp0 : Copy) : Prop :=
  (v.core c).copies = (s.core c).copies ++ [{ cp0 with
      id := (s.core c).nextOp + 1, uid := th.uid, pc := th.pc, inst := s.cur.word, lines := cp0.allLines
      gauge := if r.ga then some (r.goff, ((s.core c).gauge r.goff).phase) else none }]
  ∧ (v.core c).sp = (s.core c).sp ∧ v.mem = s.mem
  ∧ (∀ l, (cp0.dstSp = true → l ∈ cp0.allLines → ((v.core c).lineAttr l).pres = false)
    ∧ (cp0.dstSp = false ∨ l ∉ cp0.allLines → (v.core c).lineAttr l = (s.core c).lineAttr l))

end Sys2Proof.Claims

/-- R173, R183, R184, R185, R203, R233, R236: CPY and CPYG read their request; a request that is wrong for one cause raises the
copy-request fault with that cause, one that is right is issued, by address or by handle; one into lines that have 15 copies
in flight waits, and so does one while the spout holds 64 copies. A gather whose index reaches past the source's rows is
issued with its error. That a slot number with other bits set has cause 3 is the model's choice (notes/assumptions/67). -/
def Obligations.CopyUnits : Prop :=
  ∀ (gp : Option Guard) (x y : Src) (s : State) (c t : Nat) (th : Thread),
    let q := (s.src c t x).toNat
    let n := (s.src c t y).toNat
    let waits (x : Copy) : Prop := 64 ≤ (s.core c).copies.length ∨ (x.dstSp && (s.core c).lineFull x.allLines) = true
    let right (r : Req) (rows : Option Nat) : Prop := ∀ k, ¬ wrong (s.core c) r rows k
    let onlyFor (r : Req) (rows : Option Nat) (k : Nat) : Prop := wrong (s.core c) r rows k ∧ ∀ j, j ≠ k →
      ¬ wrong (s.core c) r rows j
    ∀ r : Req, readReq s c q = .ok r →
      (r.handle = false → ∀ rows, handleFault (s.core c) r rows = .ok (none, none))
      ∧ (Solo (.cpy gp x) noPre s c t th → ∀ a b, handleFault (s.core c) r none = .ok (a, b) →
        (∀ k, onlyFor r none k → exec (.cpy gp x) s = .next (s.stopAt c t (fault1 23 [wd q, wd k])))
        ∧ (right r none → waits (r.copy q a b none) → exec (.cpy gp x) s = .next s)
        ∧ (right r none → ¬ waits (r.copy q a b none) →
          ∃ (v : State) (th' : Thread), exec (.cpy gp x) s = .next (ran v c t (.cpy gp x) (.val 0))
            ∧ copyIssued s v c th r (r.copy q a b none) ∧ v.thr? c t = some th' ∧ th'.ocCp = th.ocCp + 1
            ∧ th'.win = th.win))
      ∧ (Solo (.cpyg gp x y) noPre s c t th → ∀ a b, handleFault (s.core c) r (some n) = .ok (a, b) →
        let rows := (List.range n).map fun j => fieldAt ((s.core c).spRead r.aux0 (4 * n)) (4 * j) 4
        let cg := { r.copy q a b (some rows) with
          err := (a.bind fun v => rows.findIdx? fun i => decide (v.h.rows ≤ i)).map fun j =>
            { kind := 23, arg := wd q, more := [3, wd j] } }
        (∀ k, onlyFor r (some n) k → exec (.cpyg gp x y) s = .next (s.stopAt c t (fault1 23 [wd q, wd k])))
        ∧ (right r (some n) → checkPresent (s.core c) r.aux0 (4 * n) = .ok () →
          checkSpPoison (s.core c) r.aux0 (4 * n) = .ok () →
          (waits cg → exec (.cpyg gp x y) s = .next s)
          ∧ (¬ waits cg →
            ∃ (v : State) (th' : Thread), exec (.cpyg gp x y) s = .next (ran v c t (.cpyg gp x y) (.val 0))
              ∧ copyIssued s v c th r cg ∧ v.thr? c t = some th' ∧ th'.ocGa = th.ocGa + 1 ∧ th'.win = th.win)))

/-- R187, R189: GARM, GADD and GTST on a gauge; PRCLR, PRCLR.OWN and PRCLR.REL on whole lines; PRCLR of part of a line
raises the misaligned-access fault. -/
def Obligations.GaugesAndPresence : Prop :=
  ∀ (gp : Option Guard) (x y : Src) (z : Dst),
    let o (s : State) (c t : Nat) : Nat := (s.src c t x).toNat
    let n (s : State) (c t : Nat) : Nat := (s.src c t y).toNat
    let ok (o : Nat) (s : State) (c : Nat) : Prop := o % 16 = 0 ∧ o + 16 ≤ 1048576 ∧ checkOwned (s.core c) o 16 = .ok ()
      ∧ checkPresent (s.core c) o 16 = .ok () ∧ checkSpPoison (s.core c) o 16 = .ok ()
    let put (s : State) (c o : Nat) (bs : List Byte) : State := (s.modCore c (·.spStore o bs)).evalGauge c o
    let lines (s : State) (c t : Nat) : Prop :=
      o s c t % 128 = 0 ∧ n s c t % 128 = 0 ∧ 128 ≤ n s c t ∧ n s c t ≤ 0x100000 ∧ o s c t + n s c t ≤ 1048576
    let sets (f : LineAttr → LineAttr) (s : State) (c t : Nat) (v : State) : Prop :=
      ∀ l, (o s c t / 128 ≤ l → l < (o s c t + n s c t) / 128 →
          (v.core c).lineAttr l = f ((s.core c).lineAttr l))
        ∧ (l < o s c t / 128 ∨ (o s c t + n s c t) / 128 ≤ l → (v.core c).lineAttr l = (s.core c).lineAttr l)
    Gives (.garm gp x y) noPre (fun s c t _ => ok (o s c t) s c)
      (fun s c t _ => put s c (o s c t) (toBytes 4 (s.src c t y).toNat ++ toBytes 4 0
        ++ toBytes 4 (((s.core c).gauge (o s c t)).phase + 1).toNat ++ toBytes 2 (t % 65536) ++ [0])) noL
    ∧ Gives (.gadd gp x y) noPre (fun s c t _ => ok (o s c t) s c)
      (fun s c t _ =>
        let g := (s.core c).gauge (o s c t)
        put s c (o s c t) ({ g with
          expected := g.expected + s.src c t y
          marks := if (g.expected + s.src c t y).toNat < g.arrived.toNat then g.marks ||| 1#8 else g.marks } : Gauge).bytes)
      noL
    ∧ Gives (.gtst gp z x) noPre (fun s c t _ => ok (o s c t) s c)
      (fun s c t _ =>
        let g := (s.core c).gauge (o s c t)
        s.dst c t z (g.phase.setWidth 16 ++ 0#13 ++ g.marks.extractLsb' 1 1 ++ g.marks.extractLsb' 0 1
          ++ if g.expected.toNat ≤ g.arrived.toNat then 1#1 else 0#1)) noL
    ∧ Stops (.prclr gp x y) noPre (fun s c t _ => o s c t % 128 ≠ 0 ∨ n s c t % 128 ≠ 0)
      (fun s c t _ => fault1 10 [wd (o s c t), 128])
    ∧ (∀ s c t th, lines s c t →
        (Solo (.prclr gp x y) noPre s c t th → ∃ v : State, exec (.prclr gp x y) s = .next (ran v c t (.prclr gp x y) (.val 0))
          ∧ v.thr? c t = some th ∧ (v.core c).sp = (s.core c).sp ∧ sets (fun q => { q with pres := false }) s c t v)
        ∧ (Solo (.prclrOwn gp x y) noPre s c t th → ∃ v : State,
          exec (.prclrOwn gp x y) s = .next (ran v c t (.prclrOwn gp x y) (.val 0))
          ∧ v.thr? c t = some th ∧ (v.core c).sp = (s.core c).sp ∧ sets (fun q => { q with own := true }) s c t v)
        ∧ (Solo (.prclrRel gp x y) noPre s c t th → ∃ v : State,
          exec (.prclrRel gp x y) s = .next (ran v c t (.prclrRel gp x y) (.val 0))
          ∧ (v.core c).sp = (s.core c).sp ∧ sets (fun q => { q with pres := true, own := false }) s c t v))

/-! ### Threads (R190..R195) -/

/-- R190, R209, R220: SPAWN answers how many threads it placed; a misaligned entry raises the entry fault; a thread that
is placed stands in its bin with its entry, its item and the node's trap entry, and a full bin's threads become
READY. R120, R193, R194, R203: EXIT, YIELD, YIELD.REG and TSTW. -/
def Obligations.ThreadUnits : Prop :=
  (∀ (gp : Option Guard) (d : Dst) (a : Src) (n : BitVec 5) (tm : BitVec 2),
     Stops (.spawn gp d a n tm) noPre (fun s c t _ => ((s.src64 c t a).setWidth 32).toNat % 4 ≠ 0)
       (fun s c t _ => fault1 25 [(s.src64 c t a).setWidth 32])
     ∧ (∀ (s u : State) (c t : Nat) (th : Thread) (b : Budget), Solo (.spawn gp d a n tm) noPre s c t th →
         let e : Word := (s.src64 c t a).setWidth 32
         e.toNat % 4 = 0 → s.budgetWord c th.region e = .ok (b, u) → b ≠ .wait →
         let alloc := match b with | .some m => m | _ => u.prologueAlloc c
         let r := u.binPlaceMany c (posPart t) (th.region ++ e) alloc ((s.src64 c t a >>> 32).setWidth 32)
           (64 * 4 ^ tm.toNat) (n.toNat + 1)
         r.1 ≤ n.toNat + 1
           ∧ exec (.spawn gp d a n tm) s = .next (ran (r.2.dst c t d (wd r.1)) c t (.spawn gp d a n tm) (.val 0)))
     ∧ (∀ (s : State) (c p alloc timer l k : Nat) (entry : BitVec 57) (item : Word) (b : Bin), p < 4 →
         (s.part c p).binFor entry alloc (s.cycle + timer) = some (k, b) → (s.core c).binLane p b = some l →
         ∃ (u : State) (pos : Nat) (th : Thread), s.binPlace c p entry alloc item timer = some u ∧ posPart pos = p
           ∧ posLane pos = l ∧ s.thr? c pos = none ∧ u.thr? c pos = some th ∧ th.pc = entry.setWidth 32
           ∧ th.region = entry.extractLsb' 32 25 ∧ th.item0 = item ∧ th.handler = false ∧ th.evec = s.trapEntry c
           ∧ th.age = s.cycle ∧ th.win.alloc = b.alloc
           ∧ (b.tids.length + 1 ≠ 32 → th.st = .bin) ∧ (b.tids.length + 1 = 32 → th.st = .ready) ∧ u.mem = s.mem))
  ∧ (∀ (gp : Option Guard) (x : BitVec 7) (y : Src) (sz : StSz) (sp : Bool),
     let m (s : State) (c t : Nat) : Nat := (s.src c t y).toNat
     let legal (n : Nat) : Prop := 8 ≤ n ∧ n ≤ 256 ∧ n % 8 = 0
     let base (s : State) (c t : Nat) : Word := (s.src64 c t y).setWidth 32
     let stride (s : State) (c t : Nat) : Word := (s.src64 c t y >>> 32).setWidth 32
     (∀ s c t th, Solo (.exit gp) noPre s c t th →
       exec (.exit gp) s = .next (s.endThread c t 0) ∧ (s.endThread c t 0).thr? c t = none
       ∧ ((s.endThread c t 0).core c).ended.head? = some (t, 0) ∧ (s.endThread c t 0).mem = s.mem)
     ∧ Gives (.yield gp) noPre always
       (fun s c t th =>
         let us := ((s.core c).threads.filter fun (e : Nat × Thread) =>
            posPart e.1 == posPart t && e.1 != t && e.2.st == .ready).map (·.2.uid)
         s.setThr c t { th with yround := if us = [] then none else some us }) noL
     ∧ Stops (.yieldReg gp y) noPre (fun s c t _ => ¬ legal (m s c t)) (fun s c t _ => fault1 19 [s.src c t y])
     ∧ Gives (.yieldReg gp y) noPre (fun s c t th => legal (m s c t) ∧ m s c t ≤ th.win.alloc) (fun s _ _ _ => s) noL
     ∧ Gives (.yieldReg gp y) noPre
       (fun s c t th => legal (m s c t) ∧ th.win.alloc < m s c t ∧ s.canGrow c t (m s c t - th.win.alloc) th = true)
       (fun s c t _ => s.growTo c t (m s c t)) noL
     ∧ Stops (.yieldReg gp y) noPre
       (fun s c t th => legal (m s c t) ∧ th.win.alloc < m s c t ∧ s.canGrow c t (m s c t - th.win.alloc) th = false)
       (fun s c t th => .grant (m s c t - th.win.alloc) (some (m s c t)) [])
     ∧ Gives (.tstw gp x y sz sp) noPre
       (fun s c t th => (base s c t).toNat % stBytes sz = 0 ∧ (stride s c t).toNat % stBytes sz = 0 ∧ th.stores.length < 8)
       (fun s c t th => s.setThr c t
         { th with stores := th.stores ++ [{ v := x.toNat, base := base s c t, stride := stride s c t, sz, sp }] }) noL
     ∧ Stops (.tstw gp x y sz sp) noPre
       (fun s c t th => (base s c t).toNat % stBytes sz = 0 ∧ (stride s c t).toNat % stBytes sz = 0 ∧ 8 ≤ th.stores.length)
       (fun _ _ _ _ => fault1 24 [6]))

/-- R191, R192, R203, R222: the FREEZE of a launch prologue puts template 0 into the four partitions, with the core's share
of the items, and ends the prologue; a nested FREEZE leaves its thread sharing the new template; STAMP sets the count and
the start of the template that its thread holds, and ends the thread; the template faults. -/
def Obligations.FreezeAndStamp : Prop :=
  ∀ (gp : Option Guard) (x : Src) (s : State) (c t : Nat) (th : Thread) (nd : Node),
    let open' (k : Core) : Prop := ∀ e ∈ freezeNeeds t th, k.laneOpen t th e.1 e.2 = true
    (Solo (.freeze gp) noPre s c t th → s.nodeOf c = some nd →
      (∀ e, freezeFault s c th = .error e → exec (.freeze gp) s = .next (s.stopAt c t e))
      ∧ (freezeFault s c th = .ok () → th.freezeLevel = 0 → open' (s.core c) →
        ∃ u : State, exec (.freeze gp) s = .next u ∧ u.thr? c t = none ∧ ((u.core c).ended.head? = some (t, 0))
          ∧ (∀ p < 4, ∃ w, tget? (u.part c p).tmpls 0 = some w ∧ w.level = 0 ∧ w.holder = none ∧ w.next = 0
            ∧ w.total = (nd.count.toNat + nd.gang - 1 - (s.core c).index) / nd.gang
            ∧ w.first = nd.first + BitVec.ofNat 32 (s.core c).index ∧ w.stride = nd.gang
            ∧ w.start = s.nextPc th ∧ w.region = th.region ∧ w.stores = th.stores ∧ w.win = th.win))
      ∧ (freezeFault s c th = .ok () → th.freezeLevel ≠ 0 → open' (s.core c) →
        ∀ n, (s.part c (posPart t)).freeTmpl = some n →
        ∃ (u : State) (th' : Thread) (w : Template), exec (.freeze gp) s = .next (ran u c t (.freeze gp) (.val 0))
          ∧ u.thr? c t = some th' ∧ th'.held = some n ∧ th'.win.base = .ref n ∧ th'.win.ents = []
          ∧ th'.win.alloc = th.win.alloc ∧ th'.stores = [] ∧ tget? (u.part c (posPart t)).tmpls n = some w
          ∧ w.level = th.freezeLevel ∧ w.holder = some th.uid ∧ w.total = 0 ∧ w.win = th.win ∧ w.stores = th.stores))
    ∧ (Solo (.stamp gp x) noPre s c t th →
      (th.held = none → exec (.stamp gp x) s = .next (s.stopAt c t (fault1 24 [4])))
      ∧ (∀ n, th.held = some n → ((s.src c t x).toNat = 0 ∨ 65536 < (s.src c t x).toNat) →
        exec (.stamp gp x) s = .next (s.stopAt c t (fault1 24 [5])))
      ∧ (∀ n, th.held = some n → 0 < (s.src c t x).toNat → (s.src c t x).toNat ≤ 65536 →
        ∀ w, tget? (s.part c (posPart t)).tmpls n = some w →
        ∃ u : State, exec (.stamp gp x) s = .next u ∧ u.thr? c t = none ∧ (u.core c).ended.head? = some (t, 0)
          ∧ tget? (u.part c (posPart t)).tmpls n
            = some { w with holder := none, total := (s.src c t x).toNat, start := s.nextPc th }))
    ∧ (freezeFault s c th = .error (fault1 24 [1]) ∨ freezeFault s c th = .error (fault1 24 [2])
      ∨ freezeFault s c th = .error (fault1 24 [3]) ∨ freezeFault s c th = .ok ())
    ∧ (th.freezeLevel = 3 → freezeFault s c th = .error (fault1 24 [1]))
    ∧ (th.freezeLevel < nd.tmpl → s.nodeOf c = some nd → (th.freezeLevel = 0 → nd.flag 2 = false) →
      th.freezeLevel ≠ 3 →
      (th.held.isSome = true → freezeFault s c th = .error (fault1 24 [2]))
      ∧ (th.held = none → th.freezeLevel ≠ 0 → th.busy = true → freezeFault s c th = .error (fault1 24 [3]))
      ∧ (th.held = none → th.freezeLevel ≠ 0 → th.busy = false → freezeFault s c th = .ok ()))

/-! ### Operations across lanes (R172, R195..R197) -/

namespace Sys2Proof.Claims

/-- The members in ascending lane order, one to a lane (R172, R212). -/
def byLane (ps : List Nat) : Prop := ps.Pairwise fun a b => posLane a < posLane b

/-- Each participant's destination takes its result. -/
def eachDst (s : State) (c : Nat) (d : Dst) (ps : List Nat) (f : Nat → Word) : State :=
  ps.foldl (fun u t => u.dst c t d (f t)) s

/-- The lane a SHFL reads from (R197). -/
def fromLane (k : ShflKind) (l n : Nat) : Option Nat :=
  match k with
  | .idx => some n
  | .up => if l < n then none else some (l - n)
  | .down => some (l + n)
  | .xor => some (l.xor n)

/-- A REDX reduction in ascending lane order (R197). -/
def redSpec (o : RedOp) (l : List Word) : Word :=
  let f32 (x : Word) : Ex := val fp32 none x.toNat
  match o with
  | .fadd => l.foldl (fun x y => out32 none ((f32 x).add 0 (f32 y))) 0
  | .add => l.tail.foldl (· + ·) (l.headD 0)
  | .and => l.tail.foldl (· &&& ·) (l.headD 0)
  | .or => l.tail.foldl (· ||| ·) (l.headD 0)
  | .xor => l.tail.foldl (· ^^^ ·) (l.headD 0)
  | .min => l.tail.foldl (fun x y => if x.toInt ≤ y.toInt then x else y) (l.headD 0)
  | .max => l.tail.foldl (fun x y => if x.toInt ≤ y.toInt then y else x) (l.headD 0)

end Sys2Proof.Claims

/-- R172, R196, R197: MERGE has no effect of its own; ELECT answers 1 in the lowest participating lane; BALLOT's bits
name the lanes whose operand is not 0; SHFL reads the operand of another participating lane, its own where that lane
does not take part; REDX reduces the operands in ascending lane order. R195, R229: MIGR answers 1 when a participant
is busy or has a bracket open, 2 when the target is no core of the node, 3 when it has no room; otherwise the
participants go with one message, and stand in positions reserved on the target, in the lanes they had, and in their own
until the message arrives. R259: the core's lines that are not local are dropped first. -/
def Obligations.CrossLaneUnits : Prop :=
  (∀ (gp : Option Guard) (d : Dst) (a : Src) (n : BitVec 5) (k : ShflKind) (o : RedOp) (e : Src),
     let sorted : State → Nat → List Nat → Prop := fun _ _ ps => byLane ps
     let moved (s : State) (c : Nat) (ps : List Nat) (n : Nat → Nat) (t : Nat) : Word :=
       match fromLane k (posLane t) (n t) with
       | some l => match ps.find? fun u => posLane u == l with | some u => s.src c u a | none => s.src c t a
       | none => s.src c t a
     GivesAll (.merge gp) noPre (fun _ _ _ => True) (fun s _ _ => s)
     ∧ GivesAll (.elect gp d) noPre sorted
       (fun s c ps => eachDst s c d ps fun t => if ∀ u ∈ ps, posLane t ≤ posLane u then 1 else 0)
     ∧ GivesAll (.redx gp d a o) noPre sorted
       (fun s c ps => eachDst s c d ps fun _ => redSpec o (ps.map fun t => s.src c t a))
     ∧ GivesAll (.shfl none gp d a n k) noPre sorted
       (fun s c ps => eachDst s c d ps (moved s c ps fun _ => n.toNat))
     ∧ GivesAll (.shfl (some e) gp d a n k) noPre sorted
       (fun s c ps => eachDst s c d ps (moved s c ps fun t => (s.src c t e).toNat % 32))
     ∧ ∀ s c ps, Joint (.ballot gp d a) noPre s c ps → byLane ps →
       ∃ v : Word, exec (.ballot gp d a) s = .next (allRan (eachDst s c d ps fun _ => v) c ps (.ballot gp d a))
         ∧ ∀ j < 32, v.getLsbD j = true ↔ ∃ t ∈ ps, posLane t = j ∧ s.src c t a ≠ 0)
  ∧ (∀ (gp : Option Guard) (d : Dst) (a : Src) (s : State) (c : Nat) (ps : List Nat) (nd : Node),
     Joint (.migr gp d a) noPre s c ps → s.nodeOf c = some nd →
     (∀ t ∈ ps, ∀ th, s.thr? c t = some th → th.held = none) →
       let dst := (s.src c (lead ps) a).toNat
       let ths := ps.filterMap fun t => (s.thr? c t).map fun th => (t, th)
       let busy := ths.any fun e => e.2.busy || e.2.bracket.isSome
       let answers (n : Word) : Prop :=
         exec (.migr gp d a) s = .next (allRan (eachDst (dropped s c) c d ps fun _ => n) c ps (.migr gp d a))
       (busy = true → answers 1)
       ∧ (busy = false → dst ∉ nd.cores → answers 2)
       ∧ (busy = false → dst ∈ nd.cores → ((s.core dst).draining = true ∨ (s.core dst).migrPart ths = none) → answers 3)
       ∧ (∀ p t th, busy = false → dst ∈ nd.cores → (s.core dst).draining = false → (s.core dst).migrPart ths = some p →
         ps = [t] → s.thr? c t = some th → dst ≠ c → s.trafficHeld (s.core c).tenancy .migr = false →
         ∃ (u : State) (pos : Nat) (th' : Thread), exec (.migr gp d a) s = .next u
           ∧ u.msgs = s.msgs ++ [.migr c dst d [t] [pos]] ∧ u.thr? c t = some { th with st := .bin } ∧ posPart pos = p
             ∧ posLane pos = posLane t
           ∧ (s.core dst).thr? pos = none ∧ u.thr? dst pos = some th' ∧ th'.st = .bin ∧ th'.pc = s.nextPc th
           ∧ th'.item0 = th.item0 ∧ th'.item1 = th.item1 ∧ th'.item2 = th.item2 ∧ th'.evec = th.evec
           ∧ th'.win.alloc = th.win.alloc ∧ th'.lats = [] ∧ u.mem = s.mem))

/-! ### Rings, NEXT, fabric writes, pushes (R198..R203) -/

/-- R198, R199, R203, R322: SEND needs credits, and answers 0 without them; RACK moves the head and returns credits; RARM
sets the mark and arms, and fires at once when the tail has reached the mark, its core observing what its die has (the model's
reading, notes/assumptions/51); the network faults. -/
def Obligations.RingUnits : Prop :=
  ∀ (gp : Option Guard) (d : Dst) (x y : Src) (tc : BitVec 2) (s : State) (c t : Nat) (th : Thread),
    let v := s.src64 c t y
    let o : Nat := (v.setWidth 32).toNat
    let len : Nat := (v.extractLsb' 32 16).toNat
    let h : Nat := (v.extractLsb' 48 16).toNat
    let cb := (s.src c t x).toNat
    let n := s.src c t y
    let k := s.core c
    (Solo (.send gp d y tc) noPre s c t th → s.replayable c = false →
      (1048576 < o + len → exec (.send gp d y tc) s = .next (s.stopAt c t (fault1 11 [wd o, wd len])))
      ∧ (o + len ≤ 1048576 → (o % 16 ≠ 0 ∨ len % 16 ≠ 0 ∨ len < 16 ∨ 4096 < len) →
        exec (.send gp d y tc) s = .next (s.stopAt c t (fault1 26 [2, wd o])))
      ∧ (o + len ≤ 1048576 → o % 16 = 0 → len % 16 = 0 → 16 ≤ len → len ≤ 4096 →
        (tget? k.credits h = none → exec (.send gp d y tc) s = .next (s.stopAt c t (fault1 26 [1, wd h])))
        ∧ (∀ cr, tget? k.credits h = some cr →
          (cr < len → exec (.send gp d y tc) s = .next (ran (s.dst c t d 0) c t (.send gp d y tc) (.val 0)))
          ∧ (len ≤ cr → ∃ (u : State) (th' : Thread) (q : Coll),
            exec (.send gp d y tc) s = .next (ran (u.dst c t d (wd len)) c t (.send gp d y tc) (.val 0))
            ∧ tget? (u.core c).credits h = some (cr - len) ∧ (u.core c).colls = k.colls ++ [q]
            ∧ q.op = .send o len h tc.toNat [] ∧ q.uid = th.uid ∧ q.done = false ∧ u.thr? c t = some th'
            ∧ th'.ocCo = th.ocCo + 1 ∧ th'.win = th.win ∧ (u.core c).sp = k.sp ∧ u.mem = s.mem))))
    ∧ (Solo (.rack gp x y) noPre s c t th → Memory.wf k.sp = true → cb % 32 = 0 →
      (k.ringAt cb = none → exec (.rack gp x y) s = .next (s.stopAt c t (fault1 26 [1, wd cb])))
      ∧ (∀ r, k.ringAt cb = some r →
        (n.toNat % 16 ≠ 0 ∨ (k.ringField cb 12 - k.ringField cb 8).toNat < n.toNat →
          exec (.rack gp x y) s = .next (s.stopAt c t (fault1 26 [3, wd cb])))
        ∧ (n.toNat % 16 = 0 → n.toNat ≤ (k.ringField cb 12 - k.ringField cb 8).toNat →
          ∃ u : State, exec (.rack gp x y) s = .next (ran u c t (.rack gp x y) (.val 0)) ∧ u.thr? c t = some th
            ∧ (u.core c).spRead (cb + 8) 4 = toBytes 4 (k.ringField cb 8 + n).toNat
            ∧ u.msgs = s.msgs ++ [.credit (s.gangCore c r.sender) r.handle n.toNat] ∧ u.mem = s.mem)))
    ∧ (Solo (.rarm gp x y) noPre s c t th → Memory.wf k.sp = true → cb % 32 = 0 →
      (k.ringAt cb = none → exec (.rarm gp x y) s = .next (s.stopAt c t (fault1 26 [1, wd cb])))
      ∧ (∀ r, k.ringAt cb = some r →
        (o % 4 ≠ 0 → exec (.rarm gp x y) s = .next (s.stopAt c t (fault1 25 [v.setWidth 32])))
        ∧ (o % 4 = 0 → pastMark (k.ringField cb 12) ((v >>> 32).setWidth 32) = false →
          ∃ (u : State) (r' : Ring), exec (.rarm gp x y) s = .next (ran u c t (.rarm gp x y) (.val 0)) ∧ u.thr? c t = some th
            ∧ (u.core c).spRead (cb + 16) 4 = toBytes 4 ((v >>> 32).setWidth 32 : Word).toNat
            ∧ cellGet (u.core c).sp (cb + 22) = cellGet k.sp (cb + 22) ||| 1#8
            ∧ (u.core c).ringAt cb = some r' ∧ r' = { r with armEntry := th.region ++ (v.setWidth 32 : Word) }
            ∧ u.mem = s.mem)
        ∧ (o % 4 = 0 → pastMark (k.ringField cb 12) ((v >>> 32).setWidth 32) = true →
          let w := s.modCore c fun q =>
            { (q.spPut (cb + 16) (toBytes 4 ((v >>> 32).setWidth 32 : Word).toNat)).spPut (cb + 22)
                [cellGet q.sp (cb + 22) &&& 0xFE#8] with
              rings := q.rings.map fun z =>
                if z.cb = cb ∧ z.receiver = q.index then { r with armEntry := th.region ++ (v.setWidth 32 : Word) } else z }
          exec (.rarm gp x y) s = .next (ran ((w.observe c).placeItem c
            { entry := th.region ++ (v.setWidth 32 : Word), item := k.ringField cb 12, part := 0 }) c t (.rarm gp x y) (.val 0)))))

/-- R201, R202, R203, R233: NEXT on a dispenser and FABW issue a collective operation; what refuses them raises its fault; a
NEXT into a line with 15 operations in flight waits. -/
def Obligations.NextAndFabricWrites : Prop :=
  ∀ (gp : Option Guard) (x y : Src) (tc : BitVec 2) (s : State) (c t : Nat) (th : Thread) (e : TlbEntry),
    let ea := (s.src c t x).toNat
    let va := regionVa th.region (s.src c t x)
    let o : Nat := ((s.src64 c t y).setWidth 32).toNat
    let ob := cellsRead s.mem (e.pa va) 256
    let issued (i : Instr) (op : CoOp) (gauge : Option (Nat × Word)) : Prop :=
      ∃ (u : State) (th' : Thread) (q : Coll), exec i s = .next (ran u c t i (.val 0))
        ∧ (u.core c).colls = (s.core c).colls ++ [q] ∧ q.op = op ∧ q.gauge = gauge ∧ q.uid = th.uid ∧ q.done = false
        ∧ q.err = none ∧ u.thr? c t = some th' ∧ th'.ocCo = th.ocCo + 1 ∧ th'.win = th.win
        ∧ (u.core c).sp = (s.core c).sp ∧ u.mem = s.mem
    (Solo (.next gp x y) noPre s c t th → ea % 256 = 0 → o + 16 ≤ 1048576 →
      ((o % 16 ≠ 0 ∨ ((s.core c).lineAttr (o / 128)).own = false) →
        exec (.next gp x y) s = .next (s.stopAt c t (fault1 13 [wd o])))
      ∧ (o % 16 = 0 → ((s.core c).lineAttr (o / 128)).own = true → s.replayable c = false → Near s s c t va 256 e →
        (obKind ob = 0 ∨ 5 < obKind ob → exec (.next gp x y) s = .next (s.stopAt c t (fault1 15 [4, wd ea, 0])))
        ∧ (obKind ob = 1 → obFlags ob % 2 = 1 →
          exec (.next gp x y) s = .next (s.stopAt c t (fault1 15 [3, wd ea, wd (obPcode ob)])))
        ∧ (obKind ob = 1 → obFlags ob % 2 = 0 → (s.core c).lineFull [o / 128] = true → exec (.next gp x y) s = .next s)
        ∧ (obKind ob = 1 → obFlags ob % 2 = 0 → (s.core c).lineFull [o / 128] = false →
          issued (.next gp x y) (.next o va ((s.src64 c t y >>> 32).setWidth 32) none s.fresh) none)))
    ∧ (Solo (.fabw gp x tc) noPre s c t th → s.replayable c = false → ∀ r, readReq s c ea = .ok r →
      (∀ k, fabwCause (s.core c) r = some k → exec (.fabw gp x tc) s = .next (s.stopAt c t (fault1 23 [wd ea, wd k])))
      ∧ (fabwCause (s.core c) r = none →
        issued (.fabw gp x tc)
          (.fabw ea r.src r.dst r.len r.ss (bits r.aux1 31 22) (bits r.aux1 21 14) (if r.st then some r.aux0 else none)
            tc.toNat 0 [])
          (if r.ga then some (r.goff, ((s.core c).gauge r.goff).phase) else none)))

/-- R200, R258: PXPUSH and LAUNCH announce their record in the queue's ring, and stay at the unit with its object and ticket;
where the ring is full they stay to help; a pass that does not find the ticket applied stays, and once the record is applied
they answer its status: an OK PXPUSH then counts until the sluice has had its element applied, a LAUNCH does not. A queue that
is not bound or registered raises the network fault. The address in that fault's record (notes/assumptions/38), and that
a unit at a full ring stays to help (notes/assumptions/61), are the model's reading. -/
def Obligations.PushUnits : Prop :=
  ∀ (gp : Option Guard) (d : Dst) (y : Src) (s : State) (c t : Nat) (th : Thread) (e eo ef : TlbEntry)
    (launch : Bool),
    let i : Instr := if launch then .launch gp d y else .pxpush gp d y
    let va := hobVa y s c t th
    let ea := hobEa y s c t
    let r := cellsRead s.mem (e.pa va) 32
    let obj := fieldAt r 8 8
    let ob := cellsRead s.mem (eo.pa obj) 256
    let status := fieldAt (cellsRead s.mem (ef.pa va) 32) 2 1
    let stays (v u : State) (p : Prog) : Prop := exec i s = .next v ∧ v.mem = u.mem ∧ ∃ th', v.thr? c t = some th'
      ∧ th'.prog = some p ∧ th'.pc = th.pc ∧ th'.st = th.st ∧ ∀ k, v.reg c t k = u.reg c t k
    Solo i noPre s c t th → ea % 32 = 0 → hobFree s c → Near s s c t va 32 e →
      ((s.core c).pushOf th va = none → Near (seen s c t va) s c t obj 256 eo → obj < 2 ^ 57 → obj % 256 = 0 → th.prog = none →
        (obKind ob ≠ 3 → exec i s = .next (s.stopAt c t (fault1 15 [4, wd ea, 0])))
        ∧ (obKind ob = 3 → fieldAt r 1 1 ≠ 1 → exec i s = .next (s.stopAt c t (fault1 15 [5, wd ea, 0])))
        ∧ (obKind ob = 3 → fieldAt r 1 1 = 1 → launch = false → s.isShadow (s.core c).tenancy obj = false →
          exec i s = .next (s.stopAt c t (fault1 26 [1, wd ea])))
        ∧ (obKind ob = 3 → fieldAt r 1 1 = 1 → launch = true →
          (s.isLaunchQueue (s.core c).tenancy obj = false ∨ fieldAt r 16 8 % 128 ≠ 0) →
          exec i s = .next (s.stopAt c t (fault1 26 [4, wd ea])))
        ∧ (pushFault s (s.core c).tenancy ea launch r ob = .ok () → ∀ (k : Nat) (u : State),
          (seen (seen s c t va) c t obj).announce (s.agent c t) va = .ok (k, u) → u.thr? c t = some th →
          (k ≠ 0 → ∃ (v : State) (q : Coll), stays v u { phase := 1, count := 0, obj, tick := k, ea }
            ∧ (v.core c).colls = (u.core c).colls ++ [q] ∧ q.op = .pxpush launch obj va none false ∧ q.uid = th.uid)
          ∧ (k = 0 → ∃ v : State, stays v u { phase := 2, count := 0, obj, tick := 0, ea }
            ∧ (v.core c).colls = (u.core c).colls)))
      ∧ (∀ q, (s.core c).pushOf th va = some q → ∀ p, th.prog = some p → p.phase = 1 → p.ea = ea →
        ∀ (done : Bool) (n : Nat) (u : State), s.runPass (s.agent c t) p.obj p.tick = .ok (done, n, u) → u.thr? c t = some th →
        (done = false → ∃ v : State, stays v u { phase := 1, count := 0, obj := p.obj, tick := p.tick, ea })
        ∧ (done = true → NearFor .load u u c t va 32 ef → ∃ v : State,
          exec i s = .next (ran (v.dst c t d (wd (fieldAt (cellsRead u.mem (ef.pa va) 32) 2 1))) c t i (.val 0))
          ∧ v.mem = u.mem))
      ∧ (∀ q, (s.core c).pushOf th va = some q → th.prog = none → fieldAt r 0 1 = 2 →
        NearFor .load (seen s c t va) s c t va 32 ef →
        ∃ u : State, exec i s = .next (ran (u.dst c t d (wd status)) c t i (.val 0)) ∧ u.mem = s.mem
          ∧ (launch = false → status = 0 → (s.core c).collDone = none → q.done = false → q.err = none →
            ∃ th', u.thr? c t = some th' ∧ th'.ocCo = th.ocCo + 1 ∧ th'.win = th.win)
          ∧ (launch = true ∨ status ≠ 0 →
            (u.core c).colls = (s.core c).colls.filter (fun z => z.id != q.id) ∧ Acquired u c t th))

/-! ### Steps of the other agents -/

namespace Sys2Proof.Claims

/-- A step of an agent gives a state of which P holds. -/
def Yields (i : Instr) (s : State) (P : State → Prop) : Prop := ∃ u, exec i s = .next u ∧ P u

/-- A step of an agent that has nothing to do. -/
def Idle (i : Instr) (s : State) : Prop := exec i s = .next s

/-- The matrix operation numbered id of a core. -/
def mxOp? (k : Core) (id : Nat) : Option MxOp := k.mxq.find? (·.id == id)

/-- The pending loads of a thread before its load p, number k, that p must find bound: those of its bytes (R249). -/
def readBefore (th : Thread) (k : Nat) (p : Pend) : List Pend :=
  match p.span with
  | some (pa, n) => overlapping (th.pend.take k) pa n
  | none => []

end Sys2Proof.Claims

/-- R143, R249, R251, R305, R306: a load's data arrives, once the thread's earlier loads of its bytes are bound: its registers
or its ax element take the value and are pending no more, and the latches that wait for it hold it. A deferred access whose
page is still missing leaves its page-fault record and token, for which a thread that is parked on it then waits; one that is
found writes its register, or memory, and its log is cleared. -/
def Obligations.LoadsComplete : Prop :=
  ∀ (s : State) (c t k : Nat) (th : Thread), s.thr? c t = some th →
    (th.pend[k]? = none → Idle (.loadDataReturn c t k) s)
    ∧ (∀ (p : Pend) (v : DWord) (x u : State) (th1 : Thread), th.pend[k]? = some p → p.engine = 0 →
      (p.ax.isSome = true → (∀ q ∈ th.pend.take k, q.ax = none) ∧ (s.core c).axBefore t p = false) →
        s.bindList c t (readBefore th k p) = (true, x) →
      x.bind c t p = .ok v u → u.thr? c t = some th1 →
      Yields (.loadDataReturn c t k) s fun w => ∃ th', w.thr? c t = some th' ∧ w.mem = u.mem
        ∧ th'.pend = th1.pend.filter (·.id != p.id)
        ∧ th'.lats = th1.lats.map (fun l => if l = .load p.id then .val v else l)
        ∧ th'.st = th1.st ∧ th'.pc = th1.pc
        ∧ (p.ents = [] → th'.win = th1.win)
        ∧ (∀ e, p.ents = [e] → th'.win = th1.win.setEnt e (v.setWidth 32))
        ∧ (∀ e f, p.ents = [e, f] →
          th'.win = (th1.win.setEnt e (v.setWidth 32)).setEnt f ((v >>> 32).setWidth 32))
        ∧ (∀ o, p.ax = some o → (w.core c).sp = ((u.core c).spStore o (toBytes 4 (v.toNat % 2 ^ 32))).sp))
    ∧ (∀ (v : DWord) (p : Pend), p.src = .bound v → readBefore th k p = [] ∧ s.bind c t p = .ok v s)
    ∧ (∀ p : Pend, readBefore th k p = [] → s.bindList c t (readBefore th k p) = (true, s))
    ∧ (∀ l : OpLog, th.log = some l → l.phase = .walking → l.kind ≠ 3 →
      ∀ u : State, s.logWalk c t th l = (.page, u) → u.thr? c t = some th →
      Yields (.deferredWalkDone c t) s fun w => ∃ th', w.thr? c t = some th' ∧ th'.pend = th.pend ∧ th'.win = th.win
        ∧ th'.st = th.st ∧ th'.log = some { l with phase := .paged (wd (nextToken (u.ten (u.core c).tenancy).token)) }
        ∧ (th.st = .parked → th.wait.reason = 2 → th.wait.key.toNat = regionVa th.region l.ea / 2 ^ 16 →
          th'.wait.arg = wd (nextToken (u.ten (u.core c).tenancy).token)))
    ∧ (∀ l : OpLog, th.log = some l → l.phase = .walking → l.kind = 1 →
      ∀ (e : TlbEntry) (u : State), s.logWalk c t th l = (.ok e, u) →
      ∀ p : Pend, th.pend.find? (·.engine == 3) = some p →
      ∀ y : State, u.bindList c t
        (overlapping (th.pend.takeWhile (·.id != p.id)) (e.pa (regionVa th.region l.ea)) (ldBytes p.sz)) = (true, y) →
      ∀ (v : DWord) (x : State),
      y.bind c t { p with src := .global (regionVa th.region l.ea) (e.pa (regionVa th.region l.ea)) e.attr } = .ok v x →
      ∀ th' : Thread, x.thr? c t = some th' →
      Yields (.deferredWalkDone c t) s fun w => ∃ th'', w.thr? c t = some th'' ∧ th''.log = none
        ∧ th''.pend = th'.pend.filter (·.id != p.id) ∧ w.mem = x.mem
        ∧ (∀ j, p.ents = [j] → th''.win = th'.win.setEnt j (v.setWidth 32)))
    ∧ (∀ l : OpLog, th.log = some l → l.phase = .walking → l.kind ≠ 1 → l.kind ≠ 3 →
      ∀ (e : TlbEntry) (u : State), s.logWalk c t th l = (.ok e, u) →
      u.laneStores c t (posPart t, l.spray, l.pc) (stOfCode l.sz) (regionVa th.region l.ea) (e.pa (regionVa th.region l.ea))
        (fun _ => none) = [] →
      u.checkStage c (e.pa (regionVa th.region l.ea)) (stOfCode l.sz) = .ok () →
      ∀ x : State,
      u.storeNow c t (e.pa (regionVa th.region l.ea)) e.attr (toBytes (stOfCode l.sz) l.data.toNat) = (true, x) →
      ∀ th' : Thread, x.thr? c t = some th' →
      Yields (.deferredWalkDone c t) s fun w => w.mem = x.mem ∧ ∃ th'', w.thr? c t = some th'' ∧ th''.log = none
        ∧ th''.win = th'.win ∧ th''.pend = th'.pend)

/-- R175, R178, R184, R233, R243, R245, R246: a copy's line arrives; a copy retires; the fetcher reads a line; arbitration
picks among the queues' heads while the macros are free, and its winner starts once it may run beside what is under way; WSW
exchanges the banks, ACCZ zeroes its accumulators and MMA or MMAZ writes its results at retirement; a failed head retires with
its error mark. -/
def Obligations.EnginesProceed : Prop :=
  ∀ (s : State) (c : Nat),
    (∀ (cp : Copy) (L : Nat) (ls : List Nat) (buf : List Host.Cell) (u : State),
      (s.core c).copies.find? (·.id == cp.id) = some cp → cp.lines = L :: ls → cp.err = none → cp.held = none →
      cp.dstSp = true → cp.gauge = none → s.weirHolds (s.core c).tenancy 4 = false →
      (cp.srcSp = false → s.weirHolds (s.core c).tenancy 0 = false) → (s.core c).badTag cp (cp.lineMap L) = none →
      s.engGather c cp.uid cp.id cp.srcSp (cutLines (runsOf ((cp.lineMap L).flatMap fun e => e.2.addrs))) []
        = .inr (buf, u) →
      u.core c = s.core c →
      Yields (.copyLineArrival c cp.id) s fun w =>
        (ls ≠ [] ∨ cp.stamp = none → (w.core c).sp
          = ((byteRuns ((cp.lineMap L).map fun e => (e.1, e.2.value (cellGet buf) u.fresh))).foldl
            (fun k r => k.spPut r.1 r.2) (s.core c)).sp)
        ∧ ((w.core c).lineAttr L).pend = ((s.core c).lineAttr L).pend - 1
        ∧ (((s.core c).lineAttr L).pend = 1 → ((w.core c).lineAttr L).pres = true)
        ∧ (ls ≠ [] → ∀ x, (w.core c).copies.find? (·.id == cp.id) = some x →
          x.lines = ls ∧ x.moved = cp.moved + (cp.lineMap L).length)
        ∧ (∀ o, ls = [] → cp.stamp = some o → w = ((s.copyLine c cp L).bumpStamp c o).retireCopy c cp.id))
    ∧ (∀ (cp : Copy) (t : Nat) (th : Thread), (s.core c).copies.find? (·.id == cp.id) = some cp → cp.lines = [] →
      cp.err = none → (s.core c).copyDone cp = true → cp.srcSlot = none → cp.dstSlot = none → cp.gauge = none →
      (s.core c).byUid cp.uid = some (t, th) → s.thr? c t = some th →
      Yields (.copyRetire c cp.id) s fun w => (w.core c).copies = (s.core c).copies.filter (·.id != cp.id)
        ∧ (w.core c).sp = (s.core c).sp ∧ w.mem = s.mem
        ∧ ∃ th', w.thr? c t = some th' ∧ th'.ocCp = (if cp.gather then th.ocCp else th.ocCp - 1)
          ∧ th'.ocGa = (if cp.gather then th.ocGa - 1 else th.ocGa) ∧ th'.win = th.win)
    ∧ (∀ p, (s.core c).mxHead p = none → Idle (.aRowFetch c p) s)
    ∧ (∀ (p : Nat) (op : MxOp),
      (s.core c).mxHead p = some op → mxOp? (s.core c) op.id = some op → op.canFetch = true →
      ∀ (h : Hdr) (data pitch : Nat), op.layout = some (h, 1, data, pitch) →
      ∀ (isData : Bool) (a n : Nat), (h.pieces data pitch (cellGet op.buf))[op.pos]? = some (isData, a, n) →
      a < 2 ^ 57 → a + n ≤ 1048576 →
      (isData = true → tagAccepts h.swz ((s.core c).lineAttr (a / 128)).tag.toNat = true) →
      ∀ (bs : List Byte) (u : State), s.engSpLoad c a n = .ok bs u → u = s →
      op.pos + 1 < (h.pieces data pitch (cellGet (cellsWrite op.buf a bs))).length →
      Yields (.aRowFetch c p) s fun w =>
        mxOp? (w.core c) op.id = some { op with buf := cellsWrite op.buf a bs, pos := op.pos + 1 })
    ∧ ((∀ r ∈ (s.core c).mxq, r.won = false) →
      (∀ p, p < 4 → ∀ op, (s.core c).mxHead p = some op → (s.core c).mxFree op = false ∨ s.mxCandidate c op = false) →
      Idle (.matrixArbitration c) s)
    ∧ (∀ r ∈ (s.core c).mxq, r.running = true → r.isMma = true → (∀ r ∈ (s.core c).mxq, r.won = false) →
      (∀ p, p < 4 → ∀ op, (s.core c).mxHead p = some op → op.kind ≠ .wld) → Idle (.matrixArbitration c) s)
    ∧ (∀ op : MxOp, (s.core c).mxq = [op] → op.part < 4 → op.running = false → (op.kind = .wsw ∨ op.kind = .accz) →
      op.err = none → op.held = none → op.fresh = false → op.won = false → s.weirHolds (s.core c).tenancy 5 = false →
      Yields (.matrixArbitration c) s fun w => (w.core c).mxq = [{ op with running := true }] ∧ w.mem = s.mem
        ∧ (w.core c).losses.getD op.part 1 = 0)
    ∧ (∀ op : MxOp, (s.core c).mxq.find? (·.won) = some op → mxOp? (s.core c) op.id = some op → s.mxCandidate c op = true →
      ((s.core c).mxClear op = false → Yields (.matrixArbitration c) s fun w => mxOp? (w.core c) op.id = some op
        ∧ (w.core c).losses = (s.core c).losses ∧ ∀ x, mxOp? (s.core c) x = none → mxOp? (w.core c) x = none)
      ∧ ((s.core c).mxClear op = true → (op.kind = .wsw ∨ op.kind = .accz) → op.fresh = false →
        Yields (.matrixArbitration c) s fun w => mxOp? (w.core c) op.id = some { op with won := false, running := true }
          ∧ (w.core c).losses = (s.core c).losses))
    ∧ (∀ op : MxOp, (s.core c).mxq = [op] → op.part < 4 → op.running = true → op.err = none → op.held = none →
      (op.kind = .wsw → Yields (.matrixRetire c) s fun w => (w.core c).mxq = [] ∧ (w.core c).active = !(s.core c).active
        ∧ (w.core c).bank0 = (s.core c).bank0 ∧ (w.core c).bank1 = (s.core c).bank1)
      ∧ (∀ cs, op.kind = .accz → op.src = some cs → Yields (.matrixRetire c) s fun w => (w.core c).mxq = []
        ∧ ∀ j, (bindAcc cs.bind ≤ j → j < bindAcc cs.bind + cs.h.rows * cs.h.cols → (w.core c).acc j = 0)
          ∧ (j < bindAcc cs.bind ∨ bindAcc cs.bind + cs.h.rows * cs.h.cols ≤ j → (w.core c).acc j = (s.core c).acc j))
      ∧ (op.kind = .mma → op.fetched = true → op.retried = false → s.upset = none →
        ∀ a, op.src = some a → ∀ cs, op.dst = some cs → ∀ w bd ws, (s.core c).activeBank = .ready w bd ws →
        (s.core c).accPoison (bindAcc cs.bind) (a.h.rows * (Hdr.of w).cols) = none →
        Yields (.matrixRetire c) s fun v => (v.core c).mxq = []
          ∧ (v.core c).cistern = ((s.core c).putAccs (bindAcc cs.bind) (mmaResults op.mode a.h (Hdr.of w) op.elems ws
            fun i => (s.core c).acc (bindAcc cs.bind + i))).cistern
          ∧ (cdiv op.estimate 1024 ≠ 0 → v.usedOf (s.core c).tenancy 5
            = (s.usedOf (s.core c).tenancy 5 + cdiv op.estimate 1024) % 2 ^ 64)))
    ∧ (∀ (op : MxOp) (e : EngErr) (t : Nat) (th : Thread), (s.core c).mxq = [op] → op.part < 4 →
      op.err = some e → op.uids = [th.uid] → (s.core c).byUid th.uid = some (t, th) → s.thr? c t = some th →
      th.errs = [] →
      Yields (.matrixRetire c) s fun w => (w.core c).mxq = [] ∧ ∃ th', w.thr? c t = some th' ∧ th'.ocMx = th.ocMx - 1
        ∧ th'.errs = [(1, [1, wd e.kind, op.pc, e.arg, 0])])

/-- R192, R215, R220, R221, R226..R229, R304, R317: a bin's timer launches it; MERGE's time limit releases its group; an item
is stamped with its index registers and shares its template; a register grant serves its waiter; an eviction takes a parked
thread's registers; migrated threads become READY, or go on where they were with status 3; a continuation's items are placed
after its core observes what its die has (the model's reading, notes/assumptions/51), and one for another context becomes a
record; a waiting item is placed. -/
def Obligations.ThreadsArise : Prop :=
  ∀ (s : State) (c p : Nat), p < 4 →
    (∀ (n : Nat) (b : Bin), tget? (s.part c p).bins n = some b →
      (s.cycle < b.due → Idle (.binTimerLaunch c p n) s)
      ∧ (b.due ≤ s.cycle → Yields (.binTimerLaunch c p n) s fun w => tget? (w.part c p).bins n = none
        ∧ ∀ t ∈ b.tids, ∀ th, s.thr? c t = some th →
          w.thr? c t = some { th with st := .ready, age := s.cycle, readyAt := s.cycle }))
    ∧ (∀ g : Group, (s.part c p).groups = [g] → s.mergeDue c p g = true →
      Yields (.mergeTimeout c p g.pc) s fun w => (w.part c p).groups = []
        ∧ ∀ t th, (s.core c).threads = [(t, th)] → posPart t = p → th.st = .merged → th.pc = g.pc → th.region = g.region →
          w.thr? c t = some { th with st := .ready, readyAt := s.cycle, released := true })
    ∧ ((s.core c).stampNext p = none → Idle (.itemStamp c p) s)
    ∧ (∀ (n l : Nat) (x : Template), (s.core c).stampNext p = some (n, x, l) → tget? (s.part c p).tmpls n = some x →
      l < 32 → x.level ≠ 0 →
      Yields (.itemStamp c p) s fun w => ∃ (pos : Nat) (th : Thread), posPart pos = p ∧ posLane pos = l
        ∧ s.thr? c pos = none ∧ w.thr? c pos = some th ∧ th.pc = x.start ∧ th.region = x.region ∧ th.st = .ready
        ∧ th.tmpl = some n ∧ th.item0 = x.item0 ∧ (x.level = 1 → th.item1 = wd x.next ∧ th.item2 = 0xFFFFFFFF)
        ∧ (x.level = 2 → th.item1 = x.item1 ∧ th.item2 = wd x.next)
        ∧ th.win.base = .ref n ∧ th.win.alloc = x.win.alloc ∧ th.handler = false ∧ th.evec = s.trapEntry c
        ∧ tget? (w.part c p).tmpls n = some { x with next := x.next + 1 })
    ∧ (∀ (l : Nat) (cl : Claim), (s.core c).oldest p l = some cl → (s.core c).canGrant p l cl = true →
      (∀ n, cl.tmpl = some n → exec (.registerGrant c p l) s
        = .next (s.modCore c fun k => (k.restoreTmpls p l (.ref n)).markLane p l))
      ∧ (∀ th, cl.tmpl = none → s.thr? c (cl.pos - 1) = some th →
        exec (.registerGrant c p l) s = .next (s.grantThr c (cl.pos - 1) th)))
    ∧ (∀ (l : Nat) (cl : Claim) (th : Thread), (s.core c).oldest p l = some cl → cl.tmpl = none →
      s.thr? c (cl.pos - 1) = some th → posPart (cl.pos - 1) = p → posLane (cl.pos - 1) = l →
      (s.core c).canGrant p l cl = true → th.frz = none → th.grow = none → th.copyNew = [] → th.saved = false →
      th.st = .parked → th.wait.halted = false → th.wait.met = false →
      Yields (.registerGrant c p l) s fun w => ∃ th', w.thr? c (cl.pos - 1) = some th' ∧ th'.st = .ready
        ∧ th'.readyAt = s.cycle ∧ th'.need = 0 ∧ th'.win = th.win ∧ th'.pc = th.pc)
    ∧ ((s.core c).oldest p 0 = none → Idle (.registerGrant c p 0) s ∧ Idle (.registerEviction c p 0) s)
    ∧ (∀ (l t : Nat) (cl : Claim) (th : Thread), (s.core c).oldest p l = some cl → (s.core c).partRuns p = false →
      (s.core c).freeEnts p l < cl.need → (s.core c).evictThread p l cl = some (t, th) →
      s.backArea c + 2048 * t + 2048 ≤ Config.memBytes →
      Yields (.registerEviction c p l) s fun w => ∃ th', w.thr? c t = some th' ∧ th'.saved = true ∧ th'.win = th.win
        ∧ th'.st = th.st)
    ∧ (∀ (k src t0 t : Nat) (d : Dst) (th : Thread), s.msgs[k]? = some (.migr src c d [t0] [t]) →
      s.thr? c t = some th → (src, t0) ≠ (c, t) →
      ((s.core c).draining = false → th.st = .bin → Yields (.migrArrival k) s fun w => ∃ u : State,
        w = u.dst c t d 0 ∧ w.msgs = s.msgs.eraseIdx k ∧ (w.core c).tlb = [] ∧ (w.core c).lastPage = []
          ∧ w.thr? src t0 = none ∧ u.thr? c t = some { th with
            st := .ready, age := s.cycle, readyAt := s.cycle, bias := th.bias - (s.cycle + (s.core c).skew) })
      ∧ (∀ th0, (s.core c).draining = true → s.thr? src t0 = some th0 → Yields (.migrArrival k) s fun w =>
        w.thr? c t = none ∧ ∀ (u : State) (th2 : Thread), u = ({ s with msgs := s.msgs.eraseIdx k }.modCore c
          fun k => { k with threads := tdel k.threads t }).setThr src t0 { th0 with rrIndex := th.rrIndex } →
        (u.dst src t0 d 3).thr? src t0 = some th2 → w = (u.dst src t0 d 3).chainEnd src t0 th2 th.pc))
    ∧ (∀ (k ten join : Nat) (entry : BitVec 57) (items : List Word),
      s.msgs[k]? = some (.continuation c ten entry items join) →
      ((∀ x, (s.core c).ctx = some x → x.ten ≠ ten) →
        Yields (.continuationDelivery k) s fun w =>
          w = ({ s with msgs := s.msgs.eraseIdx k }.sendRec ten { plainRec 2 5 [] join with core := c }).2)
      ∧ (∀ x, (s.core c).ctx = some x → x.ten = ten →
        exec (.continuationDelivery k) s = .next ((List.range items.length).foldl
          (fun u j => u.placeItem c { entry, item := items.getD j 0, part := j / 32 % 4 })
          ({ s with msgs := s.msgs.eraseIdx k }.observe c)))
      ∧ (∀ (x : Ctx) (v : Word) (u : State), (s.core c).ctx = some x → x.ten = ten → items = [v] →
        (({ s with msgs := s.msgs.eraseIdx k }.observe c).core c).backlog = [] →
        ({ s with msgs := s.msgs.eraseIdx k }.observe c).tryItem c { entry, item := v, part := 0 } = (true, u) →
        exec (.continuationDelivery k) s = .next u))
    ∧ ((s.core c).backlog = [] → Idle (.backlogPlacement c) s)
    ∧ (∀ (x : Later) (u : State), (s.core c).backlog = [x] → s.tryItem c x = (true, u) →
      Yields (.backlogPlacement c) s fun w => w = u.modCore c fun k => { k with backlog := [] })

/-- R198, R199, R201, R202, R270, R322, R324, R325: credits return to their sender; a SEND whose payload has been read is
appended at the tail; NEXT's dispenser gives an item; a fabric write is refused without its tenancy's consent or its page, and
an operation with a refused write increments no stamp; one that is applied is
observed by the core of this device that sent it (the model's reading, notes/assumptions/51); an acknowledgement retires its
operation; a sluice sends what it has popped, and tries again after FULL; a batch is pushed on its queue and answered, with
FULL where the queue is full, and one that its tenancy does not accept is refused. -/
def Obligations.MessagesArrive : Prop :=
  ∀ (s : State) (c k : Nat),
    (∀ (h n : Nat), s.msgs[k]? = some (.credit c h n) → ∀ cr, tget? (s.core c).credits h = some cr →
      s.trafficHeld (s.core c).tenancy .credit = false → Yields (.creditReturn k) s fun w =>
        tget? (w.core c).credits h = some (cr + n) ∧ w.msgs = s.msgs.eraseIdx k ∧ w.mem = s.mem)
    ∧ ((s.core c).coll k = none → Idle (.nextApply c k) s ∧ Idle (.sendAppend c k) s ∧ Idle (.fabwAck c k false) s)
    ∧ (∀ x : Coll, (s.core c).coll k = some x → ∀ (o len h tc : Nat) (got : List Byte), x.op = .send o len h tc got →
      x.done = false → x.err = none → (s.core c).sendBehind x h = false →
      s.trafficHeld (s.core c).tenancy (.bulk (tc + 2)) = false →
      let n := min (len - got.length) (128 - (o + got.length) % 128)
      ∀ (bs : List Byte) (u : State), s.engSpLoad c (o + got.length) n = .ok bs u → u = s →
      ((got ++ bs).length < len →
        Yields (.sendAppend c k) s fun w => (∃ y, (w.core c).coll k = some y ∧ y.op = .send o len h tc (got ++ bs))
          ∧ (w.core c).sp = (s.core c).sp
          ∧ (n ≠ 0 → w.usedOf (s.core c).tenancy (groupOf (tc + 2))
            = (s.usedOf (s.core c).tenancy (groupOf (tc + 2)) + n) % 2 ^ 64))
      ∧ (len ≤ (got ++ bs).length →
        (∀ r, (s.core c).rings.find? (fun r => r.handle == h && r.sender == (s.core c).index) = some r →
          exec (.sendAppend c k) s = .next (((s.sendBytes (s.core c).tenancy (.bulk (tc + 2)) n).ringAppend
            (s.gangCore c r.receiver) r (got ++ bs)).finishColl c k))
        ∧ ((s.core c).rings.find? (fun r => r.handle == h && r.sender == (s.core c).index) = none →
          exec (.sendAppend c k) s = .next ((s.sendBytes (s.core c).tenancy (.bulk (tc + 2)) n).finishColl c k))))
    ∧ (∀ (r : Ring) (bs : List Byte) (tail mark : Word), tail = (s.core c).ringField r.cb 12 →
      mark = (s.core c).ringField r.cb 16 → (r.cb + 32 ≤ r.base ∨ r.base + r.size ≤ r.cb) → bs.length ≤ r.size →
      ((cellGet (s.core c).sp (r.cb + 22)).getLsbD 0 = false ∨ pastMark (tail + BitVec.ofNat 32 bs.length) mark = false) →
      ((s.ringAppend c r bs).core c).ringField r.cb 12 = tail + BitVec.ofNat 32 bs.length
        ∧ (∀ (j : Nat) (b : Byte), bs[j]? = some b →
          cellGet ((s.ringAppend c r bs).core c).sp (r.base + (tail.toNat + j) % r.size) = b)
        ∧ (∀ a, (a < r.cb + 12 ∨ r.cb + 16 ≤ a) → (a < r.base ∨ r.base + r.size ≤ a) →
          cellGet ((s.ringAppend c r bs).core c).sp a = cellGet (s.core c).sp a))
    ∧ (∀ x : Coll, (s.core c).coll k = some x → ∀ (o obj : Nat) (lim : Word) (key : Nat), x.op = .next o obj lim none key →
      x.done = false → x.err = none → x.held = none →
      ∀ (st old at_ : Nat) (u : State),
      s.ownOp { ten := (s.core c).tenancy, die := dieOf c, core := some c, pos := none } (.next key) obj 1 1
        = .ok (st, old, at_, u) →
      Yields (.nextApply c k) s fun w => ∃ v : State,
        v = (u.modColl c k fun x =>
            { x with op := .next o obj lim (some (if old < lim.toNat then wd old else 0xFFFFFFFF)) key })
          ∧ w = ((((v.modCore c (·.spPut (o + 8) (toBytes 4
            (if old < lim.toNat then wd old else 0xFFFFFFFF : Word).toNat))).copyArrive c (o / 128)).bumpStamp
            c o).finishColl c k))
    ∧ (∀ (fc id ft ten va : Nat) (bytes : List Byte) (st : Option Nat),
      s.msgs[k]? = some (.fabw s.device.toNat fc id ft ten c va bytes st) → s.trafficHeld ten .ack = false →
      (st.isSome = true → s.beatsBefore k s.device.toNat fc id = false) →
      let u := { s with msgs := s.msgs.eraseIdx k }.sendControl ten .ack
      let op := (s.device.toNat, fc, id)
      let denied : State := { u with refused := op :: u.refused.filter (· != op) }
      (s.accepts ten ft = false → exec (.fabwWriteArrival k) s = .next (denied.fabwAcked fc id true))
      ∧ (s.accepts ten ft = true → s.stampOk ten c st = true →
        (∀ r, u.walkAll ten .store (pagePieces 4 va bytes.length) = .inl r →
          exec (.fabwWriteArrival k) s = .next (denied.fabwAcked fc id true))
        ∧ ∀ ps, u.walkAll ten .store (pagePieces 4 va bytes.length) = .inr ps →
        let v := u.putPieces [c, fc] ps bytes
        (st = none → exec (.fabwWriteArrival k) s = .next ((v.observe fc).fabwAcked fc id false))
        ∧ (∀ o, st = some o → op ∈ u.refused →
          exec (.fabwWriteArrival k) s
            = .next (({ v with refused := u.refused.filter (· != op) }.observe fc).fabwAcked fc id false))
        ∧ (∀ o, st = some o → op ∉ u.refused → exec (.fabwWriteArrival k) s
          = .next ((((v.observe c).bumpStamp c o).observe fc).fabwAcked fc id false))))
    ∧ (∀ x : Coll, (s.core c).coll k = some x →
      ∀ (q src dst len dev co tc sent n : Nat) (ss : Bool) (st : Option Nat) (beats : List Nat),
      x.op = .fabw q src dst len ss dev co st tc sent (n :: beats) → x.err = none → x.gauge = none →
      (Yields (.fabwAck c k true) s fun w => w = s.failColl c k 26 q [5])
      ∧ ((sent ≠ len ∨ beats ≠ []) → Yields (.fabwAck c k false) s fun w => ∃ y, (w.core c).coll k = some y
        ∧ y.op = .fabw q src dst len ss dev co st tc sent beats)
      ∧ (sent = len → beats = [] → exec (.fabwAck c k false) s = .next ((s.modColl c k fun x =>
        { x with op := .fabw q src dst len ss dev co st tc sent [] }).finishColl c k)))
    ∧ (∀ ten n, s.check = [] → s.sluiceEntry ten n = none → Idle (.sluiceDrain ten n) s ∧ Idle (.sluiceRetry ten n) s)
    ∧ (∀ (ten n at_ : Nat) (x : Sluice), s.check = [] → s.sluiceEntry ten n = some x → (s.sluiceSt ten n).retryAt = some at_ →
      at_ ≤ s.time.toNat → (s.sluiceSt ten n).inFlight = false → (s.sluiceSt ten n).disabled = false →
      (s.sluiceSt ten n).unsent ≠ [] → s.trafficHeld ten (.bulk (x.ctl % 4 + 2)) = false → x.device = s.device.toNat →
      (s.sluiceSt ten n).unsent.length - (s.sluiceSt ten n).sent ≤ 16 →
        Yields (.sluiceRetry ten n) s fun w => (w.sluiceSt ten n).inFlight = true
        ∧ w.msgs = s.msgs ++ [.batch x.device ten n (bits (s.ten ten).peer.toNat 19 16) x.core x.trueQ
          ((s.sluiceSt ten n).unsent.map (·.2)) (if x.stamp = 0xFFFFFFFF then none else some x.stamp) 0])
    ∧ (∀ (ten n : Nat) (x : Sluice) (e : TlbEntry) (u : State), s.check = [] → s.sluiceEntry ten n = some x → x.enabled = true →
      (s.sluiceSt ten n).disabled = false → (s.sluiceSt ten n).inFlight = false → (s.sluiceSt ten n).held = none →
      (s.sluiceSt ten n).unsent = [] → s.walkFor ten x.shadow .helped = .ok e →
      u = s.sluiceFill { ten, die := homeDie (e.pa x.shadow), core := none, pos := none } ten n x.shadow (min 64 (max 1 x.batch)) →
      Yields (.sluiceDrain ten n) s fun w =>
        ((u.sluiceSt ten n).unsent = [] → w = u) ∧ ((u.sluiceSt ten n).unsent ≠ [] → w = u.sluiceSend ten n x 8))
    ∧ (∀ (fd ft en ten tq i : Nat) (el : List DWord) (st : Option Nat),
      s.msgs[k]? = some (.batch fd ft en ten c tq el st i) →
      (s.accepts ten ft = false → Yields (.sluiceBatchArrival k) s fun w =>
        w = { s with msgs := s.msgs.eraseIdx k }.batchAnswer fd ft en i false true)
      ∧ (∀ e, s.walkFor ten tq .helped = .ok e → s.accepts ten ft = true → s.stampOk ten c st = true →
        (el.drop i = [] → Yields (.sluiceBatchArrival k) s fun w =>
          w = { s with msgs := s.msgs.eraseIdx k }.batchAnswer fd ft en i false false)
        ∧ (∀ v : DWord, el.drop i = [v] → s.trafficHeld ten .helped = false → ∀ (status res at_ : Nat) (u : State),
          s.ownOp { ten, die := homeDie (e.pa tq), core := none, pos := none } (.batch fd ft en) tq 1 v.toNat
            = .ok (status, res, at_, u) →
          u.msgs = s.msgs →
          (status = 0 → exec (.sluiceBatchArrival k) s = .next
            ({ (match st with
                | some o => ((u.sendControl ten .helped).observe c).bumpStamp c o
                | none => u.sendControl ten .helped) with msgs := s.msgs.eraseIdx k }.batchAnswer fd ft en (i + 1) false false))
          ∧ (status = 1 → exec (.sluiceBatchArrival k) s
            = .next ({ u with msgs := s.msgs.eraseIdx k }.batchAnswer fd ft en i true false)))))

/-- R264, R265, R268, R292, R310, R311: a CAUSAL write is delivered once the clock allows, and a REPL forward at its die; a
guest line is filled; a node whose contexts have ended retires; TNREPLAY wakes the FAULT entries it names; TNINV drops the
translations of its range and BUSY falls when no access under them is left; the fault ring's control register. That the weir
holds a sweep's messages, and BUSY with them, is the model's choice (notes/assumptions/59). -/
def Obligations.DiesNodesAndTables : Prop :=
  ∀ (s : State) (d k n : Nat) (ten : BitVec 4),
    (∀ w, d < 8 → (s.die d).inbound[k]? = some w →
      (s.deliverable d w = false → Idle (.causalDelivery d k) s)
      ∧ (s.deliverable d w = true →
        Yields (.causalDelivery d k) s fun u => (u.die d).vc = (s.vc d).set w.src (w.clock.getD w.src 0)
          ∧ (u.die d).inbound = (s.die d).inbound.eraseIdx k
          ∧ (homeDie w.pa ≠ d → u.mem = s.mem
            ∧ tget? (u.die d).guests (lineOf w.pa)
              = (tget? (s.die d).guests (lineOf w.pa)).map (fun g => g.put (w.pa % 128) w.bytes w.key))
          ∧ (homeDie w.pa = d → Memory.wf s.mem = true →
            (∀ j, j < w.bytes.length → keyLt (tget (0, 0) s.keys (w.pa + j)) w.key = true) →
            cellsRead u.mem w.pa w.bytes.length = w.bytes)))
    ∧ (∀ f, d < 8 → (s.die d).fills[k]? = some f →
      (∀ g v, f.served = some (g, v) → covers (s.vc d) v = true →
        Yields (.guestFill d k) s fun u => tget? (u.die d).guests f.line = some g
          ∧ (u.die d).fills = (s.die d).fills.filter (·.line != f.line) ∧ u.mem = s.mem)
      ∧ (f.served = none → covers (s.vc (homeDie (f.line * 128))) f.clock = false → Idle (.guestFill d k) s))
    ∧ (∀ f, s.fwds = [f] → f.bytes ≠ [] →
      Yields (.replForward 0) s fun u => u.fwds = [] ∧ u.mem = s.mem
        ∧ ∀ j < f.bytes.length, tget? (u.die f.die).repl (f.pa + j) = none)
    ∧ (∀ nd, tget? s.nodes n = some nd →
      (s.nodeDone n nd = false → Idle (.nodeRetire n) s)
      ∧ (s.nodeDone n nd = true → nd.staged = [] → nd.commits = [] → nd.arrivals = [] →
        (nd.retired = true → Yields (.nodeRetire n) s fun u => tget? u.nodes n = none ∧ u.mem = s.mem)
        ∧ (nd.retired = false → ∀ e, s.walkFor nd.ten nd.record .store = .ok e →
          e.pa nd.record % 128 = 0 → e.pa nd.record + 128 ≤ 2 ^ 40 → (s.die (dieOf (nd.cores.headD 0))).inbound = [] →
          Yields (.nodeRetire n) s fun u => tget? u.nodes n = none
            ∧ cellGet u.mem (e.pa nd.record + 28) = 4
            ∧ cellsRead u.mem (e.pa nd.record + 120) 8 = toBytes 8 s.time.toNat)))
    ∧ (∀ (c t : Nat) (th : Thread) (x : Ctx), s.cores = [(c, s.core c)] → (s.core c).ctx = some x → x.ten = ten.toNat →
      (s.core c).threads = [(t, th)] → th.st = .parked → th.wait.reason = 2 → th.wait.halted = false →
      th.wait.evicted = false → th.log = none →
      let wakes (i : Instr) : Prop := Yields i s fun u => ∃ th', u.thr? c t = some th' ∧ th'.st = .ready ∧ th'.pc = th.pc
      let sleeps (i : Instr) : Prop := Yields i s fun u => ∃ th', u.thr? c t = some th' ∧ th'.st = .parked
      wakes (.tnreplayAll ten)
      ∧ (∀ w, (th.wait.arg = w → wakes (.tnreplayToken ten w)) ∧ (th.wait.arg ≠ w → sleeps (.tnreplayToken ten w)))
      ∧ (∀ vpn : BitVec 41, (th.wait.key.toNat = vpn.toNat → wakes (.tnreplayPage ten 0 vpn))
        ∧ (th.wait.key.toNat ≠ vpn.toNat → sleeps (.tnreplayPage ten 0 vpn))))
    ∧ ((s.ten ten.toNat).inv.getLsbD 63 = true → Idle (.tninvAll ten) s ∧ ∀ z v, Idle (.tninvPage ten z v) s)
    ∧ ((s.ten ten.toNat).inv.getLsbD 63 = false →
      (Yields (.tninvAll ten) s fun u => (u.ten ten.toNat).inv.getLsbD 63 = true ∧ u.mem = s.mem
        ∧ ∀ c x, (c, s.core c) ∈ s.cores → (s.core c).ctx = some x → x.ten = ten.toNat →
          (u.core c).tlb = [] ∧ (u.core c).lastPage = [])
      ∧ ∀ v, Yields (.tninvPage ten 0 v) s fun u => (u.ten ten.toNat).inv.getLsbD 63 = true
        ∧ ∀ c x e, (c, s.core c) ∈ s.cores → (s.core c).ctx = some x → x.ten = ten.toNat → e ∈ (u.core c).tlb →
          e ∈ (s.core c).tlb ∧ (e.psz = 0 → e.vpn ≠ v.toNat))
    ∧ (s.sweepDone ten.toNat = false → Idle (.invalidationDone ten) s)
    ∧ (s.trafficHeld ten.toNat .sweep = true → Idle (.invalidationDone ten) s)
    ∧ (s.sweepDone ten.toNat = true → s.trafficHeld ten.toNat .sweep = false → Yields (.invalidationDone ten) s fun u =>
        (u.ten ten.toNat).inv.getLsbD 63 = false ∧ u.mem = s.mem)
    ∧ ∀ v : Word, (s.ten ten.toNat).frHeld = [] → (s.ten ten.toNat).frOver = none →
      Yields (.faultRingControlWrite ten v) s fun u => (u.ten ten.toNat).frHead = v.extractLsb' 16 16
        ∧ (u.ten ten.toNat).frEn = v.getLsbD 15
        ∧ (u.ten ten.toNat).frLsz = (if (v.extractLsb' 0 4).toNat < 6 then 6 else v.extractLsb' 0 4) ∧ u.mem = s.mem

/-- R270, R286, R295, R326, R365, R370, R371: requests of masters that a tenancy does not name are turned away; a read, a write
and a helped step of a named master are answered, and a device whose start has halted answers nothing; attestation and the
public key. The layout of a report and the signature are the model's (notes/assumptions/10); so are code 5 with cause 8 for a
misaligned object and code 1 for the public key (notes/assumptions/44). -/
def Obligations.HostRequests : Prop :=
  ∀ (s : State) (m : BitVec 16) (ten : BitVec 4) (va : BitVec 57) (n : Nat) (bytes : List Byte) (op : HostOp)
    (nonce : BitVec 256) (e : TlbEntry),
    let refused (i : Instr) (code : Nat) : Prop :=
      Yields i s fun u => u.out = .resp m.toNat code [] :: s.out ∧ u.mem = s.mem ∧ u.reqs = []
    let named : Prop := s.named ten.toNat m.toNat = true
    let pa := e.pa va.toNat
    (s.haltedAt ≠ 0 → Idle (.hostRead m ten va n) s ∧ Idle (.hostWrite m ten va bytes) s ∧ Idle (.hostHelpedStep m ten op va) s)
    ∧ (s.haltedAt = 0 →
    (s.reqs = [] → (s.ten ten.toNat).ctl.toNat % 2 ^ 24 = 0 →
      refused (.hostRead m ten va n) 4 ∧ refused (.hostWrite m ten va bytes) 4 ∧ refused (.hostHelpedStep m ten op va) 4)
    ∧ (s.reqs = [] → (s.ten ten.toNat).ctl.toNat % 2 ^ 24 ≠ 0 → ¬ named →
      refused (.hostRead m ten va n) 1 ∧ refused (.hostWrite m ten va bytes) 1 ∧ refused (.hostHelpedStep m ten op va) 1)
    ∧ (s.reqs = [] → (s.ten ten.toNat).ctl.toNat % 2 ^ 24 ≠ 0 → named → s.weirHolds ten.toNat 0 = false →
      s.trafficHeld ten.toNat .host = false → s.check = [] →
      (0 < n → va.toNat % 2 ^ 16 + n ≤ 2 ^ 16 → s.walkFor ten.toNat va.toNat .load = .ok e →
        (va.toNat % 128 + n ≤ 128 ∨ (s.ten ten.toNat).budgets = []) →
        Yields (.hostRead m ten va n) s fun u =>
          u.out = .resp m.toNat 0 (cellsRead s.mem pa n) :: s.out ∧ u.mem = s.mem ∧ u.reqs = [])
      ∧ (s.walkFor ten.toNat va.toNat .load = .page → 0 < n → refused (.hostRead m ten va n) 2)
      ∧ (s.storesWf = true → 0 < bytes.length → va.toNat % 128 + bytes.length ≤ 128 →
        s.walkFor ten.toNat va.toNat .store = .ok e → e.attr = 1 →
        Yields (.hostWrite m ten va bytes) s fun u => u.out = .resp m.toNat 0 [] :: s.out ∧ u.reqs = []
          ∧ cellsRead u.mem pa bytes.length = bytes ∧ memKeeps s u pa bytes.length pa bytes.length))
    ∧ (s.reqs = [] → (s.ten ten.toNat).ctl.toNat % 2 ^ 24 ≠ 0 → named → s.weirHolds ten.toNat 6 = false →
      s.trafficHeld ten.toNat .helped = false →
      (va.toNat % 256 ≠ 0 → Yields (.hostHelpedStep m ten .happ va) s fun u => u.out = .resp m.toNat 5 [8] :: s.out)
      ∧ (va.toNat % 256 = 0 → s.check = [] → s.walkFor ten.toNat va.toNat .helped = .ok e → s.poisonedAt pa 256 = false →
        obPending (cellsRead s.mem pa 256) = 0 →
        Yields (.hostHelpedStep m ten .happ va) s fun u => u.out = .resp m.toNat 0 [0, 0, 0, 0] :: s.out ∧ u.mem = s.mem))
    ∧ (s.running = false → Yields (.attestationRequest m ten nonce) s fun u => u.out = .resp m.toNat 4 [] :: s.out ∧ u.mem = s.mem)
    ∧ (s.running = true → named → Yields (.attestationRequest m ten nonce) s fun u => u.out = .report m.toNat
        (s.reportBody nonce ++ toBytes 3309 (Config.mldsaSign s.fuses.seed (s.reportBody nonce) s.draw.1).toNat) :: s.out
        ∧ u.mem = s.mem)
    ∧ (s.running = true → ¬ named → Yields (.attestationRequest m ten nonce) s fun u => u.out = .resp m.toNat 1 [] :: s.out)
    ∧ (s.running = false → Yields (.publicKeyRequest m) s fun u => u.out = .resp m.toNat 4 [] :: s.out ∧ u.mem = s.mem)
    ∧ (s.running = true → 1024 ≤ m.toNat → m ≠ 0xFFFF →
      Yields (.publicKeyRequest m) s fun u => u.out = .resp m.toNat 0 s.pubKey :: s.out ∧ u.mem = s.mem)
    ∧ (s.running = true → (m.toNat < 1024 ∨ m = 0xFFFF) →
      Yields (.publicKeyRequest m) s fun u => u.out = .resp m.toNat 1 [] :: s.out))

/-- R79, R295, R297, R301, R313, R336, R344, R354, R365..R369: firmware writes of the registers listed (TNROOT, TNHOST, TNFRB,
TNBACK, TNCEV, GWDLIM, TNNOTE, CRSAVE, PWRLIM, the PTP domain) keep the bits their registers have; an unassigned word traps,
with its address first in the record (notes/assumptions/19); PTP corrections step or slew, by the offset that is the row's
operand (notes/assumptions/49); a patrol scrub clears a correctable difference; PWRLIM's throttle changes no more than the
clocks; start measures the images it accepts and halts at one it rejects; the loss of power leaves only what survives it. -/
def Obligations.RegistersTimeAndStart : Prop :=
  ∀ (s : State) (t : BitVec 4) (v : DWord) (k : Nat) (w : Word),
    let writes (r : FwReg) (P : State → Prop) : Prop := Yields (.registerWrite r v) s fun u => P u ∧ u.mem = s.mem
    writes (.tnroot t) (fun u => (u.ten t.toNat).root = v &&& 0x000FFFFFFFE00000)
    ∧ writes (.tnhost t) (fun u => (u.ten t.toNat).host = v.setWidth 32)
    ∧ writes (.tnfrb t) (fun u => (u.ten t.toNat).frb = v &&& 0x000FFFFFFFFFF000)
    ∧ writes (.tnback t) (fun u => (u.ten t.toNat).back = v &&& 0x000FFFFFFF000000)
    ∧ writes (.tncev t) (fun u => (u.ten t.toNat).cev = v) ∧ writes (.gwdlim t) (fun u => (u.ten t.toNat).gwdlim = v)
    ∧ writes (.tnnote t) (fun u => (u.ten t.toNat).note = (s.ten t.toNat).note &&& ~~~(v &&& 0x3E))
    ∧ (k < 192 → writes (.crsave (BitVec.ofNat 8 k)) (fun u => (u.core k).crsave = v &&& 0x000FFFFFFFFF0000))
    ∧ writes .pwrlim (fun u => u.pwrlim.toNat = min 2200 (max 400 (v.toNat % 65536)))
    ∧ writes .ptpdom (fun u => u.ptpdom = v.setWidth 8)
    ∧ (s.running = false → Idle (.registerWrite (.tnctl t) v) s)
    ∧ (∀ (c p : Nat) (th : Thread), s.cur.core = c → s.cur.members = [p] → s.thr? c p = some th → th.log = none →
      Yields (.illegalInstruction w) s fun u =>
        u = s.takeTrap c p 0 1 [th.pc + wd (4 * (s.cur.len - 1))] th.head th.pc w)
    ∧ (k > 1000000 → Yields (.ptpMessage true k) s fun u => u.time = s.time + BitVec.ofNat 64 k ∧ u.slew = 0 ∧ u.ptpLock = true)
    ∧ (k ≤ 1000000 → Yields (.ptpMessage true k) s fun u => u.time = s.time ∧ u.slew = k * 13500)
    ∧ (Yields (.ptpMessage false k) s fun u => u.time = s.time ∧ u.slew = -(k * 13500 : Int))
    ∧ (∀ j < 16, s.check = [] → Idle (.patrolScrub (BitVec.ofNat 4 j)) s)
    ∧ (∀ (sec : Nat) (d : BitVec 10), s.check = [(sec, d)] → eccDecode d = .check →
      Yields (.patrolScrub (BitVec.ofNat 4 (2 * homeDie (sec * 32) + sec * 32 / 256 % 2))) s fun u =>
        u.check = [] ∧ u.mem = s.mem ∧ u.poison = s.poison)
    ∧ (∀ hot, Yields (.powerThrottle k hot) s fun u => { u with clockSteps := s.clockSteps } = s
        ∧ ∀ d < 8, tget 0 u.clockSteps d = if s.pwrlim.toNat < k ∨ hot.getLsbD d = true then tget 0 s.clockSteps d + 1
          else tget 0 s.clockSteps d - 1)
    ∧ (let accepted (i : Image) : Prop := i.keyDigest = s.fuses.keyDigest ∧ s.fuses.svnMin.toNat ≤ i.svn.toNat
        ∧ Config.mldsaVerify i.keyDigest (shake256 i.text 64) i.sig = true
      ∀ slotA slotB dev, s.startRec = [] → s.repairs = [] → s.running = false →
        ((∀ i ∈ slotA, accepted i) → Yields (.powerOnStart [] (slotA, slotB) dev) s fun u =>
          u.running = true ∧ u.haltedAt = 0 ∧ u.device = dev ∧ u.time = 0
          ∧ u.meas = slotA.map (fun i => BitVec.ofNat 512 (ofBytes (shake256 i.text 64)))
          ∧ u.pubKey = toBytes 1952 (Config.mldsaPublic s.fuses.seed).toNat
          ∧ ∀ j ∈ [0, 1, 3, 4, 5, 6, 7, 8, 9], (u.startEnt j).outcome = 1 ∧ (u.startEnt j).starts = 1
            ∧ (u.startEnt j).attempts = 0)
        ∧ (∀ i ∈ slotA, ¬ accepted i → Yields (.powerOnStart [] (slotA, slotB) dev) s fun u =>
          u.running = false ∧ u.haltedAt = 7 ∧ u.meas = [] ∧ (u.startEnt 6).outcome = 3))
    ∧ (Yields (.powerOnStart [0] ([], []) 0) { s with running := false, startRec := [] } fun u =>
        u.running = false ∧ u.haltedAt = 1 ∧ (u.startEnt 0).outcome = 3 ∧ (u.startEnt 0).attempts = 1)
    ∧ (Yields (.powerLoss none) s fun u => u.mem = [] ∧ u.tens = [] ∧ u.nodes = [] ∧ u.running = false
        ∧ (∀ c, (u.core c).ctx = none ∧ (u.core c).threads = [] ∧ (u.core c).sp = [])
        ∧ u.startRec = s.startRec ∧ u.fuses = s.fuses ∧ u.repairMap = s.repairMap ∧ u.erstk = s.erstk)

namespace Sys2Proof.Claims

/-- The cause of R316 for which a RESUME on core c is refused, by the tenancy, gang index and gang size of the header. -/
def refusal (s : State) (c ten index gang : Nat) : Option Nat :=
  if (s.core c).ctx.isSome ∨ bitOf (s.ten ten).ctl.toNat (cascadeOf c) = false then some 1
  else if index ≠ 0 ∨ gang < 1 ∨ 8 < gang then some 2
  else if (s.freeCores (cascadeOf c)).length < gang then some 3 else none

/-- A RESUME on core c is refused (R316): the tenancy gets its record and its error handler is notified. -/
def Refuses (s : State) (c ten area cause : Nat) : Prop :=
  Yields (.resume c) s fun u => u = s.refuseResume c ten area cause ∧ (u.core c).crdone = false ∧ u.saves = s.saves
    ∧ (u.ten ten).note.getLsbD 5 = true

end Sys2Proof.Claims

/-- R4, R218, R294, R298, R313, R315, R316, R317, R342, R348..R350, R352, R355, R357, R358: pre-emption stops a gang and its
cores are saved, or it is held where a save area is not in memory (the model's reading of a page fault there); RESUME
restores a saved context or is refused; KILL and the tenancy reset end contexts; HALT parks a partition's threads and a
release frees them; the watchdogs report; a period's end clears the usage; the counters rotate; a PC sample goes to its
ring. How a header in memory is read, and what a RESUME takes from the kept context, is the model's (notes/assumptions/9);
so is what of a tenancy a reset ends (notes/assumptions/42), and that the owner of a core's cascade allows debug on it
(notes/assumptions/46). -/
def Obligations.ControlAndWatch : Prop :=
  ∀ (s : State) (c p : Nat) (ten : BitVec 4), p < 4 →
    (s.nodeOf c = none → Idle (.preempt c) s ∧ Idle (.preemptSave c) s ∧ (s.fallenOn c = none → Idle (.kill c) s))
    ∧ (∀ (nd : Node) (x : Ctx), s.nodeOf c = some nd → (s.core c).ctx = some x → nd.cores = [c] → (s.core c).draining = false →
      (Yields (.preempt c) s fun u => (u.core c).draining = true ∧ (u.core c).crdone = false ∧ u.mem = s.mem
        ∧ ∀ t th, s.thr? c t = some th → th.st = .ready → th.prog = none → ∃ th', u.thr? c t = some th'
          ∧ th'.pc = th.head ∧ th'.lats = [] ∧ th'.win = th.win)
      ∧ (Yields (.kill c) s fun u => (u.core c).ctx = none ∧ (u.core c).threads = [] ∧ tget? u.nodes x.node = none
        ∧ ∀ t th, s.thr? c t = some th → (t, 3) ∈ (u.core c).ended))
    ∧ (∀ (nd : Node) (x : Ctx), s.nodeOf c = some nd → (s.core c).ctx = some x → nd.cores = [c] → (s.core c).draining = true →
      (s.core c).drained = true → s.inFlight c = false → (s.core c).crheld = none →
      let area := bits (s.core c).crsave.toNat 51 16 * 2 ^ 16
      (area + 0x4B4000 ≤ 2 ^ 40 →
        Yields (.preemptSave c) s fun u => (u.core c).ctx = none ∧ (u.core c).crdone = true ∧ (u.core c).threads = []
          ∧ ∃ v ∈ u.saves, v.addr = area ∧ v.node = x.node ∧ v.core.sp = (s.core c).sp)
      ∧ (2 ^ 40 < area + 0x4B4000 →
        Yields (.preemptSave c) s fun u => (u.core c).ctx = some x ∧ (u.core c).draining = true ∧ u.saves = s.saves
          ∧ ∃ tok, (u.core c).crheld = some (area, tok)))
    ∧ (let area := bits (s.core c).crsave.toNat 51 16 * 2 ^ 16
      let header := cellsSlice s.mem area 0x10000
      s.check = [] →
      ((∀ v ∈ s.saves, v.head ≠ header) →
        let f := Config.headerField (header.map fun e => (e.1, e.2))
        Refuses s c (f 0 % 16) area ((refusal s c (f 0 % 16) (f 1) (f 2)).getD 2))
      ∧ (∀ (v : Save) (nd : Node), s.saves = [v] → v.head = header → tget? s.nodes v.node = some nd →
        (∀ k, refusal s c nd.ten v.index nd.gang = some k → Refuses s c nd.ten area k)
        ∧ (nd.gang = 1 → v.index = 0 → (s.core c).ctx = none → c / 8 < 24 →
          bitOf (s.ten nd.ten).ctl.toNat (cascadeOf c) = true →
          Yields (.resume c) s fun u => u.saves = [] ∧ (u.core c).ctx = v.core.ctx ∧ (u.core c).crdone = false
            ∧ (u.core c).slots = v.core.slots ∧ (u.core c).cistern = (v.core.reload s.mem v.addr).cistern
            ∧ (u.core c).sp = cellsSlice s.mem (v.addr + 0x2B0000) 1048576
            ∧ ∃ nd', tget? u.nodes v.node = some nd' ∧ nd'.cores = [c] ∧ nd'.saved = false)))
    ∧ (Yields (.tenancyReset ten) s fun u => (u.ten ten.toNat).used = [] ∧ (u.ten ten.toNat).sluices = []
        ∧ (u.ten ten.toNat).ctl.getLsbD 31 = false ∧ (u.ten ten.toNat).ctl.getLsbD 30 = false
        ∧ (u.ten ten.toNat).ctl.toNat % 2 ^ 24 = 0 ∧ (u.ten ten.toNat).root = 0 ∧ (u.ten ten.toNat).budgets = []
        ∧ (u.ten ten.toNat).wrper = 1024 ∧ (u.ten ten.toNat).frEn = false
        ∧ ∀ k < 192, (k, s.core k) ∈ s.cores → bitOf (s.ten ten.toNat).ctl.toNat (cascadeOf k) = true →
          (u.core k).threads = [] ∧ (u.core k).sp = [] ∧ (u.core k).ctx = none)
    ∧ (s.dbgAllowed c = false → Idle (.dbgHalt c p) s ∧ Idle (.dbgRel c p) s ∧ Idle (.dbgStep c p) s)
    ∧ (s.dbgAllowed c = true → (s.part c p).halted = false →
      Idle (.dbgRel c p) s ∧ Idle (.dbgStep c p) s
      ∧ Yields (.dbgHalt c p) s fun u => (u.part c p).halted = true
        ∧ ∀ t th, s.thr? c t = some th → posPart t = p → th.st = .ready → th.prog = none →
          ∃ th', u.thr? c t = some th' ∧ th'.st = .parked ∧ th'.wait.reason = 1 ∧ th'.pc = th.head ∧ th'.win = th.win)
    ∧ (∀ t th, s.dbgAllowed c = true → (s.part c p).halted = true → (s.core c).threads = [(t, th)] → posPart t = p →
      th.st = .parked → th.wait.reason = 1 →
      (Yields (.dbgRel c p) s fun u => (u.part c p).halted = false ∧ ∃ th', u.thr? c t = some th' ∧ th'.st = .ready)
      ∧ (Yields (.dbgStep c p) s fun u => (u.part c p).halted = false ∧ (u.part c p).stepping th.uid = true
        ∧ ∃ th', u.thr? c t = some th' ∧ th'.st = .ready))
    ∧ (∀ w, s.watch = [w] → s.watchDue w = false → Idle (.joinWatchdog 0) s)
    ∧ (∀ w, s.watch = [w] → s.watchDue w = true → s.check = [] →
      Yields (.joinWatchdog 0) s fun u => u.watch = []
        ∧ ((cellGet s.mem (w.pa + 1)).getLsbD 1 = false → (u.ten w.ten).note.getLsbD 2 = true ∧ .interrupt w.ten ∈ u.out))
    ∧ (∀ t th, s.thr? c t = some th → s.gaugeDue c th = true → (s.core c).gaugeStuck th = true →
      Yields (.gaugeWatchdog c t) s fun u => u.thr? c t = some { th with gwFired := true }
        ∧ (u.ten (s.core c).tenancy).note.getLsbD 3 = true)
    ∧ (s.periodDue ten.toNat = false → Idle (.weirPeriodBoundary ten) s)
    ∧ (s.periodDue ten.toNat = true → Yields (.weirPeriodBoundary ten) s fun u =>
        (u.ten ten.toNat).used = [] ∧ ∀ k, u.weirHolds ten.toNat k = decide (tget? (s.ten ten.toNat).budgets k = some 0))
    ∧ (s.rotationDue c p = false → Idle (.counterRotation c p) s)
    ∧ (∀ es, s.rotationDue c p = true → s.eventsOn c = es →
      let r := (s.part c p).rot
      Yields (.counterRotation c p) s fun u => (u.part c p).counting
          = (if es.length ≤ 8 then es else (es.filter (r ≤ ·) ++ es.filter (· < r)).take 8)
        ∧ (u.part c p).rot = (match (u.part c p).counting.getLast? with | some e => e + 1 | none => r))
    ∧ (s.sampleDue c p = false → Idle (.pcSample c p) s)
    ∧ (s.sampleDue c p = true → (s.core c).threads = [] → Yields (.pcSample c p) s fun u => u.mem = s.mem ∧ u.tens = s.tens)
    ∧ (∀ t th, (s.core c).threads = [(t, th)] → t / 1024 = p → s.sampleDue c p = true →
      let x := s.ten (s.core c).tenancy
      let lsz := bits x.smpb.toNat 4 0
      let pa := bits x.smpb.toNat 51 12 * 4096 + 16 * (x.smpTail.toNat % 2 ^ lsz)
      (lsz = 0 ∨ 2 ^ lsz ≤ (x.smpTail - x.smpHead).toNat → Yields (.pcSample c p) s fun u => u.mem = s.mem
        ∧ (x.smpLost ≠ 0xFFFFFFFF → (u.ten (s.core c).tenancy).smpLost = x.smpLost + 1))
      ∧ (lsz ≠ 0 → (x.smpTail - x.smpHead).toNat < 2 ^ lsz → s.trafficHeld (s.core c).tenancy .sample = false →
        pa + 16 ≤ 2 ^ 40 →
        Yields (.pcSample c p) s fun u => (u.ten (s.core c).tenancy).smpTail = x.smpTail + 1
          ∧ (Memory.wf s.mem = true → ∃ r z : Byte, cellsRead u.mem pa 16 = toBytes 4 th.pc.toNat
            ++ toBytes 4 s.time.toNat ++ [r, z] ++ toBytes 1 (s.core c).tenancy ++ [0] ++ toBytes 2 t ++ toBytes 2 c)))

/-! ### Steps, decoding, invariants, frames -/

namespace Sys2Proof.Claims

/-- Partition p of core c ready for its issue slot (R194, R211..R213, R215): emptied sprays leave the window; unless it is
halted, rows are brought up to date, MERGE groups are released and one spray is formed. -/
def prepared (r : State) (c p : Nat) : State :=
  let s := r.prune c p
  if (r.part c p).halted || (r.core c).draining then s
  else ((((s.yields c p).refresh c p).mergeRelease c p fun _ => true).form c p).yields c p

/-- The translations that fetching n words for each of some threads learns. -/
def learned (q : State) (c n : Nat) (ts : List Nat) : State :=
  ts.foldl (fun q t => match q.thr? c t with | some th => q.fetchLearn c th.region th.pc n | none => q) q

/-- The words at the PC of every thread of a spray are ws, which decode to the unit i, and its latches exist (R72, R87). -/
def Fetches (q : State) (c : Nat) (ts : List Nat) (ws : List Word) (i : Instr) (n : Nat) : Prop :=
  ts ≠ [] ∧ ∀ l t r, ts = l ++ t :: r → ∃ th, (learned q c ws.length l).thr? c t = some th
    ∧ (learned q c ws.length l).fetchWords c th.region th.pc 4 = .inl ws ∧ decodeUnit th.handler ws = .ok i n
    ∧ i.maxLatch ≤ th.lats.length

/-- The state in which a spray's unit runs: the cursor on its members, and on the one that a checker mismatch hits (R332). -/
def issuing (q : State) (c p : Nat) (ts : List Nat) (ws : List Word) (i : Instr) (n : Nat) : State :=
  let v := learned q c ws.length ts
  let chk := v.upsetOf c i ts
  { v with
    cur := { core := c, part := p, members := ts, word := ws.getD (n - 1) 0, len := n, upset := chk }
    upset := if chk.isSome then none else v.upset }

/-- The core's context has started, on a cascade that belongs to its tenancy (R293); the oldest spray of partition p that can
issue is ts, and its words are ws, the unit i (R87, R213). -/
def Picks (r : State) (c p : Nat) (ts : List Nat) (ws : List Word) (i : Instr) (n : Nat) : Prop :=
  ((r.core c).ctx.any fun x => x.started && bitOf (r.ten x.ten).ctl.toNat (cascadeOf c)) = true
  ∧ (∃ id, ((prepared r c p).part c p).window.find? (fun id =>
        (prepared r c p).sprayReady c (((prepared r c p).core c).members p id)) = some id
      ∧ ((prepared r c p).core c).behind (((prepared r c p).core c).members p id) = ts)
  ∧ Fetches (prepared r c p) c ts ws i n

end Sys2Proof.Claims

/-- R72, R87, R213: a step that gives its issue slot to partition p of core c runs the unit that the words at the PC of the
spray's threads decode to, as exec runs it, and counts it (R353); then a table outside memory stops the machine, and otherwise
the step ends (settle). A slot may put off its stores, and a step for such a store applies it (R252). A step for an event of
an agent runs that event, but for one of a core whose cascade belongs to no tenancy (R293). A fetched word is the
little-endian word at its address; prefixes go on to the next word. The model's choices: which step comes when
(notes/assumptions/2), the stop outside memory (notes/assumptions/17), late stores (notes/assumptions/63). -/
def Obligations.StepRunsDecodedUnit : Prop :=
  (∀ (s : State) (c p k n : Nat) (ts : List Nat) (ws : List Word) (i : Instr) (rest : List Pick) (ks : List Nat),
    k = c * 4 + p → p < 4 →
    let q (r : State) := prepared r c p
    (s.plan = .issue k :: rest → Picks { s.tick with plan := rest } c p ts ws i n →
      let st := issuing (q { s.tick with plan := rest }) c p ts ws i n
      step s = settle (counted i st (exec i st)))
    ∧ (s.plan = .delay k :: rest → Picks { s.tick with plan := rest, delay := true } c p ts ws i n →
      let st := issuing (q { s.tick with plan := rest, delay := true }) c p ts ws i n
      step s = undelay (settle (counted i st (exec i st))))
    ∧ (s.plan = [] → s.slotsFrom s.turn = k :: ks → Picks s.tick c p ts ws i n →
      let st := issuing (q s.tick) c p ts ws i n
      step s = settle (counted i st (exec i { st with turn := k + 1 }))))
  ∧ (∀ (s t : State) (i : Instr), ∃ u, counted i s (.next t) = .next u ∧ u.mem = t.mem ∧ u.bad = t.bad
      ∧ ∀ c k, u.thr? c k = t.thr? c k)
  ∧ (∀ (s : State) (c k : Nat) (rest : List Pick), s.plan = .apply c k :: rest →
      step s = settle (.next ({ s.tick with plan := rest }.applyLate c k)))
  ∧ (∀ (s : State) (i : Instr) (rest : List Pick), s.plan = .ev i :: rest →
      let st := { s.tick with plan := rest }
      step s = settle (if st.mayRun i then exec i { st with cur := .none } else .next { st with cur := .none }))
  ∧ (∀ (s : State) (i : Instr), s.plan = [] → s.slotsFrom s.turn = [] → s.tick.dueEvent = some i →
      let st := { s.tick with turn := s.tick.turnAfterEvent }
      step s = settle (if st.mayRun i then exec i { st with cur := .none } else .next { st with cur := .none }))
  ∧ (∀ (i : Instr) (s u : State) (pa : Nat), exec i s = .next u →
      (u.bad = none → settle (exec i s) = .next u.tidy) ∧ (u.bad = some pa → settle (exec i s) = .fault (.offMemory pa)))
  ∧ (∀ (q : State) (c : Nat) (region : BitVec 25) (pc : Word),
      let va := regionVa region pc
      ∀ (e : TlbEntry) (u : State), q.translateFetch c va = (.ok e, u) →
      let w : Word := BitVec.ofNat 32 (ofBytes (cellsRead u.mem (e.pa va) 4))
      e.attr = 0 → homeDie (e.pa va) = dieOf c → u.check = [] →
      (∀ nd, u.nodeOf c = some nd → nd.staged = []) →
      (isPrefix w = false → q.fetchWords c region pc 4 = .inl [w])
      ∧ (∀ ws, isPrefix w = true → u.fetchWords c region (pc + 4) 3 = .inl ws →
          q.fetchWords c region pc 4 = .inl (w :: ws)))

/-- R72..R82: words from the encodings of the spec, with the units they stand for; unassigned words, and a latch as a
destination (d = 124 here), are illegal instructions. -/
def Obligations.DecodeWords : Prop :=
  let always : Guard := { neg := false, p := 7 }
  let rz : Mode := { rm := 1, fzi := false, fzo := false, sat := false, n := false, w := false }
  let fzo : Mode := { rm := 0, fzi := false, fzo := true, sat := false, n := false, w := false }
  decodeUnit false [0x04808FAE] = .ok (.iadd none (.w 16) (.w 8) .it always false) 1
  ∧ decodeUnit false [0x23E7D20F] = .ok (.shl none .zr .it (.w 16) always true) 1
  ∧ decodeUnit false [0x37E01043] = .ok (.sel none .zr (.w 1) (.w 2) { neg := false, p := 1 } true) 1
  ∧ decodeUnit false [0x3E85380E] = .ok (.pand 5 5 false 3 true always false) 1
  ∧ decodeUnit false [0xFA200000, 0x5860B0EE] = .ok (.fmul (some rz) (.w 12) (.w 11) (.w 7) always false) 2
  ∧ decodeUnit false [0x8458A10E] = .ok (.cvt none (.w 11) (.w 10) .f32e4m3 always false) 1
  ∧ decodeUnit false [0x9858A09F] = .ok (.sari none none (.w 11) (.w 10) 31) 1
  ∧ decodeUnit false [0xA0E960E2] = .ok (.ldg none (.w 29) (.w 22) .b8 always 2) 1
  ∧ decodeUnit false [0xA45968E5] = .ok (.stg none (.w 11) (.w 22) .b32 always 5) 1
  ∧ decodeUnit false [0xB030AEE0] = .ok (.atomg none none (.w 6) (.w 10) .cas always 0) 1
  ∧ decodeUnit false [0xB8A051E0] = .ok (.ldm none 40 (.w 10) 15 false 0) 1
  ∧ decodeUnit false [0xBCE1606E] = .ok (.hrun (.w 28) (.w 22) always false) 1
  ∧ decodeUnit false [0xC17FFFF5] = .ok (.br { neg := false, p := 5 } 0x3FFFF5) 1
  ∧ decodeUnit false [0xCC1100CE] = .ok (.gets (.w 2) 0x10 always false) 1
  ∧ decodeUnit false [0xFA080000, 0xD0E00308] = .ok (.mma none (some fzo) 6 2) 2
  ∧ decodeUnit false [0xD4BF0D01] = .ok (.prclrOwn none .zr (.w 26)) 1
  ∧ decodeUnit false [0xD8048800] = .ok (.spawn none (.w 18) (.w 16) 0 0) 1
  ∧ decodeUnit false [0xDC808200] = .ok (.next none (.w 2) (.w 4)) 1
  ∧ decodeUnit false [0xE018200E] = .ok (.movx (.w 3) false 2 always false) 1
  ∧ decodeUnit false [0] = .trap .illegalInstruction 0 0
  ∧ decodeUnit false [0xFC000000] = .trap .illegalInstruction 0 0xFC000000
  ∧ decodeUnit false [0x07C00FAE] = .trap .illegalInstruction 0 0x07C00FAE

/-- R72..R82: for every well-formed unit the decoder reads from the unit's words the unit itself, with their number. -/
def Obligations.DecodeEncode : Prop :=
  ∀ i : Instr, i.wf = true → decodeUnit false (encode i) = .ok i (encode i).length

/-- Memory, every scratchpad and every saved scratchpad keep their canonical form in every step, so that equal memories
are equal data. -/
def Obligations.StoresStayCanonical : Prop :=
  ∀ s t : State, s.storesWf = true → step s = .next t → t.storesWf = true

/-- R26, R246, R263, R295, R297, R310, R350, R360, R368: right after reset no core has a context and no tenancy is enabled;
the byte stores are in canonical form. The initial values of a thread and of a core come with their placement
(ThreadsArise). Where the spec gives no value, the model's choices: 0 (notes/assumptions/4), memory that reads 0
(notes/assumptions/3), a schedule that holds nothing (notes/assumptions/2). -/
def Obligations.ResetState : Prop :=
  State.reset.storesWf = true
  ∧ (∀ c, (State.reset.core c).ctx = none ∧ (State.reset.core c).threads = [] ∧ (State.reset.core c).mxq = []
      ∧ (State.reset.core c).copies = [] ∧ (∀ l, (State.reset.core c).lineAttr l = .reset))
  ∧ (∀ d, (State.reset.die d).vc = [0, 0, 0, 0, 0, 0, 0, 0] ∧ (State.reset.die d).inbound = [])
  ∧ (∀ t, (State.reset.ten t).ctl = 0 ∧ (State.reset.ten t).wrper = 1024 ∧ (State.reset.ten t).budgets = []
      ∧ (State.reset.ten t).host = 0xFFFFFFFF ∧ (State.reset.ten t).frEn = false ∧ (State.reset.ten t).token = 0
      ∧ (State.reset.ten t).gwdlim = 0 ∧ (State.reset.ten t).rr = 0)
  ∧ (∀ t k, State.reset.weirHolds t k = false)
  ∧ State.reset.pwrlim = 2200 ∧ State.reset.running = false ∧ State.reset.plan = []
  ∧ (∀ pa, cellGet State.reset.mem pa = 0)

/-- exec answers a next state for every instruction; a step answers a next state, or the fault of a physical address
without memory. Ordinary data never ends a run. That fault is the model's choice (notes/assumptions/17), and so is that a
row which finds nothing to do answers the state as it is (notes/assumptions/28). -/
def Obligations.EveryStepAnswers : Prop :=
  (∀ (i : Instr) (s : State), ∃ t, exec i s = .next t)
  ∧ ∀ s : State, (∃ t, step s = .next t) ∨ ∃ pa, step s = .fault (.offMemory pa)

namespace Sys2Proof.Claims

/-- A thread's own marks of a unit that completes: synchronising units whose guard is true are numbered (the model's reading,
notes/assumptions/70), and a block transfer leaves nothing of itself (R109, R150, R361). -/
def passed (th : Thread) (i : Instr) : Thread :=
  { (if i.isBlk then th.dropBlock else th) with
    rrIndex := if i.isSync && !th.rrStop && guardHolds th.win.preds i.guard then th.rrIndex + 1 else th.rrIndex, released := false }

/-- The unit i is about to run for thread t from its beginning, with no deferred access and no checker mismatch. -/
structure Runs (i : Instr) (s : State) (c t : Nat) (th : Thread) : Prop where
  unit    : i.isUnit = true
  core    : s.cur.core = c
  members : s.cur.members = [t]
  thread  : s.thr? c t = some th
  guard   : guardHolds th.win.preds i.guard = true
  noLog   : th.log = none
  begins  : th.prog = none
  noUpset : s.cur.upset = none

end Sys2Proof.Claims

/-- R73, R84, R85, R90, R172: a unit whose guard is false only completes. A unit with chain bit 1 among the first 15 of its
chain leaves its latch for the next unit; any other ends the chain: the next unit heads a new chain, latches are
discarded, and the thread goes back to the PC table. -/
def Obligations.GuardsAndChains : Prop :=
  (∀ (i : Instr) (s : State) (c t : Nat) (th : Thread), i.isUnit = true → s.cur.core = c → s.cur.members = [t] →
    s.thr? c t = some th → guardHolds th.win.preds i.guard = false → exec i s = .next (s.complete c t i (.val 0)))
  ∧ (∀ (i : Instr) (s : State) (c t : Nat) (th : Thread) (l : Latch), s.thr? c t = some th →
    (i.chain = true → th.lats.length < 15 → s.complete c t i l = s.setThr c t
      { passed th i with
        pc := th.pc + wd (4 * s.cur.len), lats := l :: th.lats, rrChain := th.rrChain + 1, prog := none })
    ∧ ((i.chain = false ∨ 15 ≤ th.lats.length) → th.retry = 0 → (s.part c (posPart t)).stepping th.uid = false →
      s.complete c t i l = s.setThr c t
        { passed th i with
          pc := th.pc + wd (4 * s.cur.len), head := th.pc + wd (4 * s.cur.len), lats := [], retry := 0, prog := none
          mark := th.mark.filter fun m => m.head != th.head
          rrCount := th.rrCount + th.rrChain + 1, rrChain := 0, st := .ready, readyAt := s.cycle }))

/-- R15..R21, R24, R31, R88: zr reads 0 and discards writes; w_k is allocation entry $wbase + k, one word of the thread's
own after it is written, the template's value while it is shared; pairs; latches; it; ax elements. A register above the
allocation, and an element above its limit, raise their faults, for every unit. -/
def Obligations.RegisterFile : Prop :=
  (∀ (s : State) (c t : Nat) (th : Thread) (v : Word) (x : DWord), s.thr? c t = some th →
    s.src c t .zr = 0 ∧ s.src64 c t .zr = 0 ∧ s.dst c t .zr v = s ∧ s.dst64 c t .zr x = s
    ∧ s.src c t .it = th.it
    ∧ (th.item1 = 0xFFFFFFFF → th.item2 = 0xFFFFFFFF → s.src c t .it = th.item0)
    ∧ (th.item2 ≠ 0xFFFFFFFF → s.src c t .it = th.item2)
    ∧ (th.item1 ≠ 0xFFFFFFFF → th.item2 = 0xFFFFFFFF → s.src c t .it = th.item1)
    ∧ (∀ (k : BitVec 2) (y : DWord), th.lats[k.toNat]? = some (.val y) →
        s.src c t (.b k) = y.setWidth 32 ∧ s.src64 c t (.b k) = y)
    ∧ (∀ k : BitVec 7, s.src64 c t (.w k) = s.reg c t (k.toNat + 1) ++ s.reg c t k.toNat)
    ∧ (∀ k : BitVec 7, (s.dst c t (.w k) v).src c t (.w k) = v
        ∧ (∀ j : BitVec 7, j ≠ k → (s.dst c t (.w k) v).src c t (.w j) = s.src c t (.w j))
        ∧ (∀ u, u ≠ t → (s.dst c t (.w k) v).thr? c u = s.thr? c u)
        ∧ ∃ th', (s.dst c t (.w k) v).thr? c t = some th' ∧ th'.win.isOwn (th.win.wbase + k.toNat) = true)
    ∧ (∀ k : BitVec 7, k.toNat < 127 → (s.dst64 c t (.w k) x).src64 c t (.w k) = x)
    ∧ (∀ n : Bool, Memory.wf (s.core c).sp = true → (s.dst c t (.ax n) v).src c t (.ax n) = v)
    ∧ (∀ (k : BitVec 7) (n : Nat) (tm : Template), th.win.ent (th.win.wbase + k.toNat) = .ref n →
        tget? (s.part c (posPart t)).tmpls n = some tm → ∀ y, tm.win.ent (th.win.wbase + k.toNat) = .own y →
        s.src c t (.w k) = y))
  ∧ (∀ (i : Instr) (s : State) (c t : Nat) (th : Thread), Runs i s c t th →
    (∀ e, checkWindow th.win i.srcs i.dsts = .error e → exec i s = .next (s.stopAt c t e))
    ∧ (checkWindow th.win i.srcs i.dsts = .ok () →
        (∀ e, checkBounds th i.srcs [] = .error e → exec i s = .next (s.stopAt c t e))
        ∧ (checkBounds th i.srcs [] = .ok () →
          (∀ e, checkElemBounds th i = .error e → exec i s = .next (s.stopAt c t e))
          ∧ (checkElemBounds th i = .ok () → ∀ e, checkBounds th [] i.dsts = .error e →
              exec i s = .next (s.stopAt c t e)))))
  ∧ (∀ (th : Thread) (i : Instr) (n : Bool) (k : BitVec 2), i.elem = some (n, k) → (th.ar n).lim.toNat ≤ (th.ix k.toNat).toNat →
      checkElemBounds th i = .error (fault1 2 [wd n.toNat, wd k.toNat, wd (th.ix k.toNat).toNat, wd (th.ar n).lim.toNat]))
  ∧ (∀ (w : Window) (k : BitVec 7) (rs : List Rd) (ds : List Wr), w.alloc ≤ w.wbase + k.toNat →
      checkWindow w (.f (.w k) 1 :: rs) ds = .error (fault1 1 [wd k.toNat, wd (w.wbase + k.toNat)]))
  ∧ (∀ (w : Window) (k : BitVec 7), w.wbase + k.toNat < w.alloc → checkWindow w [.f (.w k) 1] [.f (.w k) 1] = .ok ())
  ∧ (∀ (th : Thread) (n : Bool) (rs : List Rd) (ds : List Wr),
      let ix := if n then th.win.ix1 else th.win.ix0
      (th.ar n).lim.toNat ≤ ix.toNat →
      checkBounds th (.f (.ax n) 1 :: rs) ds = .error (fault1 2 [wd n.toNat, wd ix.toNat, wd (th.ar n).lim.toNat]))

namespace Sys2Proof.Claims

/-- Units that write predicates. -/
def predUnit : Instr → Bool
  | .pand .. | .por .. | .pxor .. | .movp .. | .setp .. | .w2p .. | .cmp .. | .cmpi .. | .fcmp .. | .hcmp .. => true
  | _ => false

/-- Units that write registers or predicates and nothing else: integer, predicate, immediate, float and convert units, and
the reads of MOVX.index, TAGRD and CNTRD. -/
def registerUnit (i : Instr) : Bool :=
  predUnit i || match i with
  | .iadd .. | .isub .. | .imul .. | .imulw .. | .and .. | .or .. | .xor .. | .shl .. | .shr .. | .sar .. | .imin ..
  | .imax .. | .sel .. | .mov .. | .not .. | .neg .. | .abs .. | .popc .. | .clz .. | .ctz .. | .brev .. | .sxb ..
  | .sxh .. | .zxb .. | .zxh .. | .bswap .. | .p2w .. => true
  | .fadd .. | .fsub .. | .fmul .. | .ffma .. | .ffms .. | .fmin .. | .fmax .. | .fneg .. | .fabs .. | .fsqrt ..
  | .frcp .. | .frsq .. | .fex2 .. | .flg2 .. | .fsin .. | .fcos .. | .fflr .. | .fceil .. | .ftrnc .. | .frint ..
  | .fcls .. | .hadd2 .. | .hmul2 .. | .hfma2 .. | .hmin2 .. | .hmax2 .. | .hneg2 .. | .habs2 .. | .hsqrt2 ..
  | .hrcp2 .. | .cvt .. => true
  | .iaddi .. | .andi .. | .ori .. | .xori .. | .shli .. | .shri .. | .sari .. | .lui .. => true
  | .movxIndex .. | .tagrd .. | .cntrd .. => true
  | _ => false

/-- The scratchpad elements a unit writes, as offsets of 4 bytes. -/
def elemsOut (th : Thread) (i : Instr) : List Nat :=
  i.dsts.filterMap fun r => match r with | .f (.ax n) _ => some (th.axElem n) | _ => none

/-- What completing leaves alone in a thread: everything but its place in the PC table and in its chain, and its window. -/
def keepsThread (th th' : Thread) : Prop :=
  th' = { th with
    st := th'.st, pc := th'.pc, head := th'.head, lats := th'.lats, retry := th'.retry, prog := th'.prog
    rrCount := th'.rrCount, rrChain := th'.rrChain, rrIndex := th'.rrIndex, released := th'.released
    readyAt := th'.readyAt, mark := th'.mark, win := th'.win }

/-- What a unit of one thread leaves alone in the machine: everything but core c, and there every other thread, the matrix
queues, the cistern, the weight banks, the header slots, and all a partition holds but its counters. -/
def keepsMachine (s u : State) (c t : Nat) : Prop :=
  u = { s with cores := u.cores }
  ∧ (∀ d, d ≠ c → u.core d = s.core d)
  ∧ (∀ t', t' ≠ t → u.thr? c t' = s.thr? c t')
  ∧ (∀ p, p < 4 → u.part c p = { s.part c p with counts := (u.part c p).counts })
  ∧ ∃ v, u.core c = v ∧ v = { s.core c with
      threads := v.threads, p0 := v.p0, p1 := v.p1, p2 := v.p2, p3 := v.p3, ercore := v.ercore, sp := v.sp
      spPoison := v.spPoison, attrs := v.attrs, copies := v.copies }

end Sys2Proof.Claims

/-- The frame of the units that write registers or predicates: memory, the special and exception registers, every other
thread and every register but the destinations of the unit are unchanged, predicates but in a predicate unit, and the
scratchpad but the bytes of an ax destination. -/
def Obligations.RegisterUnitFrame : Prop :=
  ∀ (i : Instr) (s u : State) (c t : Nat) (th : Thread), registerUnit i = true → Solo i noPre s c t th →
    exec i s = .next u →
    keepsMachine s u c t
    ∧ (∃ th', u.thr? c t = some th' ∧ keepsThread th th'
        ∧ th'.win = { th.win with ents := th'.win.ents, preds := th'.win.preds }
        ∧ (predUnit i = false → th'.win.preds = th.win.preds)
        ∧ ∀ k, k ∉ writeEnts th.win i.dsts → th'.win.ent k = th.win.ent k)
    ∧ (elemsOut th i = [] → (u.core c).sp = (s.core c).sp ∧ (u.core c).attrs = (s.core c).attrs
        ∧ (u.core c).spPoison = (s.core c).spPoison ∧ (u.core c).copies = (s.core c).copies)
    ∧ (Memory.wf (s.core c).sp = true → ∀ a, (∀ o ∈ elemsOut th i, a < o ∨ o + 4 ≤ a) →
        cellGet (u.core c).sp a = cellGet (s.core c).sp a)

/-- The frame of STS, STX and STG: the bytes of the address the store computes may change, every other byte of the
scratchpad and of memory reads as before; no register, predicate or special register changes. -/
def Obligations.StoreFrame : Prop :=
  (∀ (x : Option (BitVec 24)) (d a : Src) (sz : StSz) (g : Guard) (off : BitVec 5) (s u : State) (c t : Nat) (th : Thread),
    let o := (ea x a off (stBytes sz) s c t).toNat
    Solo (.sts x d a sz g off) noPre s c t th → aligned x a off (stBytes sz) s c t → axFree s c t [] [a, d] →
    spStores o (stBytes sz) s c → Memory.wf (s.core c).sp = true →
    exec (.sts x d a sz g off) s = .next u →
    keepsMachine s u c t
    ∧ (∃ th', u.thr? c t = some th' ∧ keepsThread th th' ∧ th'.win = th.win)
    ∧ ∀ b, b < o ∨ o + stBytes sz ≤ b → cellGet (u.core c).sp b = cellGet (s.core c).sp b)
  ∧ (∀ (n : Bool) (k : BitVec 2) (a : Src) (g : Guard) (ch : Bool) (s u : State) (c t : Nat) (th : Thread),
    let o := arrElem (th.ar n) (th.ix k.toNat)
    Solo (.stx n k a g ch) noPre s c t th → elemWrites n k a s c t th → Memory.wf (s.core c).sp = true →
    exec (.stx n k a g ch) s = .next u →
    keepsMachine s u c t
    ∧ (∃ th', u.thr? c t = some th' ∧ keepsThread th th' ∧ th'.win = th.win)
    ∧ ∀ b, b < o ∨ o + 4 ≤ b → cellGet (u.core c).sp b = cellGet (s.core c).sp b)
  ∧ (∀ (x : Option (BitVec 24)) (d a : Src) (sz : StSz) (g : Guard) (off : BitVec 5) (e : TlbEntry) (s u : State) (c t : Nat)
      (th : Thread),
    let n := stBytes sz
    let va := regionVa th.region (ea x a off n s c t)
    Solo (.stg x d a sz g off) noPre s c t th → aligned x a off n s c t → axFree s c t [] [a, d] →
    s.cached c (posPart t * 32 + posLane t) va = some e → s.checkEntry e va .store = .ok e →
    s.checkStage c (e.pa va) n = .ok () → (∀ p ∈ th.pend, p.reads (e.pa va) n = false) →
    (e.attr = 1 → s.replayable c = true ∨ s.atomicReady (dieOf c) (e.pa va) = true) →
    s.check = [] → Memory.wf s.mem = true → exec (.stg x d a sz g off) s = .next u →
    (∀ b, b < e.pa va ∨ e.pa va + n ≤ b → cellGet u.mem b = cellGet s.mem b)
    ∧ (∀ k, (u.core k).sp = (s.core k).sp)
    ∧ (∀ t', t' ≠ t → u.thr? c t' = s.thr? c t')
    ∧ ∃ th', u.thr? c t = some th' ∧ th'.win = th.win ∧ th'.epc = th.epc ∧ th'.ecause = th.ecause ∧ th'.evec = th.evec
        ∧ th'.handler = th.handler ∧ th'.errs = th.errs ∧ th'.pend = th.pend)
end

