-- ==== Sys2Proof/Laws/Memory.lean ====
section
/-! SUPPORT. Laws of the sparse tables and of the byte stores: what is read after a write, and the canonical form. -/

namespace Sys2Proof.Machine

/-! ### Sparse tables -/

@[simp] theorem tget?_nil {α : Type} (k : Nat) : tget? ([] : Tbl α) k = none := rfl

@[simp] theorem tget?_tset_same {α : Type} (t : Tbl α) (k : Nat) (v : α) : tget? (tset t k v) k = some v := by
  induction t with
  | nil => simp [tset, tget?]
  | cons e t ih =>
    obtain ⟨i, w⟩ := e
    unfold tset
    split_ifs with h1 h2
    · simp [tget?]
    · simp [tget?]
    · simp [tget?, h1, ih]

@[simp] theorem tget?_tset_ne {α : Type} (t : Tbl α) {k j : Nat} (v : α) (h : j ≠ k) :
    tget? (tset t k v) j = tget? t j := by
  induction t with
  | nil => simp [tset, tget?, h.symm]
  | cons e t ih =>
    obtain ⟨i, w⟩ := e
    unfold tset
    split_ifs with h1 h2
    · subst h1; simp [tget?, h.symm]
    · simp [tget?, h.symm]
    · simp [tget?, ih]

@[simp] theorem tget_tset_same {α : Type} (d : α) (t : Tbl α) (k : Nat) (v : α) : tget d (tset t k v) k = v := by
  simp [tget]

@[simp] theorem tget_tset_ne {α : Type} (d : α) (t : Tbl α) {k j : Nat} (v : α) (h : j ≠ k) :
    tget d (tset t k v) j = tget d t j := by
  simp [tget, h]

/-- Writing an entry twice keeps the second value. -/
@[simp] theorem tset_tset {α : Type} (t : Tbl α) (k : Nat) (v w : α) : tset (tset t k v) k w = tset t k w := by
  induction t with
  | nil => simp [tset]
  | cons e t ih =>
    obtain ⟨i, x⟩ := e
    by_cases h1 : i = k
    · simp [tset, h1]
    · by_cases h2 : k < i
      · simp [tset, h1, h2]
      · simp [tset, h1, h2, ih]

theorem tget?_tmod_same {α : Type} (t : Tbl α) (k : Nat) (f : α → α) :
    tget? (tmod t k f) k = (tget? t k).map f := by
  unfold tmod
  cases h : tget? t k with
  | none => simp [h]
  | some v => simp

@[simp] theorem tget?_tmod_ne {α : Type} (t : Tbl α) {k j : Nat} (f : α → α) (h : j ≠ k) :
    tget? (tmod t k f) j = tget? t j := by
  unfold tmod
  split <;> simp [h]

/-! ### Byte stores -/

/-- The canonical form of a store whose addresses are all at least a bound. -/
def Memory.wfFrom (lo : Nat) : List Host.Cell → Bool
  | [] => true
  | (i, b) :: m => b != 0 && decide (lo ≤ i) && Memory.wfFrom (i + 1) m

theorem Memory.wf_iff_from (m : List Host.Cell) : Memory.wf m = Memory.wfFrom 0 m := by
  have key : ∀ (m : List Host.Cell) (i : Nat) (b : Byte),
      Memory.wf ((i, b) :: m) = (b != 0 && Memory.wfFrom (i + 1) m) := by
    intro m
    induction m with
    | nil => intro i b; simp [Memory.wf, Memory.wfFrom]
    | cons e m ih =>
      intro i b
      obtain ⟨j, c⟩ := e
      rw [Memory.wf, ih, Memory.wfFrom]
      by_cases h : i < j <;> cases hb : (b != 0) <;> cases hc : (c != 0) <;> simp [h]
  cases m with
  | nil => rfl
  | cons e m => obtain ⟨i, b⟩ := e; rw [key, Memory.wfFrom]; simp

theorem Memory.wfFrom_mono {lo lo' : Nat} (h : lo' ≤ lo) {m : List Host.Cell} (w : Memory.wfFrom lo m = true) :
    Memory.wfFrom lo' m = true := by
  cases m with
  | nil => rfl
  | cons e m =>
    obtain ⟨i, b⟩ := e
    simp only [Memory.wfFrom, Bool.and_eq_true, decide_eq_true_eq] at w ⊢
    exact ⟨⟨w.1.1, le_trans h w.1.2⟩, w.2⟩

/-- The canonical form of a store with a first cell. -/
theorem Memory.wfFrom_cons {lo i : Nat} {b : Byte} {m : List Host.Cell} :
    Memory.wfFrom lo ((i, b) :: m) = true ↔ b ≠ 0#8 ∧ lo ≤ i ∧ Memory.wfFrom (i + 1) m = true := by
  simp [Memory.wfFrom, and_assoc]

theorem Memory.wfFrom_cellSet {lo a : Nat} (b : Byte) {m : List Host.Cell} (hlo : lo ≤ a)
    (w : Memory.wfFrom lo m = true) : Memory.wfFrom lo (cellSet m a b) = true := by
  induction m generalizing lo with
  | nil =>
    by_cases h : b = 0#8
    · simp [cellSet, h, Memory.wfFrom]
    · simpa [cellSet, h, Memory.wfFrom_cons, Memory.wfFrom] using hlo
  | cons e m ih =>
    obtain ⟨i, c⟩ := e
    obtain ⟨hc, hi, hm⟩ := Memory.wfFrom_cons.1 w
    unfold cellSet
    split_ifs with h1 h2 h3 h4
    · exact Memory.wfFrom_cons.2 ⟨hc, hi, ih (Nat.succ_le_of_lt h1) hm⟩
    · exact Memory.wfFrom_mono (by omega) hm
    · subst h2; exact Memory.wfFrom_cons.2 ⟨h3, hlo, hm⟩
    · exact w
    · exact Memory.wfFrom_cons.2 ⟨h4, hlo, Memory.wfFrom_cons.2 ⟨hc, by omega, hm⟩⟩

/-- Writing one byte keeps the canonical form. -/
theorem Memory.wf_cellSet {m : List Host.Cell} (a : Nat) (b : Byte) (w : Memory.wf m = true) :
    Memory.wf (cellSet m a b) = true := by
  rw [Memory.wf_iff_from] at w ⊢
  exact Memory.wfFrom_cellSet b (Nat.zero_le _) w

/-- Writing bytes keeps the canonical form. -/
theorem Memory.wf_cellsWrite {m : List Host.Cell} (a : Nat) (bs : List Byte) (w : Memory.wf m = true) :
    Memory.wf (cellsWrite m a bs) = true := by
  induction bs generalizing m a with
  | nil => exact w
  | cons b bs ih => exact ih (a + 1) (Memory.wf_cellSet a b w)

theorem cellGet_below {lo a : Nat} {m : List Host.Cell} (w : Memory.wfFrom lo m = true) (h : a < lo) :
    cellGet m a = 0 := by
  cases m with
  | nil => rfl
  | cons e m =>
    obtain ⟨i, b⟩ := e
    obtain ⟨-, hi, -⟩ := Memory.wfFrom_cons.1 w
    have h1 : i ≠ a := by omega
    have h2 : a < i := by omega
    simp [cellGet, h1, h2]

theorem cellGet_cellSet_from {lo a j : Nat} (b : Byte) {m : List Host.Cell} (w : Memory.wfFrom lo m = true) :
    cellGet (cellSet m a b) j = if j = a then b else cellGet m j := by
  induction m generalizing lo with
  | nil =>
    by_cases hb : b = 0#8
    · simp [cellSet, hb, cellGet]
    · by_cases hj : j = a
      · simp [cellSet, hb, cellGet, hj]
      · simp [cellSet, hb, cellGet, hj, Ne.symm hj]
  | cons e m ih =>
    obtain ⟨i, c⟩ := e
    obtain ⟨hc, hi, hm⟩ := Memory.wfFrom_cons.1 w
    have hz : ∀ k, k ≤ i → cellGet m k = 0 := fun k hk => cellGet_below hm (by omega)
    rcases Nat.lt_trichotomy i a with h1 | h1 | h1
    · have e : cellSet ((i, c) :: m) a b = (i, c) :: cellSet m a b := by simp [cellSet, h1]
      rw [e, cellGet, cellGet, ih hm]
      split_ifs <;> first | rfl | omega
    · subst h1
      by_cases hb : b = 0#8
      · have e : cellSet ((i, c) :: m) i b = m := by simp [cellSet, hb]
        rw [e, cellGet]
        split_ifs with h2 h3 h4
        · rw [hz j (by omega), hb]; rfl
        · omega
        · exact hz j (by omega)
        · rfl
      · have e : cellSet ((i, c) :: m) i b = (i, b) :: m := by simp [cellSet, hb]
        rw [e, cellGet, cellGet]
        split_ifs <;> first | rfl | omega
    · have n1 : ¬ i < a := by omega
      have n2 : ¬ i = a := by omega
      by_cases hb : b = 0#8
      · have e : cellSet ((i, c) :: m) a b = (i, c) :: m := by simp [cellSet, n1, n2, hb]
        rw [e, cellGet]
        split_ifs <;> first | rfl | omega | exact hb.symm
      · have e : cellSet ((i, c) :: m) a b = (a, b) :: (i, c) :: m := by simp [cellSet, n1, n2, hb]
        rw [e, cellGet, cellGet]
        split_ifs <;> first | rfl | omega

/-- A read after a write of one byte. -/
theorem cellGet_cellSet {m : List Host.Cell} (w : Memory.wf m = true) (a j : Nat) (b : Byte) :
    cellGet (cellSet m a b) j = if j = a then b else cellGet m j := by
  rw [Memory.wf_iff_from] at w
  exact cellGet_cellSet_from b w

/-- A read after a write of bytes: the written byte inside, the old byte outside. -/
theorem cellGet_cellsWrite {m : List Host.Cell} (w : Memory.wf m = true) (a j : Nat) (bs : List Byte) :
    cellGet (cellsWrite m a bs) j =
      if a ≤ j ∧ j < a + bs.length then bs[j - a]?.getD 0 else cellGet m j := by
  induction bs generalizing m a with
  | nil => simp [cellsWrite]
  | cons b bs ih =>
    rw [cellsWrite, ih (Memory.wf_cellSet a b w), cellGet_cellSet w]
    by_cases h : j = a
    · subst h; simp
    · by_cases h2 : a + 1 ≤ j ∧ j < a + 1 + bs.length
      · have h3 : j - a = (j - (a + 1)) + 1 := by omega
        rw [if_pos h2, if_pos (by simp; omega), h3, List.getElem?_cons_succ]
      · rw [if_neg h2, if_neg h, if_neg (by simp; omega)]

@[simp] theorem cellsRead_length (m : List Host.Cell) (a n : Nat) : (cellsRead m a n).length = n := by
  induction n generalizing a with
  | zero => rfl
  | succ n ih => simp [cellsRead, ih]

/-- Bytes that no write touches read as before. -/
theorem cellsRead_congr {m m' : List Host.Cell} {a n : Nat}
    (h : ∀ j, a ≤ j → j < a + n → cellGet m' j = cellGet m j) : cellsRead m' a n = cellsRead m a n := by
  induction n generalizing a with
  | zero => rfl
  | succ n ih =>
    rw [cellsRead, cellsRead, h a le_rfl (by omega), ih fun j h1 h2 => h j (by omega) (by omega)]

/-- Reading back what was written. -/
theorem cellsRead_cellsWrite {m : List Host.Cell} (w : Memory.wf m = true) (a : Nat) (bs : List Byte) :
    cellsRead (cellsWrite m a bs) a bs.length = bs := by
  induction bs generalizing m a with
  | nil => rfl
  | cons b bs ih =>
    rw [List.length_cons, cellsRead, cellsWrite, ih (Memory.wf_cellSet a b w),
      cellGet_cellsWrite (Memory.wf_cellSet a b w), if_neg (by omega), cellGet_cellSet w, if_pos rfl]

end Sys2Proof.Machine
end

