-- ==== Sys2Proof/Laws/Image.lean ====
section
/-! SUPPORT. The whole-area operations over byte stores (a save area written and read back, R314, R315) and an error in
stored bits (R335) keep the canonical form. -/

namespace Sys2Proof.Machine

/-- Some of the cells of a store. -/
theorem Memory.wfFrom_filter {lo : Nat} (p : Host.Cell → Bool) {m : List Host.Cell} (w : Memory.wfFrom lo m = true) :
    Memory.wfFrom lo (m.filter p) = true := by
  induction m generalizing lo with
  | nil => rfl
  | cons e m ih =>
    obtain ⟨i, b⟩ := e
    obtain ⟨hb, hi, hm⟩ := Memory.wfFrom_cons.1 w
    rw [List.filter_cons]
    split
    · exact Memory.wfFrom_cons.2 ⟨hb, hi, ih hm⟩
    · exact Memory.wfFrom_mono (by omega) (ih hm)

/-- Two stores, all the addresses of the first below those of the second. -/
theorem Memory.wfFrom_append {lo mid : Nat} {m n : List Host.Cell} (w : Memory.wfFrom lo m = true)
    (h : ∀ e ∈ m, e.1 < mid) (hlo : lo ≤ mid) (v : Memory.wfFrom mid n = true) : Memory.wfFrom lo (m ++ n) = true := by
  induction m generalizing lo with
  | nil => exact Memory.wfFrom_mono hlo v
  | cons e m ih =>
    obtain ⟨i, b⟩ := e
    obtain ⟨hb, hi, hm⟩ := Memory.wfFrom_cons.1 w
    have hi' : i < mid := h (i, b) (by simp)
    exact Memory.wfFrom_cons.2 ⟨hb, hi, ih hm (fun e he => h e (by simp [he])) hi'⟩

theorem Memory.wfFrom_cellsFrom (a : Nat) (bs : List Byte) : Memory.wfFrom a (cellsFrom a bs) = true := by
  induction bs generalizing a with
  | nil => rfl
  | cons b bs ih =>
    rw [cellsFrom]
    split
    · exact Memory.wfFrom_mono (by omega) (ih (a + 1))
    · exact Memory.wfFrom_cons.2 ⟨‹_›, le_rfl, ih (a + 1)⟩

theorem cellsFrom_bound {a : Nat} {bs : List Byte} {e : Host.Cell} (h : e ∈ cellsFrom a bs) : e.1 < a + bs.length := by
  induction bs generalizing a with
  | nil => simp [cellsFrom] at h
  | cons b bs ih =>
    rw [cellsFrom] at h
    rw [List.length_cons]
    split at h
    · have := ih h; omega
    · obtain rfl | h := List.mem_cons.1 h
      · simp
      · have := ih h; omega

/-- The cells of a store at or above a bound. -/
theorem Memory.wfFrom_above {lo a : Nat} {m : List Host.Cell} (w : Memory.wfFrom lo m = true) :
    Memory.wfFrom a (m.filter fun e => decide (a ≤ e.1)) = true := by
  induction m generalizing lo with
  | nil => rfl
  | cons e m ih =>
    obtain ⟨i, b⟩ := e
    obtain ⟨hb, hi, hm⟩ := Memory.wfFrom_cons.1 w
    rw [List.filter_cons]
    split
    · rename_i h
      exact Memory.wfFrom_cons.2 ⟨hb, of_decide_eq_true h, Memory.wfFrom_filter _ hm⟩
    · exact ih hm

/-- Memory with an area written whole keeps the canonical form (R314). -/
theorem Memory.wf_cellsSplice {m : List Host.Cell} (a : Nat) (bs : List Byte) (w : Memory.wf m = true) :
    Memory.wf (cellsSplice m a bs) = true := by
  rw [Memory.wf_iff_from] at w ⊢
  rw [cellsSplice, List.append_assoc]
  refine Memory.wfFrom_append (mid := a) (Memory.wfFrom_filter _ w) (by simp) (Nat.zero_le _) ?_
  exact Memory.wfFrom_append (Memory.wfFrom_cellsFrom a bs) (fun e he => cellsFrom_bound he) (by omega)
    (Memory.wfFrom_above w)

/-- A store moved down keeps the canonical form. -/
theorem Memory.wfFrom_sub {lo a : Nat} {m : List Host.Cell} (h : a ≤ lo) (w : Memory.wfFrom lo m = true) :
    Memory.wfFrom (lo - a) (m.map fun e => (e.1 - a, e.2)) = true := by
  induction m generalizing lo with
  | nil => rfl
  | cons e m ih =>
    obtain ⟨i, b⟩ := e
    obtain ⟨hb, hi, hm⟩ := Memory.wfFrom_cons.1 w
    have hn := ih (lo := i + 1) (by omega) hm
    rw [show i + 1 - a = i - a + 1 by omega] at hn
    exact Memory.wfFrom_cons.2 ⟨hb, by omega, hn⟩

/-- What an area of memory holds is a store in canonical form (R315). -/
theorem Memory.wf_cellsSlice {m : List Host.Cell} (a n : Nat) (w : Memory.wf m = true) :
    Memory.wf (cellsSlice m a n) = true := by
  rw [Memory.wf_iff_from] at w ⊢
  have e : (m.filter fun e => decide (a ≤ e.1) && decide (e.1 < a + n))
      = (m.filter fun e => decide (a ≤ e.1)).filter fun e => decide (e.1 < a + n) := by
    simp only [List.filter_filter, Bool.and_comm]
  rw [cellsSlice, e]
  simpa using Memory.wfFrom_sub le_rfl (Memory.wfFrom_filter (fun e => decide (e.1 < a + n)) (Memory.wfFrom_above (a := a) w))

/-- Flipped bits keep memory in canonical form (R335). -/
theorem State.sectorError_wf (s : State) (sec mask : Nat) (w : Memory.wf s.mem = true) :
    Memory.wf (s.sectorError sec mask).mem = true := by
  unfold State.sectorError
  split
  · exact w
  · dsimp only
    apply Memory.wf_cellsWrite
    exact w

end Sys2Proof.Machine
end

