-- ==== Sys2Proof/Laws/PerInstr.lean ====
section
/-! SUPPORT. The family WordFits: the instruction word of every unit lies below the prefix words (R72), so that a unit's
words are its prefixes and then its instruction word. -/

namespace Sys2Proof

open Machine

theorem Src.code_lt (r : Src) : r.code < 128 := by
  cases r with
  | w n => exact n.isLt
  | b k => simp only [Src.code]; omega
  | ax n => cases n <;> decide
  | zr => decide
  | it => decide

theorem Dst.code_lt (r : Dst) : r.code < 128 := by
  cases r with
  | w n => exact n.isLt
  | ax n => cases n <;> decide
  | zr => decide

theorem b2n_lt (b : Bool) : b2n b < 2 := by cases b <;> decide

theorem Guard.code_lt (g : Guard) : g.code < 16 := by
  have := g.p.isLt; have := b2n_lt g.neg; simp only [Guard.code]; omega

theorem tWord_lt {mj d a b : Nat} (g : Guard) (c : Bool) (hm : mj < 0x3E) (hd : d < 128) (ha : a < 128) (hb : b < 128) :
    tWord mj d a b g c < 0x3E * 2 ^ 26 := by
  have := g.code_lt; have := b2n_lt c; simp only [tWord]; omega

theorem eWord_lt {mj mn x y h f : Nat} (hm : mj < 0x3E) (hn : mn < 32) (hx : x < 128) (hy : y < 128) (hh : h < 32)
    (hf : f < 4) : eWord mj mn x y h f < 0x3E * 2 ^ 26 := by
  simp only [eWord]; omega

theorem mWord_lt {mj d a sz : Nat} (g : Guard) (off : BitVec 5) (hm : mj < 0x3E) (hd : d < 128) (ha : a < 128)
    (hs : sz < 8) : mWord mj d a sz g off < 0x3E * 2 ^ 26 := by
  have := g.code_lt; have := off.isLt; simp only [mWord]; omega

theorem iWord_lt {mj d a imm : Nat} (hm : mj < 0x3E) (hd : d < 128) (ha : a < 128) (hi : imm < 4096) :
    iWord mj d a imm < 0x3E * 2 ^ 26 := by
  simp only [iWord]; omega

theorem qWord_lt {op pd r : Nat} (nb : Bool) (g : Guard) (c : Bool) (ho : op < 16) (hp : pd < 8) (hr : r < 128) :
    qWord op pd r nb g c < 0x3E * 2 ^ 26 := by
  have := g.code_lt; have := b2n_lt c; have := b2n_lt nb; simp only [qWord]; omega

theorem qSel_lt (pa : BitVec 3) (na : Bool) (pb : BitVec 3) : qSel pa na pb < 128 := by
  have := pa.isLt; have := pb.isLt; have := b2n_lt na; simp only [qSel]; omega

theorem cWord_lt {mj cc : Nat} (pt pf : BitVec 3) (a b : Src) (g : Guard) (hm : mj < 0x3E) (hc : cc < 4) :
    cWord mj pt pf a b g cc < 0x3E * 2 ^ 26 := by
  have := pt.isLt; have := pf.isLt; have := a.code_lt; have := b.code_lt; have := g.code_lt
  simp only [cWord]; omega

theorem lWord_lt {op : Nat} (f : BitVec 7) (b : Src) (n : BitVec 6) (sp : Bool) (off : BitVec 4) (ho : op < 2) :
    lWord op f b n sp off < 0x3E * 2 ^ 26 := by
  have := f.isLt; have := b.code_lt; have := n.isLt; have := b2n_lt sp; have := off.isLt; simp only [lWord]; omega

theorem Cc.code_lt (k : Cc) : k.code < 4 := by cases k <;> decide
theorem Fcc.code_lt (k : Fcc) : k.code < 4 := by cases k <;> decide
theorem Cvt.code_lt (k : Cvt) : k.code < 128 := by cases k <;> decide
theorem LdSz.code_lt (k : LdSz) : k.code < 8 := by cases k <;> decide
theorem StSz.code_lt (k : StSz) : k.code < 8 := by cases k <;> decide
theorem StSz.tstwCode_lt (k : StSz) : k.tstwCode < 32 := by cases k <;> decide
theorem AtomOp.code_lt (k : AtomOp) : k.code < 8 := by cases k <;> decide
theorem FenceKind.code_lt (k : FenceKind) : k.code < 128 := by cases k <;> decide
theorem Scope.code_lt (k : Scope) : k.code < 128 := by cases k <;> decide
theorem EngClass.code_lt (k : EngClass) : k.code < 128 := by cases k <;> decide
theorem ShflKind.code_lt (k : ShflKind) : k.code < 4 := by cases k <;> decide
theorem RedOp.code_lt (k : RedOp) : k.code < 32 := by cases k <;> decide

namespace Laws.WordFits

/-- The instruction word of i lies below 0x3E * 2^26, where the prefixes begin (R72). -/
def Statement (i : Instr) : Prop := encodeWord i < 0x3E * 2 ^ 26

theorem iadd (m : Option Mode) (d : Dst) (a : Src) (b : Src) (g : Guard) (c : Bool) : Statement (.iadd m d a b g c) :=
  show tWord 0x01 d.code a.code b.code g c < 0x3E * 2 ^ 26 from
    tWord_lt g c (by decide) (d.code_lt) (a.code_lt) (b.code_lt)
theorem isub (m : Option Mode) (d : Dst) (a : Src) (b : Src) (g : Guard) (c : Bool) : Statement (.isub m d a b g c) :=
  show tWord 0x02 d.code a.code b.code g c < 0x3E * 2 ^ 26 from
    tWord_lt g c (by decide) (d.code_lt) (a.code_lt) (b.code_lt)
theorem imul (m : Option Mode) (d : Dst) (a : Src) (b : Src) (g : Guard) (c : Bool) : Statement (.imul m d a b g c) :=
  show tWord 0x03 d.code a.code b.code g c < 0x3E * 2 ^ 26 from
    tWord_lt g c (by decide) (d.code_lt) (a.code_lt) (b.code_lt)
theorem imulw (m : Option Mode) (d : Dst) (a : Src) (b : Src) (g : Guard) (c : Bool) : Statement (.imulw m d a b g c) :=
  show tWord 0x04 d.code a.code b.code g c < 0x3E * 2 ^ 26 from
    tWord_lt g c (by decide) (d.code_lt) (a.code_lt) (b.code_lt)
theorem and (m : Option Mode) (d : Dst) (a : Src) (b : Src) (g : Guard) (c : Bool) : Statement (.and m d a b g c) :=
  show tWord 0x05 d.code a.code b.code g c < 0x3E * 2 ^ 26 from
    tWord_lt g c (by decide) (d.code_lt) (a.code_lt) (b.code_lt)
theorem or (m : Option Mode) (d : Dst) (a : Src) (b : Src) (g : Guard) (c : Bool) : Statement (.or m d a b g c) :=
  show tWord 0x06 d.code a.code b.code g c < 0x3E * 2 ^ 26 from
    tWord_lt g c (by decide) (d.code_lt) (a.code_lt) (b.code_lt)
theorem xor (m : Option Mode) (d : Dst) (a : Src) (b : Src) (g : Guard) (c : Bool) : Statement (.xor m d a b g c) :=
  show tWord 0x07 d.code a.code b.code g c < 0x3E * 2 ^ 26 from
    tWord_lt g c (by decide) (d.code_lt) (a.code_lt) (b.code_lt)
theorem shl (m : Option Mode) (d : Dst) (a : Src) (b : Src) (g : Guard) (c : Bool) : Statement (.shl m d a b g c) :=
  show tWord 0x08 d.code a.code b.code g c < 0x3E * 2 ^ 26 from
    tWord_lt g c (by decide) (d.code_lt) (a.code_lt) (b.code_lt)
theorem shr (m : Option Mode) (d : Dst) (a : Src) (b : Src) (g : Guard) (c : Bool) : Statement (.shr m d a b g c) :=
  show tWord 0x09 d.code a.code b.code g c < 0x3E * 2 ^ 26 from
    tWord_lt g c (by decide) (d.code_lt) (a.code_lt) (b.code_lt)
theorem sar (m : Option Mode) (d : Dst) (a : Src) (b : Src) (g : Guard) (c : Bool) : Statement (.sar m d a b g c) :=
  show tWord 0x0A d.code a.code b.code g c < 0x3E * 2 ^ 26 from
    tWord_lt g c (by decide) (d.code_lt) (a.code_lt) (b.code_lt)
theorem imin (m : Option Mode) (d : Dst) (a : Src) (b : Src) (g : Guard) (c : Bool) : Statement (.imin m d a b g c) :=
  show tWord 0x0B d.code a.code b.code g c < 0x3E * 2 ^ 26 from
    tWord_lt g c (by decide) (d.code_lt) (a.code_lt) (b.code_lt)
theorem imax (m : Option Mode) (d : Dst) (a : Src) (b : Src) (g : Guard) (c : Bool) : Statement (.imax m d a b g c) :=
  show tWord 0x0C d.code a.code b.code g c < 0x3E * 2 ^ 26 from
    tWord_lt g c (by decide) (d.code_lt) (a.code_lt) (b.code_lt)
theorem sel (gp : Option Guard) (d : Dst) (a : Src) (b : Src) (s : Guard) (c : Bool) : Statement (.sel gp d a b s c) :=
  show tWord 0x0D d.code a.code b.code s c < 0x3E * 2 ^ 26 from
    tWord_lt s c (by decide) (d.code_lt) (a.code_lt) (b.code_lt)
theorem mov (m : Option Mode) (d : Dst) (a : Src) (g : Guard) (c : Bool) : Statement (.mov m d a g c) :=
  show tWord 0x0E d.code a.code 0 g c < 0x3E * 2 ^ 26 from
    tWord_lt g c (by decide) (d.code_lt) (a.code_lt) (by decide)
theorem not (m : Option Mode) (d : Dst) (a : Src) (g : Guard) (c : Bool) : Statement (.not m d a g c) :=
  show tWord 0x0E d.code a.code 1 g c < 0x3E * 2 ^ 26 from
    tWord_lt g c (by decide) (d.code_lt) (a.code_lt) (by decide)
theorem neg (m : Option Mode) (d : Dst) (a : Src) (g : Guard) (c : Bool) : Statement (.neg m d a g c) :=
  show tWord 0x0E d.code a.code 2 g c < 0x3E * 2 ^ 26 from
    tWord_lt g c (by decide) (d.code_lt) (a.code_lt) (by decide)
theorem abs (m : Option Mode) (d : Dst) (a : Src) (g : Guard) (c : Bool) : Statement (.abs m d a g c) :=
  show tWord 0x0E d.code a.code 3 g c < 0x3E * 2 ^ 26 from
    tWord_lt g c (by decide) (d.code_lt) (a.code_lt) (by decide)
theorem popc (m : Option Mode) (d : Dst) (a : Src) (g : Guard) (c : Bool) : Statement (.popc m d a g c) :=
  show tWord 0x0E d.code a.code 4 g c < 0x3E * 2 ^ 26 from
    tWord_lt g c (by decide) (d.code_lt) (a.code_lt) (by decide)
theorem clz (m : Option Mode) (d : Dst) (a : Src) (g : Guard) (c : Bool) : Statement (.clz m d a g c) :=
  show tWord 0x0E d.code a.code 5 g c < 0x3E * 2 ^ 26 from
    tWord_lt g c (by decide) (d.code_lt) (a.code_lt) (by decide)
theorem ctz (m : Option Mode) (d : Dst) (a : Src) (g : Guard) (c : Bool) : Statement (.ctz m d a g c) :=
  show tWord 0x0E d.code a.code 6 g c < 0x3E * 2 ^ 26 from
    tWord_lt g c (by decide) (d.code_lt) (a.code_lt) (by decide)
theorem brev (m : Option Mode) (d : Dst) (a : Src) (g : Guard) (c : Bool) : Statement (.brev m d a g c) :=
  show tWord 0x0E d.code a.code 7 g c < 0x3E * 2 ^ 26 from
    tWord_lt g c (by decide) (d.code_lt) (a.code_lt) (by decide)
theorem sxb (m : Option Mode) (d : Dst) (a : Src) (g : Guard) (c : Bool) : Statement (.sxb m d a g c) :=
  show tWord 0x0E d.code a.code 8 g c < 0x3E * 2 ^ 26 from
    tWord_lt g c (by decide) (d.code_lt) (a.code_lt) (by decide)
theorem sxh (m : Option Mode) (d : Dst) (a : Src) (g : Guard) (c : Bool) : Statement (.sxh m d a g c) :=
  show tWord 0x0E d.code a.code 9 g c < 0x3E * 2 ^ 26 from
    tWord_lt g c (by decide) (d.code_lt) (a.code_lt) (by decide)
theorem zxb (m : Option Mode) (d : Dst) (a : Src) (g : Guard) (c : Bool) : Statement (.zxb m d a g c) :=
  show tWord 0x0E d.code a.code 10 g c < 0x3E * 2 ^ 26 from
    tWord_lt g c (by decide) (d.code_lt) (a.code_lt) (by decide)
theorem zxh (m : Option Mode) (d : Dst) (a : Src) (g : Guard) (c : Bool) : Statement (.zxh m d a g c) :=
  show tWord 0x0E d.code a.code 11 g c < 0x3E * 2 ^ 26 from
    tWord_lt g c (by decide) (d.code_lt) (a.code_lt) (by decide)
theorem bswap (m : Option Mode) (d : Dst) (a : Src) (g : Guard) (c : Bool) : Statement (.bswap m d a g c) :=
  show tWord 0x0E d.code a.code 12 g c < 0x3E * 2 ^ 26 from
    tWord_lt g c (by decide) (d.code_lt) (a.code_lt) (by decide)
theorem pand (pd : BitVec 3) (pa : BitVec 3) (na : Bool) (pb : BitVec 3) (nb : Bool) (g : Guard) (c : Bool) : Statement (.pand pd pa na pb nb g c) :=
  show qWord 0 pd.toNat (qSel pa na pb) nb g c < 0x3E * 2 ^ 26 from
    qWord_lt nb g c (by decide) (by have := pd.isLt; omega) (qSel_lt pa na pb)
theorem por (pd : BitVec 3) (pa : BitVec 3) (na : Bool) (pb : BitVec 3) (nb : Bool) (g : Guard) (c : Bool) : Statement (.por pd pa na pb nb g c) :=
  show qWord 1 pd.toNat (qSel pa na pb) nb g c < 0x3E * 2 ^ 26 from
    qWord_lt nb g c (by decide) (by have := pd.isLt; omega) (qSel_lt pa na pb)
theorem pxor (pd : BitVec 3) (pa : BitVec 3) (na : Bool) (pb : BitVec 3) (nb : Bool) (g : Guard) (c : Bool) : Statement (.pxor pd pa na pb nb g c) :=
  show qWord 2 pd.toNat (qSel pa na pb) nb g c < 0x3E * 2 ^ 26 from
    qWord_lt nb g c (by decide) (by have := pd.isLt; omega) (qSel_lt pa na pb)
theorem movp (pd : BitVec 3) (pa : BitVec 3) (na : Bool) (g : Guard) (c : Bool) : Statement (.movp pd pa na g c) :=
  show qWord 3 pd.toNat (qSel pa na 0) false g c < 0x3E * 2 ^ 26 from
    qWord_lt false g c (by decide) (by have := pd.isLt; omega) (qSel_lt pa na 0)
theorem setp (pd : BitVec 3) (v : Bool) (g : Guard) (c : Bool) : Statement (.setp pd v g c) :=
  show qWord 4 pd.toNat (qSel 0 v 0) false g c < 0x3E * 2 ^ 26 from
    qWord_lt false g c (by decide) (by have := pd.isLt; omega) (qSel_lt 0 v 0)
theorem p2w (d : Dst) (g : Guard) (c : Bool) : Statement (.p2w d g c) :=
  show qWord 5 0 d.code false g c < 0x3E * 2 ^ 26 from
    qWord_lt false g c (by decide) (by decide) (d.code_lt)
theorem w2p (a : Src) (g : Guard) (c : Bool) : Statement (.w2p a g c) :=
  show qWord 6 0 a.code false g c < 0x3E * 2 ^ 26 from
    qWord_lt false g c (by decide) (by decide) (a.code_lt)
theorem cmp (m : Option Mode) (pt : BitVec 3) (pf : BitVec 3) (a : Src) (b : Src) (g : Guard) (cc : Cc) : Statement (.cmp m pt pf a b g cc) :=
  show cWord 0x10 pt pf a b g cc.code < 0x3E * 2 ^ 26 from
    cWord_lt pt pf a b g (by decide) (cc.code_lt)
theorem fcmp (m : Option Mode) (pt : BitVec 3) (pf : BitVec 3) (a : Src) (b : Src) (g : Guard) (cc : Fcc) : Statement (.fcmp m pt pf a b g cc) :=
  show cWord 0x11 pt pf a b g cc.code < 0x3E * 2 ^ 26 from
    cWord_lt pt pf a b g (by decide) (cc.code_lt)
theorem hcmp (m : Option Mode) (pt : BitVec 3) (pf : BitVec 3) (a : Src) (b : Src) (g : Guard) (cc : Fcc) : Statement (.hcmp m pt pf a b g cc) :=
  show cWord 0x12 pt pf a b g cc.code < 0x3E * 2 ^ 26 from
    cWord_lt pt pf a b g (by decide) (cc.code_lt)
theorem cmpi (x : Option (BitVec 21)) (gp : Option Guard) (m : Option Mode) (pt : BitVec 3) (pf : BitVec 3) (a : Src) (cc : Cc) (imm : BitVec 11) : Statement (.cmpi x gp m pt pf a cc imm) := by
  have := a.code_lt; have := cc.code_lt; have := pt.isLt; have := pf.isLt; have := imm.isLt
  show 0x13 * 2 ^ 26 + pt.toNat * 2 ^ 23 + pf.toNat * 2 ^ 20 + a.code * 2 ^ 13 + cc.code * 2 ^ 11 + imm.toNat < 0x3E * 2 ^ 26; omega
theorem fadd (m : Option Mode) (d : Dst) (a : Src) (b : Src) (g : Guard) (c : Bool) : Statement (.fadd m d a b g c) :=
  show tWord 0x14 d.code a.code b.code g c < 0x3E * 2 ^ 26 from
    tWord_lt g c (by decide) (d.code_lt) (a.code_lt) (b.code_lt)
theorem fsub (m : Option Mode) (d : Dst) (a : Src) (b : Src) (g : Guard) (c : Bool) : Statement (.fsub m d a b g c) :=
  show tWord 0x15 d.code a.code b.code g c < 0x3E * 2 ^ 26 from
    tWord_lt g c (by decide) (d.code_lt) (a.code_lt) (b.code_lt)
theorem fmul (m : Option Mode) (d : Dst) (a : Src) (b : Src) (g : Guard) (c : Bool) : Statement (.fmul m d a b g c) :=
  show tWord 0x16 d.code a.code b.code g c < 0x3E * 2 ^ 26 from
    tWord_lt g c (by decide) (d.code_lt) (a.code_lt) (b.code_lt)
theorem ffma (m : Option Mode) (d : Dst) (a : Src) (b : Src) (g : Guard) (c : Bool) : Statement (.ffma m d a b g c) :=
  show tWord 0x17 d.code a.code b.code g c < 0x3E * 2 ^ 26 from
    tWord_lt g c (by decide) (d.code_lt) (a.code_lt) (b.code_lt)
theorem ffms (m : Option Mode) (d : Dst) (a : Src) (b : Src) (g : Guard) (c : Bool) : Statement (.ffms m d a b g c) :=
  show tWord 0x18 d.code a.code b.code g c < 0x3E * 2 ^ 26 from
    tWord_lt g c (by decide) (d.code_lt) (a.code_lt) (b.code_lt)
theorem fmin (m : Option Mode) (d : Dst) (a : Src) (b : Src) (g : Guard) (c : Bool) : Statement (.fmin m d a b g c) :=
  show tWord 0x19 d.code a.code b.code g c < 0x3E * 2 ^ 26 from
    tWord_lt g c (by decide) (d.code_lt) (a.code_lt) (b.code_lt)
theorem fmax (m : Option Mode) (d : Dst) (a : Src) (b : Src) (g : Guard) (c : Bool) : Statement (.fmax m d a b g c) :=
  show tWord 0x1A d.code a.code b.code g c < 0x3E * 2 ^ 26 from
    tWord_lt g c (by decide) (d.code_lt) (a.code_lt) (b.code_lt)
theorem fneg (m : Option Mode) (d : Dst) (a : Src) (g : Guard) (c : Bool) : Statement (.fneg m d a g c) :=
  show tWord 0x1B d.code a.code 0 g c < 0x3E * 2 ^ 26 from
    tWord_lt g c (by decide) (d.code_lt) (a.code_lt) (by decide)
theorem fabs (m : Option Mode) (d : Dst) (a : Src) (g : Guard) (c : Bool) : Statement (.fabs m d a g c) :=
  show tWord 0x1B d.code a.code 1 g c < 0x3E * 2 ^ 26 from
    tWord_lt g c (by decide) (d.code_lt) (a.code_lt) (by decide)
theorem fsqrt (m : Option Mode) (d : Dst) (a : Src) (g : Guard) (c : Bool) : Statement (.fsqrt m d a g c) :=
  show tWord 0x1B d.code a.code 2 g c < 0x3E * 2 ^ 26 from
    tWord_lt g c (by decide) (d.code_lt) (a.code_lt) (by decide)
theorem frcp (m : Option Mode) (d : Dst) (a : Src) (g : Guard) (c : Bool) : Statement (.frcp m d a g c) :=
  show tWord 0x1B d.code a.code 3 g c < 0x3E * 2 ^ 26 from
    tWord_lt g c (by decide) (d.code_lt) (a.code_lt) (by decide)
theorem frsq (m : Option Mode) (d : Dst) (a : Src) (g : Guard) (c : Bool) : Statement (.frsq m d a g c) :=
  show tWord 0x1B d.code a.code 4 g c < 0x3E * 2 ^ 26 from
    tWord_lt g c (by decide) (d.code_lt) (a.code_lt) (by decide)
theorem fex2 (m : Option Mode) (d : Dst) (a : Src) (g : Guard) (c : Bool) : Statement (.fex2 m d a g c) :=
  show tWord 0x1B d.code a.code 5 g c < 0x3E * 2 ^ 26 from
    tWord_lt g c (by decide) (d.code_lt) (a.code_lt) (by decide)
theorem flg2 (m : Option Mode) (d : Dst) (a : Src) (g : Guard) (c : Bool) : Statement (.flg2 m d a g c) :=
  show tWord 0x1B d.code a.code 6 g c < 0x3E * 2 ^ 26 from
    tWord_lt g c (by decide) (d.code_lt) (a.code_lt) (by decide)
theorem fsin (m : Option Mode) (d : Dst) (a : Src) (g : Guard) (c : Bool) : Statement (.fsin m d a g c) :=
  show tWord 0x1B d.code a.code 7 g c < 0x3E * 2 ^ 26 from
    tWord_lt g c (by decide) (d.code_lt) (a.code_lt) (by decide)
theorem fcos (m : Option Mode) (d : Dst) (a : Src) (g : Guard) (c : Bool) : Statement (.fcos m d a g c) :=
  show tWord 0x1B d.code a.code 8 g c < 0x3E * 2 ^ 26 from
    tWord_lt g c (by decide) (d.code_lt) (a.code_lt) (by decide)
theorem fflr (m : Option Mode) (d : Dst) (a : Src) (g : Guard) (c : Bool) : Statement (.fflr m d a g c) :=
  show tWord 0x1B d.code a.code 9 g c < 0x3E * 2 ^ 26 from
    tWord_lt g c (by decide) (d.code_lt) (a.code_lt) (by decide)
theorem fceil (m : Option Mode) (d : Dst) (a : Src) (g : Guard) (c : Bool) : Statement (.fceil m d a g c) :=
  show tWord 0x1B d.code a.code 10 g c < 0x3E * 2 ^ 26 from
    tWord_lt g c (by decide) (d.code_lt) (a.code_lt) (by decide)
theorem ftrnc (m : Option Mode) (d : Dst) (a : Src) (g : Guard) (c : Bool) : Statement (.ftrnc m d a g c) :=
  show tWord 0x1B d.code a.code 11 g c < 0x3E * 2 ^ 26 from
    tWord_lt g c (by decide) (d.code_lt) (a.code_lt) (by decide)
theorem frint (m : Option Mode) (d : Dst) (a : Src) (g : Guard) (c : Bool) : Statement (.frint m d a g c) :=
  show tWord 0x1B d.code a.code 12 g c < 0x3E * 2 ^ 26 from
    tWord_lt g c (by decide) (d.code_lt) (a.code_lt) (by decide)
theorem fcls (m : Option Mode) (d : Dst) (a : Src) (g : Guard) (c : Bool) : Statement (.fcls m d a g c) :=
  show tWord 0x1B d.code a.code 13 g c < 0x3E * 2 ^ 26 from
    tWord_lt g c (by decide) (d.code_lt) (a.code_lt) (by decide)
theorem hneg2 (m : Option Mode) (d : Dst) (a : Src) (g : Guard) (c : Bool) : Statement (.hneg2 m d a g c) :=
  show tWord 0x1B d.code a.code 16 g c < 0x3E * 2 ^ 26 from
    tWord_lt g c (by decide) (d.code_lt) (a.code_lt) (by decide)
theorem habs2 (m : Option Mode) (d : Dst) (a : Src) (g : Guard) (c : Bool) : Statement (.habs2 m d a g c) :=
  show tWord 0x1B d.code a.code 17 g c < 0x3E * 2 ^ 26 from
    tWord_lt g c (by decide) (d.code_lt) (a.code_lt) (by decide)
theorem hsqrt2 (m : Option Mode) (d : Dst) (a : Src) (g : Guard) (c : Bool) : Statement (.hsqrt2 m d a g c) :=
  show tWord 0x1B d.code a.code 18 g c < 0x3E * 2 ^ 26 from
    tWord_lt g c (by decide) (d.code_lt) (a.code_lt) (by decide)
theorem hrcp2 (m : Option Mode) (d : Dst) (a : Src) (g : Guard) (c : Bool) : Statement (.hrcp2 m d a g c) :=
  show tWord 0x1B d.code a.code 19 g c < 0x3E * 2 ^ 26 from
    tWord_lt g c (by decide) (d.code_lt) (a.code_lt) (by decide)
theorem hadd2 (m : Option Mode) (d : Dst) (a : Src) (b : Src) (g : Guard) (c : Bool) : Statement (.hadd2 m d a b g c) :=
  show tWord 0x1C d.code a.code b.code g c < 0x3E * 2 ^ 26 from
    tWord_lt g c (by decide) (d.code_lt) (a.code_lt) (b.code_lt)
theorem hmul2 (m : Option Mode) (d : Dst) (a : Src) (b : Src) (g : Guard) (c : Bool) : Statement (.hmul2 m d a b g c) :=
  show tWord 0x1D d.code a.code b.code g c < 0x3E * 2 ^ 26 from
    tWord_lt g c (by decide) (d.code_lt) (a.code_lt) (b.code_lt)
theorem hfma2 (m : Option Mode) (d : Dst) (a : Src) (b : Src) (g : Guard) (c : Bool) : Statement (.hfma2 m d a b g c) :=
  show tWord 0x1E d.code a.code b.code g c < 0x3E * 2 ^ 26 from
    tWord_lt g c (by decide) (d.code_lt) (a.code_lt) (b.code_lt)
theorem hmin2 (m : Option Mode) (d : Dst) (a : Src) (b : Src) (g : Guard) (c : Bool) : Statement (.hmin2 m d a b g c) :=
  show tWord 0x1F d.code a.code b.code g c < 0x3E * 2 ^ 26 from
    tWord_lt g c (by decide) (d.code_lt) (a.code_lt) (b.code_lt)
theorem hmax2 (m : Option Mode) (d : Dst) (a : Src) (b : Src) (g : Guard) (c : Bool) : Statement (.hmax2 m d a b g c) :=
  show tWord 0x20 d.code a.code b.code g c < 0x3E * 2 ^ 26 from
    tWord_lt g c (by decide) (d.code_lt) (a.code_lt) (b.code_lt)
theorem cvt (m : Option Mode) (d : Dst) (a : Src) (k : Cvt) (g : Guard) (c : Bool) : Statement (.cvt m d a k g c) :=
  show tWord 0x21 d.code a.code k.code g c < 0x3E * 2 ^ 26 from
    tWord_lt g c (by decide) (d.code_lt) (a.code_lt) (k.code_lt)
theorem iaddi (x : Option (BitVec 20)) (gp : Option Guard) (m : Option Mode) (d : Dst) (a : Src) (imm : BitVec 12) : Statement (.iaddi x gp m d a imm) :=
  show iWord 0x22 d.code a.code imm.toNat < 0x3E * 2 ^ 26 from
    iWord_lt (by decide) (d.code_lt) (a.code_lt) (by have := imm.isLt; omega)
theorem andi (x : Option (BitVec 20)) (gp : Option Guard) (d : Dst) (a : Src) (imm : BitVec 12) : Statement (.andi x gp d a imm) :=
  show iWord 0x23 d.code a.code imm.toNat < 0x3E * 2 ^ 26 from
    iWord_lt (by decide) (d.code_lt) (a.code_lt) (by have := imm.isLt; omega)
theorem ori (x : Option (BitVec 20)) (gp : Option Guard) (d : Dst) (a : Src) (imm : BitVec 12) : Statement (.ori x gp d a imm) :=
  show iWord 0x24 d.code a.code imm.toNat < 0x3E * 2 ^ 26 from
    iWord_lt (by decide) (d.code_lt) (a.code_lt) (by have := imm.isLt; omega)
theorem xori (x : Option (BitVec 20)) (gp : Option Guard) (d : Dst) (a : Src) (imm : BitVec 12) : Statement (.xori x gp d a imm) :=
  show iWord 0x25 d.code a.code imm.toNat < 0x3E * 2 ^ 26 from
    iWord_lt (by decide) (d.code_lt) (a.code_lt) (by have := imm.isLt; omega)
theorem shli (gp : Option Guard) (m : Option Mode) (d : Dst) (a : Src) (n : BitVec 6) : Statement (.shli gp m d a n) :=
  show iWord 0x26 d.code a.code n.toNat < 0x3E * 2 ^ 26 from
    iWord_lt (by decide) (d.code_lt) (a.code_lt) (by have := n.isLt; omega)
theorem shri (gp : Option Guard) (m : Option Mode) (d : Dst) (a : Src) (n : BitVec 6) : Statement (.shri gp m d a n) :=
  show iWord 0x26 d.code a.code (0x40 + n.toNat) < 0x3E * 2 ^ 26 from
    iWord_lt (by decide) (d.code_lt) (a.code_lt) (by have := n.isLt; omega)
theorem sari (gp : Option Guard) (m : Option Mode) (d : Dst) (a : Src) (n : BitVec 6) : Statement (.sari gp m d a n) :=
  show iWord 0x26 d.code a.code (0x80 + n.toNat) < 0x3E * 2 ^ 26 from
    iWord_lt (by decide) (d.code_lt) (a.code_lt) (by have := n.isLt; omega)
theorem lui (gp : Option Guard) (d : Dst) (imm : BitVec 19) : Statement (.lui gp d imm) := by
  have := d.code_lt; have := imm.isLt
  show 0x27 * 2 ^ 26 + d.code * 2 ^ 19 + imm.toNat < 0x3E * 2 ^ 26; omega
theorem ldg (x : Option (BitVec 24)) (d : Dst) (a : Src) (sz : LdSz) (g : Guard) (off : BitVec 5) : Statement (.ldg x d a sz g off) :=
  show mWord 0x28 d.code a.code sz.code g off < 0x3E * 2 ^ 26 from
    mWord_lt g off (by decide) (d.code_lt) (a.code_lt) (sz.code_lt)
theorem stg (x : Option (BitVec 24)) (d : Src) (a : Src) (sz : StSz) (g : Guard) (off : BitVec 5) : Statement (.stg x d a sz g off) :=
  show mWord 0x29 d.code a.code sz.code g off < 0x3E * 2 ^ 26 from
    mWord_lt g off (by decide) (d.code_lt) (a.code_lt) (sz.code_lt)
theorem lds (x : Option (BitVec 24)) (d : Dst) (a : Src) (sz : LdSz) (g : Guard) (off : BitVec 5) : Statement (.lds x d a sz g off) :=
  show mWord 0x2A d.code a.code sz.code g off < 0x3E * 2 ^ 26 from
    mWord_lt g off (by decide) (d.code_lt) (a.code_lt) (sz.code_lt)
theorem sts (x : Option (BitVec 24)) (d : Src) (a : Src) (sz : StSz) (g : Guard) (off : BitVec 5) : Statement (.sts x d a sz g off) :=
  show mWord 0x2B d.code a.code sz.code g off < 0x3E * 2 ^ 26 from
    mWord_lt g off (by decide) (d.code_lt) (a.code_lt) (sz.code_lt)
theorem atomg (x : Option (BitVec 24)) (m : Option Mode) (d : Dst) (a : Src) (op : AtomOp) (g : Guard) (off : BitVec 5) : Statement (.atomg x m d a op g off) :=
  show mWord 0x2C d.code a.code op.code g off < 0x3E * 2 ^ 26 from
    mWord_lt g off (by decide) (d.code_lt) (a.code_lt) (op.code_lt)
theorem atoms (x : Option (BitVec 24)) (m : Option Mode) (d : Dst) (a : Src) (op : AtomOp) (g : Guard) (off : BitVec 5) : Statement (.atoms x m d a op g off) :=
  show mWord 0x2D d.code a.code op.code g off < 0x3E * 2 ^ 26 from
    mWord_lt g off (by decide) (d.code_lt) (a.code_lt) (op.code_lt)
theorem ldm (gp : Option Guard) (first : BitVec 7) (base : Src) (cnt : BitVec 6) (sp : Bool) (off : BitVec 4) : Statement (.ldm gp first base cnt sp off) :=
  show lWord 0 first base cnt sp off < 0x3E * 2 ^ 26 from
    lWord_lt first base cnt sp off (by decide)
theorem stm (gp : Option Guard) (first : BitVec 7) (base : Src) (cnt : BitVec 6) (sp : Bool) (off : BitVec 4) : Statement (.stm gp first base cnt sp off) :=
  show lWord 1 first base cnt sp off < 0x3E * 2 ^ 26 from
    lWord_lt first base cnt sp off (by decide)
theorem hinit (d : Src) (a : Src) (g : Guard) (c : Bool) : Statement (.hinit d a g c) :=
  show tWord 0x2F d.code a.code 0 g c < 0x3E * 2 ^ 26 from
    tWord_lt g c (by decide) (d.code_lt) (a.code_lt) (by decide)
theorem hann (d : Dst) (a : Src) (g : Guard) (c : Bool) : Statement (.hann d a g c) :=
  show tWord 0x2F d.code a.code 1 g c < 0x3E * 2 ^ 26 from
    tWord_lt g c (by decide) (d.code_lt) (a.code_lt) (by decide)
theorem happ (d : Dst) (a : Src) (g : Guard) (c : Bool) : Statement (.happ d a g c) :=
  show tWord 0x2F d.code a.code 2 g c < 0x3E * 2 ^ 26 from
    tWord_lt g c (by decide) (d.code_lt) (a.code_lt) (by decide)
theorem hrun (d : Dst) (a : Src) (g : Guard) (c : Bool) : Statement (.hrun d a g c) :=
  show tWord 0x2F d.code a.code 3 g c < 0x3E * 2 ^ 26 from
    tWord_lt g c (by decide) (d.code_lt) (a.code_lt) (by decide)
theorem hres (d : Dst) (a : Src) (g : Guard) (c : Bool) : Statement (.hres d a g c) :=
  show tWord 0x2F d.code a.code 4 g c < 0x3E * 2 ^ 26 from
    tWord_lt g c (by decide) (d.code_lt) (a.code_lt) (by decide)
theorem hpeek (d : Dst) (a : Src) (g : Guard) (c : Bool) : Statement (.hpeek d a g c) :=
  show tWord 0x2F d.code a.code 5 g c < 0x3E * 2 ^ 26 from
    tWord_lt g c (by decide) (d.code_lt) (a.code_lt) (by decide)
theorem hpois (d : Src) (a : Src) (g : Guard) (c : Bool) : Statement (.hpois d a g c) :=
  show tWord 0x2F d.code a.code 6 g c < 0x3E * 2 ^ 26 from
    tWord_lt g c (by decide) (d.code_lt) (a.code_lt) (by decide)
theorem hclr (a : Src) (g : Guard) (c : Bool) : Statement (.hclr a g c) :=
  show tWord 0x2F 0 a.code 7 g c < 0x3E * 2 ^ 26 from
    tWord_lt g c (by decide) (by decide) (a.code_lt) (by decide)
theorem br (g : Guard) (off : BitVec 22) : Statement (.br g off) := by
  have := g.code_lt; have := off.isLt
  show 0x30 * 2 ^ 26 + g.code * 2 ^ 22 + off.toNat < 0x3E * 2 ^ 26; omega
theorem call (g : Guard) (off : BitVec 22) : Statement (.call g off) := by
  have := g.code_lt; have := off.isLt
  show 0x31 * 2 ^ 26 + g.code * 2 ^ 22 + off.toNat < 0x3E * 2 ^ 26; omega
theorem jmpi (d : Dst) (a : Src) (g : Guard) : Statement (.jmpi d a g) :=
  show tWord 0x32 d.code a.code 0 g false < 0x3E * 2 ^ 26 from
    tWord_lt g false (by decide) (d.code_lt) (a.code_lt) (by decide)
theorem nop (g : Guard) (c : Bool) : Statement (.nop g c) :=
  show tWord 0x33 0 0 0 g c < 0x3E * 2 ^ 26 from
    tWord_lt g c (by decide) (by decide) (by decide) (by decide)
theorem fence (k : FenceKind) (sc : Scope) (g : Guard) (c : Bool) : Statement (.fence k sc g c) :=
  show tWord 0x33 k.code sc.code 1 g c < 0x3E * 2 ^ 26 from
    tWord_lt g c (by decide) (k.code_lt) (sc.code_lt) (by decide)
theorem waitc (k : EngClass) (n : BitVec 7) (g : Guard) (c : Bool) : Statement (.waitc k n g c) :=
  show tWord 0x33 k.code n.toNat 2 g c < 0x3E * 2 ^ 26 from
    tWord_lt g c (by decide) (k.code_lt) (by have := n.isLt; omega) (by decide)
theorem awaitG (a : Src) (g : Guard) (c : Bool) : Statement (.awaitG a g c) :=
  show tWord 0x33 0 a.code 3 g c < 0x3E * 2 ^ 26 from
    tWord_lt g c (by decide) (by decide) (a.code_lt) (by decide)
theorem awaitSt (a : Src) (g : Guard) (c : Bool) : Statement (.awaitSt a g c) :=
  show tWord 0x33 1 a.code 3 g c < 0x3E * 2 ^ 26 from
    tWord_lt g c (by decide) (by decide) (a.code_lt) (by decide)
theorem awaitPr (a : Src) (g : Guard) (c : Bool) : Statement (.awaitPr a g c) :=
  show tWord 0x33 2 a.code 3 g c < 0x3E * 2 ^ 26 from
    tWord_lt g c (by decide) (by decide) (a.code_lt) (by decide)
theorem trap (n : BitVec 7) (g : Guard) : Statement (.trap n g) :=
  show tWord 0x33 0 n.toNat 4 g false < 0x3E * 2 ^ 26 from
    tWord_lt g false (by decide) (by decide) (by have := n.isLt; omega) (by decide)
theorem eret (g : Guard) : Statement (.eret g) :=
  show tWord 0x33 0 0 5 g false < 0x3E * 2 ^ 26 from
    tWord_lt g false (by decide) (by decide) (by decide) (by decide)
theorem gets (d : Dst) (r : BitVec 7) (g : Guard) (c : Bool) : Statement (.gets d r g c) :=
  show tWord 0x33 d.code r.toNat 6 g c < 0x3E * 2 ^ 26 from
    tWord_lt g c (by decide) (d.code_lt) (by have := r.isLt; omega) (by decide)
theorem sets (r : BitVec 7) (a : Src) (g : Guard) (c : Bool) : Statement (.sets r a g c) :=
  show tWord 0x33 r.toNat a.code 7 g c < 0x3E * 2 ^ 26 from
    tWord_lt g c (by decide) (by have := r.isLt; omega) (a.code_lt) (by decide)
theorem win (m8 : BitVec 5) (g : Guard) (c : Bool) : Statement (.win m8 g c) :=
  show tWord 0x33 0 m8.toNat 8 g c < 0x3E * 2 ^ 26 from
    tWord_lt g c (by decide) (by decide) (by have := m8.isLt; omega) (by decide)
theorem winReg (a : Src) (g : Guard) (c : Bool) : Statement (.winReg a g c) :=
  show tWord 0x33 1 a.code 8 g c < 0x3E * 2 ^ 26 from
    tWord_lt g c (by decide) (by decide) (a.code_lt) (by decide)
theorem wgrow (d : Dst) (a : Src) (g : Guard) (c : Bool) : Statement (.wgrow d a g c) :=
  show tWord 0x33 d.code a.code 9 g c < 0x3E * 2 ^ 26 from
    tWord_lt g c (by decide) (d.code_lt) (a.code_lt) (by decide)
theorem tagrd (d : Dst) (k : BitVec 7) (g : Guard) (c : Bool) : Statement (.tagrd d k g c) :=
  show tWord 0x33 d.code k.toNat 10 g c < 0x3E * 2 ^ 26 from
    tWord_lt g c (by decide) (d.code_lt) (by have := k.isLt; omega) (by decide)
theorem bkpt (n : BitVec 7) (g : Guard) : Statement (.bkpt n g) :=
  show tWord 0x33 0 n.toNat 11 g false < 0x3E * 2 ^ 26 from
    tWord_lt g false (by decide) (by decide) (by have := n.isLt; omega) (by decide)
theorem cntrd (d : Dst) (e : BitVec 6) (g : Guard) (c : Bool) : Statement (.cntrd d e g c) :=
  show tWord 0x33 d.code e.toNat 12 g c < 0x3E * 2 ^ 26 from
    tWord_lt g c (by decide) (d.code_lt) (by have := e.isLt; omega) (by decide)
theorem time (d : Dst) (g : Guard) (c : Bool) : Statement (.time d g c) :=
  show tWord 0x33 d.code 0 13 g c < 0x3E * 2 ^ 26 from
    tWord_lt g c (by decide) (d.code_lt) (by decide) (by decide)
theorem hld (gp : Option Guard) (x : Src) (h : BitVec 5) (sp : Bool) : Statement (.hld gp x h sp) :=
  show eWord 0x34 0 x.code 0 h.toNat (b2n sp) < 0x3E * 2 ^ 26 from
    eWord_lt (by decide) (by decide) (x.code_lt) (by decide) (by have := h.isLt; omega) (by have := b2n_lt sp; omega)
theorem hev (gp : Option Guard) (h : BitVec 5) : Statement (.hev gp h) :=
  show eWord 0x34 1 0 0 h.toNat 0 < 0x3E * 2 ^ 26 from
    eWord_lt (by decide) (by decide) (by decide) (by decide) (by have := h.isLt; omega) (by decide)
theorem hst (gp : Option Guard) (h : BitVec 5) : Statement (.hst gp h) :=
  show eWord 0x34 2 0 0 h.toNat 0 < 0x3E * 2 ^ 26 from
    eWord_lt (by decide) (by decide) (by decide) (by decide) (by have := h.isLt; omega) (by decide)
theorem hset (gp : Option Guard) (x : BitVec 7) (y : Src) (h : BitVec 5) : Statement (.hset gp x y h) :=
  show eWord 0x34 3 x.toNat y.code h.toNat 0 < 0x3E * 2 ^ 26 from
    eWord_lt (by decide) (by decide) (by have := x.isLt; omega) (y.code_lt) (by have := h.isLt; omega) (by decide)
theorem hget (gp : Option Guard) (x : BitVec 7) (y : Dst) (h : BitVec 5) : Statement (.hget gp x y h) :=
  show eWord 0x34 4 x.toNat y.code h.toNat 0 < 0x3E * 2 ^ 26 from
    eWord_lt (by decide) (by decide) (by have := x.isLt; omega) (y.code_lt) (by have := h.isLt; omega) (by decide)
theorem wld (gp : Option Guard) (h : BitVec 5) : Statement (.wld gp h) :=
  show eWord 0x34 5 0 0 h.toNat 0 < 0x3E * 2 ^ 26 from
    eWord_lt (by decide) (by decide) (by decide) (by decide) (by have := h.isLt; omega) (by decide)
theorem wsw (gp : Option Guard) : Statement (.wsw gp) :=
  show eWord 0x34 6 0 0 0 0 < 0x3E * 2 ^ 26 from
    eWord_lt (by decide) (by decide) (by decide) (by decide) (by decide) (by decide)
theorem mma (gp : Option Guard) (m : Option Mode) (y : BitVec 5) (h : BitVec 5) : Statement (.mma gp m y h) :=
  show eWord 0x34 7 0 y.toNat h.toNat 0 < 0x3E * 2 ^ 26 from
    eWord_lt (by decide) (by decide) (by decide) (by have := y.isLt; omega) (by have := h.isLt; omega) (by decide)
theorem mmaReg (gp : Option Guard) (m : Option Mode) (x : BitVec 7) (y : BitVec 5) (h : BitVec 5) : Statement (.mmaReg gp m x y h) :=
  show eWord 0x34 7 x.toNat y.toNat h.toNat 1 < 0x3E * 2 ^ 26 from
    eWord_lt (by decide) (by decide) (by have := x.isLt; omega) (by have := y.isLt; omega) (by have := h.isLt; omega) (by decide)
theorem mmaz (gp : Option Guard) (m : Option Mode) (y : BitVec 5) (h : BitVec 5) : Statement (.mmaz gp m y h) :=
  show eWord 0x34 8 0 y.toNat h.toNat 0 < 0x3E * 2 ^ 26 from
    eWord_lt (by decide) (by decide) (by decide) (by have := y.isLt; omega) (by have := h.isLt; omega) (by decide)
theorem mmazReg (gp : Option Guard) (m : Option Mode) (x : BitVec 7) (y : BitVec 5) (h : BitVec 5) : Statement (.mmazReg gp m x y h) :=
  show eWord 0x34 8 x.toNat y.toNat h.toNat 1 < 0x3E * 2 ^ 26 from
    eWord_lt (by decide) (by decide) (by have := x.isLt; omega) (by have := y.isLt; omega) (by have := h.isLt; omega) (by decide)
theorem accz (gp : Option Guard) (h : BitVec 5) : Statement (.accz gp h) :=
  show eWord 0x34 9 0 0 h.toNat 0 < 0x3E * 2 ^ 26 from
    eWord_lt (by decide) (by decide) (by decide) (by decide) (by have := h.isLt; omega) (by decide)
theorem accst (gp : Option Guard) (m : Option Mode) (y : BitVec 5) (h : BitVec 5) : Statement (.accst gp m y h) :=
  show eWord 0x34 10 0 y.toNat h.toNat 0 < 0x3E * 2 ^ 26 from
    eWord_lt (by decide) (by decide) (by decide) (by have := y.isLt; omega) (by have := h.isLt; omega) (by decide)
theorem accstReg (gp : Option Guard) (m : Option Mode) (x : BitVec 7) (y : BitVec 5) (h : BitVec 5) : Statement (.accstReg gp m x y h) :=
  show eWord 0x34 10 x.toNat y.toNat h.toNat 1 < 0x3E * 2 ^ 26 from
    eWord_lt (by decide) (by decide) (by have := x.isLt; omega) (by have := y.isLt; omega) (by have := h.isLt; omega) (by decide)
theorem accld (gp : Option Guard) (y : BitVec 5) (h : BitVec 5) : Statement (.accld gp y h) :=
  show eWord 0x34 11 0 y.toNat h.toNat 0 < 0x3E * 2 ^ 26 from
    eWord_lt (by decide) (by decide) (by decide) (by have := y.isLt; omega) (by have := h.isLt; omega) (by decide)
theorem accldReg (gp : Option Guard) (x : BitVec 7) (y : BitVec 5) (h : BitVec 5) : Statement (.accldReg gp x y h) :=
  show eWord 0x34 11 x.toNat y.toNat h.toNat 1 < 0x3E * 2 ^ 26 from
    eWord_lt (by decide) (by decide) (by have := x.isLt; omega) (by have := y.isLt; omega) (by have := h.isLt; omega) (by decide)
theorem qnt (gp : Option Guard) (m : Option Mode) (y : BitVec 5) (h : BitVec 5) : Statement (.qnt gp m y h) :=
  show eWord 0x34 12 0 y.toNat h.toNat 0 < 0x3E * 2 ^ 26 from
    eWord_lt (by decide) (by decide) (by decide) (by have := y.isLt; omega) (by have := h.isLt; omega) (by decide)
theorem mxstat (gp : Option Guard) (x : Dst) : Statement (.mxstat gp x) :=
  show eWord 0x34 13 x.code 0 0 0 < 0x3E * 2 ^ 26 from
    eWord_lt (by decide) (by decide) (x.code_lt) (by decide) (by decide) (by decide)
theorem topen (gp : Option Guard) (x : Src) (y : Src) : Statement (.topen gp x y) :=
  show eWord 0x34 14 x.code y.code 0 0 < 0x3E * 2 ^ 26 from
    eWord_lt (by decide) (by decide) (x.code_lt) (y.code_lt) (by decide) (by decide)
theorem tclose (gp : Option Guard) : Statement (.tclose gp) :=
  show eWord 0x34 15 0 0 0 0 < 0x3E * 2 ^ 26 from
    eWord_lt (by decide) (by decide) (by decide) (by decide) (by decide) (by decide)
theorem cpy (gp : Option Guard) (x : Src) : Statement (.cpy gp x) :=
  show eWord 0x35 0 x.code 0 0 0 < 0x3E * 2 ^ 26 from
    eWord_lt (by decide) (by decide) (x.code_lt) (by decide) (by decide) (by decide)
theorem cpyg (gp : Option Guard) (x : Src) (y : Src) : Statement (.cpyg gp x y) :=
  show eWord 0x35 1 x.code y.code 0 0 < 0x3E * 2 ^ 26 from
    eWord_lt (by decide) (by decide) (x.code_lt) (y.code_lt) (by decide) (by decide)
theorem garm (gp : Option Guard) (x : Src) (y : Src) : Statement (.garm gp x y) :=
  show eWord 0x35 2 x.code y.code 0 0 < 0x3E * 2 ^ 26 from
    eWord_lt (by decide) (by decide) (x.code_lt) (y.code_lt) (by decide) (by decide)
theorem gadd (gp : Option Guard) (x : Src) (y : Src) : Statement (.gadd gp x y) :=
  show eWord 0x35 3 x.code y.code 0 0 < 0x3E * 2 ^ 26 from
    eWord_lt (by decide) (by decide) (x.code_lt) (y.code_lt) (by decide) (by decide)
theorem gtst (gp : Option Guard) (x : Dst) (y : Src) : Statement (.gtst gp x y) :=
  show eWord 0x35 4 x.code y.code 0 0 < 0x3E * 2 ^ 26 from
    eWord_lt (by decide) (by decide) (x.code_lt) (y.code_lt) (by decide) (by decide)
theorem prclr (gp : Option Guard) (x : Src) (y : Src) : Statement (.prclr gp x y) :=
  show eWord 0x35 5 x.code y.code 0 0 < 0x3E * 2 ^ 26 from
    eWord_lt (by decide) (by decide) (x.code_lt) (y.code_lt) (by decide) (by decide)
theorem prclrOwn (gp : Option Guard) (x : Src) (y : Src) : Statement (.prclrOwn gp x y) :=
  show eWord 0x35 5 x.code y.code 0 1 < 0x3E * 2 ^ 26 from
    eWord_lt (by decide) (by decide) (x.code_lt) (y.code_lt) (by decide) (by decide)
theorem prclrRel (gp : Option Guard) (x : Src) (y : Src) : Statement (.prclrRel gp x y) :=
  show eWord 0x35 5 x.code y.code 0 2 < 0x3E * 2 ^ 26 from
    eWord_lt (by decide) (by decide) (x.code_lt) (y.code_lt) (by decide) (by decide)
theorem spawn (gp : Option Guard) (x : Dst) (y : Src) (n : BitVec 5) (t : BitVec 2) : Statement (.spawn gp x y n t) :=
  show eWord 0x36 0 x.code y.code n.toNat t.toNat < 0x3E * 2 ^ 26 from
    eWord_lt (by decide) (by decide) (x.code_lt) (y.code_lt) (by have := n.isLt; omega) (by have := t.isLt; omega)
theorem freeze (gp : Option Guard) : Statement (.freeze gp) :=
  show eWord 0x36 1 0 0 0 0 < 0x3E * 2 ^ 26 from
    eWord_lt (by decide) (by decide) (by decide) (by decide) (by decide) (by decide)
theorem stamp (gp : Option Guard) (x : Src) : Statement (.stamp gp x) :=
  show eWord 0x36 2 x.code 0 0 0 < 0x3E * 2 ^ 26 from
    eWord_lt (by decide) (by decide) (x.code_lt) (by decide) (by decide) (by decide)
theorem tstw (gp : Option Guard) (x : BitVec 7) (y : Src) (sz : StSz) (sp : Bool) : Statement (.tstw gp x y sz sp) :=
  show eWord 0x36 3 x.toNat y.code sz.tstwCode (b2n sp) < 0x3E * 2 ^ 26 from
    eWord_lt (by decide) (by decide) (by have := x.isLt; omega) (y.code_lt) (sz.tstwCode_lt) (by have := b2n_lt sp; omega)
theorem exit (gp : Option Guard) : Statement (.exit gp) :=
  show eWord 0x36 4 0 0 0 0 < 0x3E * 2 ^ 26 from
    eWord_lt (by decide) (by decide) (by decide) (by decide) (by decide) (by decide)
theorem yield (gp : Option Guard) : Statement (.yield gp) :=
  show eWord 0x36 5 0 0 0 0 < 0x3E * 2 ^ 26 from
    eWord_lt (by decide) (by decide) (by decide) (by decide) (by decide) (by decide)
theorem yieldReg (gp : Option Guard) (x : Src) : Statement (.yieldReg gp x) :=
  show eWord 0x36 5 x.code 0 0 1 < 0x3E * 2 ^ 26 from
    eWord_lt (by decide) (by decide) (x.code_lt) (by decide) (by decide) (by decide)
theorem migr (gp : Option Guard) (x : Dst) (y : Src) : Statement (.migr gp x y) :=
  show eWord 0x36 6 x.code y.code 0 0 < 0x3E * 2 ^ 26 from
    eWord_lt (by decide) (by decide) (x.code_lt) (y.code_lt) (by decide) (by decide)
theorem merge (gp : Option Guard) : Statement (.merge gp) :=
  show eWord 0x36 7 0 0 0 0 < 0x3E * 2 ^ 26 from
    eWord_lt (by decide) (by decide) (by decide) (by decide) (by decide) (by decide)
theorem elect (gp : Option Guard) (x : Dst) : Statement (.elect gp x) :=
  show eWord 0x36 8 x.code 0 0 0 < 0x3E * 2 ^ 26 from
    eWord_lt (by decide) (by decide) (x.code_lt) (by decide) (by decide) (by decide)
theorem ballot (gp : Option Guard) (x : Dst) (y : Src) : Statement (.ballot gp x y) :=
  show eWord 0x36 9 x.code y.code 0 0 < 0x3E * 2 ^ 26 from
    eWord_lt (by decide) (by decide) (x.code_lt) (y.code_lt) (by decide) (by decide)
theorem shfl (e : Option Src) (gp : Option Guard) (x : Dst) (y : Src) (n : BitVec 5) (k : ShflKind) : Statement (.shfl e gp x y n k) :=
  show eWord 0x36 10 x.code y.code n.toNat k.code < 0x3E * 2 ^ 26 from
    eWord_lt (by decide) (by decide) (x.code_lt) (y.code_lt) (by have := n.isLt; omega) (k.code_lt)
theorem redx (gp : Option Guard) (x : Dst) (y : Src) (o : RedOp) : Statement (.redx gp x y o) :=
  show eWord 0x36 11 x.code y.code o.code 0 < 0x3E * 2 ^ 26 from
    eWord_lt (by decide) (by decide) (x.code_lt) (y.code_lt) (o.code_lt) (by decide)
theorem send (gp : Option Guard) (x : Dst) (y : Src) (tc : BitVec 2) : Statement (.send gp x y tc) :=
  show eWord 0x37 0 x.code y.code (2 + tc.toNat) 0 < 0x3E * 2 ^ 26 from
    eWord_lt (by decide) (by decide) (x.code_lt) (y.code_lt) (by have := tc.isLt; omega) (by decide)
theorem rarm (gp : Option Guard) (x : Src) (y : Src) : Statement (.rarm gp x y) :=
  show eWord 0x37 1 x.code y.code 0 0 < 0x3E * 2 ^ 26 from
    eWord_lt (by decide) (by decide) (x.code_lt) (y.code_lt) (by decide) (by decide)
theorem rack (gp : Option Guard) (x : Src) (y : Src) : Statement (.rack gp x y) :=
  show eWord 0x37 2 x.code y.code 0 0 < 0x3E * 2 ^ 26 from
    eWord_lt (by decide) (by decide) (x.code_lt) (y.code_lt) (by decide) (by decide)
theorem pxpush (gp : Option Guard) (x : Dst) (y : Src) : Statement (.pxpush gp x y) :=
  show eWord 0x37 3 x.code y.code 0 0 < 0x3E * 2 ^ 26 from
    eWord_lt (by decide) (by decide) (x.code_lt) (y.code_lt) (by decide) (by decide)
theorem next (gp : Option Guard) (x : Src) (y : Src) : Statement (.next gp x y) :=
  show eWord 0x37 4 x.code y.code 0 0 < 0x3E * 2 ^ 26 from
    eWord_lt (by decide) (by decide) (x.code_lt) (y.code_lt) (by decide) (by decide)
theorem launch (gp : Option Guard) (x : Dst) (y : Src) : Statement (.launch gp x y) :=
  show eWord 0x37 5 x.code y.code 0 0 < 0x3E * 2 ^ 26 from
    eWord_lt (by decide) (by decide) (x.code_lt) (y.code_lt) (by decide) (by decide)
theorem fabw (gp : Option Guard) (x : Src) (tc : BitVec 2) : Statement (.fabw gp x tc) :=
  show eWord 0x37 6 x.code 0 (2 + tc.toNat) 0 < 0x3E * 2 ^ 26 from
    eWord_lt (by decide) (by decide) (x.code_lt) (by decide) (by have := tc.isLt; omega) (by decide)
theorem movx (d : Dst) (n : Bool) (k : BitVec 2) (g : Guard) (c : Bool) : Statement (.movx d n k g c) :=
  show tWord 0x38 d.code (b2n n * 4 + k.toNat) 0 g c < 0x3E * 2 ^ 26 from
    tWord_lt g c (by decide) (d.code_lt) (by have := b2n_lt n; have := k.isLt; omega) (by decide)
theorem movxIndex (d : Dst) (k : BitVec 2) (g : Guard) (c : Bool) : Statement (.movxIndex d k g c) :=
  show tWord 0x38 d.code (64 + k.toNat) 0 g c < 0x3E * 2 ^ 26 from
    tWord_lt g c (by decide) (d.code_lt) (by have := k.isLt; omega) (by decide)
theorem stx (n : Bool) (k : BitVec 2) (a : Src) (g : Guard) (c : Bool) : Statement (.stx n k a g c) :=
  show tWord 0x38 (b2n n * 4 + k.toNat) a.code 1 g c < 0x3E * 2 ^ 26 from
    tWord_lt g c (by decide) (by have := b2n_lt n; have := k.isLt; omega) (a.code_lt) (by decide)
theorem ixset (k : BitVec 2) (a : Src) (g : Guard) (c : Bool) : Statement (.ixset k a g c) :=
  show tWord 0x38 k.toNat a.code 2 g c < 0x3E * 2 ^ 26 from
    tWord_lt g c (by decide) (by have := k.isLt; omega) (a.code_lt) (by decide)
theorem ixadd (k : BitVec 2) (a : Src) (g : Guard) (c : Bool) : Statement (.ixadd k a g c) :=
  show tWord 0x38 k.toNat a.code 3 g c < 0x3E * 2 ^ 26 from
    tWord_lt g c (by decide) (by have := k.isLt; omega) (a.code_lt) (by decide)
theorem abset (n : Bool) (a : Src) (g : Guard) (c : Bool) : Statement (.abset n a g c) :=
  show tWord 0x38 (b2n n) a.code 4 g c < 0x3E * 2 ^ 26 from
    tWord_lt g c (by decide) (by have := b2n_lt n; omega) (a.code_lt) (by decide)
theorem loadDataReturn (core : Nat) (thr : Nat) (k : Nat) : Statement (.loadDataReturn core thr k) :=
  show 0 < 0x3E * 2 ^ 26 by decide
theorem deferredWalkDone (core : Nat) (thr : Nat) : Statement (.deferredWalkDone core thr) :=
  show 0 < 0x3E * 2 ^ 26 by decide
theorem copyLineArrival (core : Nat) (id : Nat) : Statement (.copyLineArrival core id) :=
  show 0 < 0x3E * 2 ^ 26 by decide
theorem copyRetire (core : Nat) (id : Nat) : Statement (.copyRetire core id) :=
  show 0 < 0x3E * 2 ^ 26 by decide
theorem aRowFetch (core : Nat) (part : Nat) : Statement (.aRowFetch core part) :=
  show 0 < 0x3E * 2 ^ 26 by decide
theorem matrixArbitration (core : Nat) : Statement (.matrixArbitration core) :=
  show 0 < 0x3E * 2 ^ 26 by decide
theorem matrixRetire (core : Nat) : Statement (.matrixRetire core) :=
  show 0 < 0x3E * 2 ^ 26 by decide
theorem nextApply (core : Nat) (id : Nat) : Statement (.nextApply core id) :=
  show 0 < 0x3E * 2 ^ 26 by decide
theorem sendAppend (core : Nat) (id : Nat) : Statement (.sendAppend core id) :=
  show 0 < 0x3E * 2 ^ 26 by decide
theorem creditReturn (k : Nat) : Statement (.creditReturn k) :=
  show 0 < 0x3E * 2 ^ 26 by decide
theorem fabwWriteArrival (k : Nat) : Statement (.fabwWriteArrival k) :=
  show 0 < 0x3E * 2 ^ 26 by decide
theorem fabwAck (core : Nat) (id : Nat) (refused : Bool) : Statement (.fabwAck core id refused) :=
  show 0 < 0x3E * 2 ^ 26 by decide
theorem migrArrival (k : Nat) : Statement (.migrArrival k) :=
  show 0 < 0x3E * 2 ^ 26 by decide
theorem continuationDelivery (k : Nat) : Statement (.continuationDelivery k) :=
  show 0 < 0x3E * 2 ^ 26 by decide
theorem backlogPlacement (core : Nat) : Statement (.backlogPlacement core) :=
  show 0 < 0x3E * 2 ^ 26 by decide
theorem binTimerLaunch (core : Nat) (part : Nat) (bin : Nat) : Statement (.binTimerLaunch core part bin) :=
  show 0 < 0x3E * 2 ^ 26 by decide
theorem mergeTimeout (core : Nat) (part : Nat) (pc : Word) : Statement (.mergeTimeout core part pc) :=
  show 0 < 0x3E * 2 ^ 26 by decide
theorem itemStamp (core : Nat) (part : Nat) : Statement (.itemStamp core part) :=
  show 0 < 0x3E * 2 ^ 26 by decide
theorem registerGrant (core : Nat) (part : Nat) (lane : Nat) : Statement (.registerGrant core part lane) :=
  show 0 < 0x3E * 2 ^ 26 by decide
theorem registerEviction (core : Nat) (part : Nat) (lane : Nat) : Statement (.registerEviction core part lane) :=
  show 0 < 0x3E * 2 ^ 26 by decide
theorem causalDelivery (die : Nat) (k : Nat) : Statement (.causalDelivery die k) :=
  show 0 < 0x3E * 2 ^ 26 by decide
theorem guestFill (die : Nat) (k : Nat) : Statement (.guestFill die k) :=
  show 0 < 0x3E * 2 ^ 26 by decide
theorem replForward (k : Nat) : Statement (.replForward k) :=
  show 0 < 0x3E * 2 ^ 26 by decide
theorem nodeRetire (node : Nat) : Statement (.nodeRetire node) :=
  show 0 < 0x3E * 2 ^ 26 by decide
theorem sluiceDrain (ten : Nat) (entry : Nat) : Statement (.sluiceDrain ten entry) :=
  show 0 < 0x3E * 2 ^ 26 by decide
theorem sluiceBatchArrival (k : Nat) : Statement (.sluiceBatchArrival k) :=
  show 0 < 0x3E * 2 ^ 26 by decide
theorem sluiceRetry (ten : Nat) (entry : Nat) : Statement (.sluiceRetry ten entry) :=
  show 0 < 0x3E * 2 ^ 26 by decide
theorem hostRead (master : BitVec 16) (ten : BitVec 4) (va : BitVec 57) (n : Nat) : Statement (.hostRead master ten va n) :=
  show 0 < 0x3E * 2 ^ 26 by decide
theorem hostWrite (master : BitVec 16) (ten : BitVec 4) (va : BitVec 57) (bytes : List Byte) : Statement (.hostWrite master ten va bytes) :=
  show 0 < 0x3E * 2 ^ 26 by decide
theorem hostHelpedStep (master : BitVec 16) (ten : BitVec 4) (op : HostOp) (va : BitVec 57) : Statement (.hostHelpedStep master ten op va) :=
  show 0 < 0x3E * 2 ^ 26 by decide
theorem attestationRequest (master : BitVec 16) (ten : BitVec 4) (nonce : BitVec 256) : Statement (.attestationRequest master ten nonce) :=
  show 0 < 0x3E * 2 ^ 26 by decide
theorem publicKeyRequest (master : BitVec 16) : Statement (.publicKeyRequest master) :=
  show 0 < 0x3E * 2 ^ 26 by decide
theorem tnreplayPage (ten : BitVec 4) (psz : BitVec 2) (vpn : BitVec 41) : Statement (.tnreplayPage ten psz vpn) :=
  show 0 < 0x3E * 2 ^ 26 by decide
theorem tnreplayToken (ten : BitVec 4) (token : Word) : Statement (.tnreplayToken ten token) :=
  show 0 < 0x3E * 2 ^ 26 by decide
theorem tnreplayAll (ten : BitVec 4) : Statement (.tnreplayAll ten) :=
  show 0 < 0x3E * 2 ^ 26 by decide
theorem tninvPage (ten : BitVec 4) (psz : BitVec 2) (vpn : BitVec 41) : Statement (.tninvPage ten psz vpn) :=
  show 0 < 0x3E * 2 ^ 26 by decide
theorem tninvAll (ten : BitVec 4) : Statement (.tninvAll ten) :=
  show 0 < 0x3E * 2 ^ 26 by decide
theorem invalidationDone (ten : BitVec 4) : Statement (.invalidationDone ten) :=
  show 0 < 0x3E * 2 ^ 26 by decide
theorem faultRingControlWrite (ten : BitVec 4) (v : Word) : Statement (.faultRingControlWrite ten v) :=
  show 0 < 0x3E * 2 ^ 26 by decide
theorem preempt (core : Nat) : Statement (.preempt core) :=
  show 0 < 0x3E * 2 ^ 26 by decide
theorem preemptSave (core : Nat) : Statement (.preemptSave core) :=
  show 0 < 0x3E * 2 ^ 26 by decide
theorem resume (core : Nat) : Statement (.resume core) :=
  show 0 < 0x3E * 2 ^ 26 by decide
theorem kill (core : Nat) : Statement (.kill core) :=
  show 0 < 0x3E * 2 ^ 26 by decide
theorem tenancyReset (ten : BitVec 4) : Statement (.tenancyReset ten) :=
  show 0 < 0x3E * 2 ^ 26 by decide
theorem dbgHalt (core : Nat) (part : Nat) : Statement (.dbgHalt core part) :=
  show 0 < 0x3E * 2 ^ 26 by decide
theorem dbgRel (core : Nat) (part : Nat) : Statement (.dbgRel core part) :=
  show 0 < 0x3E * 2 ^ 26 by decide
theorem dbgStep (core : Nat) (part : Nat) : Statement (.dbgStep core part) :=
  show 0 < 0x3E * 2 ^ 26 by decide
theorem joinWatchdog (k : Nat) : Statement (.joinWatchdog k) :=
  show 0 < 0x3E * 2 ^ 26 by decide
theorem gaugeWatchdog (core : Nat) (thr : Nat) : Statement (.gaugeWatchdog core thr) :=
  show 0 < 0x3E * 2 ^ 26 by decide
theorem weirPeriodBoundary (ten : BitVec 4) : Statement (.weirPeriodBoundary ten) :=
  show 0 < 0x3E * 2 ^ 26 by decide
theorem counterRotation (core : Nat) (part : Nat) : Statement (.counterRotation core part) :=
  show 0 < 0x3E * 2 ^ 26 by decide
theorem pcSample (core : Nat) (part : Nat) : Statement (.pcSample core part) :=
  show 0 < 0x3E * 2 ^ 26 by decide
theorem ptpMessage (later : Bool) (ns : Nat) : Statement (.ptpMessage later ns) :=
  show 0 < 0x3E * 2 ^ 26 by decide
theorem patrolScrub (stack : BitVec 4) : Statement (.patrolScrub stack) :=
  show 0 < 0x3E * 2 ^ 26 by decide
theorem powerThrottle (watts : Nat) (hot : BitVec 8) : Statement (.powerThrottle watts hot) :=
  show 0 < 0x3E * 2 ^ 26 by decide
theorem powerOnStart (outcomes : List (BitVec 8)) (slots : List Image × List Image) (device : BitVec 10) : Statement (.powerOnStart outcomes slots device) :=
  show 0 < 0x3E * 2 ^ 26 by decide
theorem registerWrite (r : FwReg) (v : DWord) : Statement (.registerWrite r v) :=
  show 0 < 0x3E * 2 ^ 26 by decide
theorem illegalInstruction (word : Word) : Statement (.illegalInstruction word) :=
  show 0 < 0x3E * 2 ^ 26 by decide
theorem powerLoss (cut : Option (BitVec 6)) : Statement (.powerLoss cut) :=
  show 0 < 0x3E * 2 ^ 26 by decide

end Laws.WordFits

end Sys2Proof
end

