-- ==== Sys2Proof/Laws/State.lean ====
section
/-! SUPPORT. Laws of the state's accessors: what is read after an update, and the fields an update leaves alone. -/

namespace Sys2Proof.Machine

/-! ### Reading back an update -/

@[simp] theorem core_setCore (s : State) (c : Nat) (k : Core) : (s.setCore c k).core c = k := by
  simp [State.core, State.setCore]

@[simp] theorem core_setCore_ne (s : State) (c d : Nat) (k : Core) (h : d ≠ c) : (s.setCore c k).core d = s.core d := by
  simp [State.core, State.setCore, h]

@[simp] theorem core_modCore (s : State) (c : Nat) (f : Core → Core) : (s.modCore c f).core c = f (s.core c) := by
  simp [State.modCore]

@[simp] theorem core_modCore_ne (s : State) (c d : Nat) (f : Core → Core) (h : d ≠ c) :
    (s.modCore c f).core d = s.core d := by
  simp [State.modCore, h]

@[simp] theorem ten_setTen (s : State) (t : Nat) (x : Tenancy) : (s.setTen t x).ten t = x := by
  simp [State.ten, State.setTen]

@[simp] theorem ten_setTen_ne (s : State) (t u : Nat) (x : Tenancy) (h : u ≠ t) : (s.setTen t x).ten u = s.ten u := by
  simp [State.ten, State.setTen, h]

@[simp] theorem ten_modTen (s : State) (t : Nat) (f : Tenancy → Tenancy) : (s.modTen t f).ten t = f (s.ten t) := by
  simp [State.modTen]

@[simp] theorem ten_modTen_ne (s : State) (t u : Nat) (f : Tenancy → Tenancy) (h : u ≠ t) :
    (s.modTen t f).ten u = s.ten u := by
  simp [State.modTen, h]

@[simp] theorem die_setDie (s : State) (d : Nat) (x : Die) : (s.setDie d x).die d = x := by
  simp [State.die, State.setDie]

@[simp] theorem die_setDie_ne (s : State) (d e : Nat) (x : Die) (h : e ≠ d) : (s.setDie d x).die e = s.die e := by
  simp [State.die, State.setDie, h]

@[simp] theorem setCore_setCore (s : State) (c : Nat) (k l : Core) : (s.setCore c k).setCore c l = s.setCore c l := by
  simp [State.setCore]

@[simp] theorem modCore_setCore (s : State) (c : Nat) (k : Core) (f : Core → Core) :
    (s.setCore c k).modCore c f = s.setCore c (f k) := by
  simp [State.modCore]

theorem modCore_modCore (s : State) (c : Nat) (f g : Core → Core) :
    (s.modCore c f).modCore c g = s.modCore c fun k => g (f k) := by
  simp [State.modCore]

@[simp] theorem core_thr?_setThr (k : Core) (t : Nat) (th : Thread) : (k.setThr t th).thr? t = some th := by
  simp [Core.thr?, Core.setThr]

@[simp] theorem core_thr?_setThr_ne (k : Core) (t u : Nat) (th : Thread) (h : u ≠ t) :
    (k.setThr t th).thr? u = k.thr? u := by
  simp [Core.thr?, Core.setThr, h]

theorem core_thr?_modThr (k : Core) (t : Nat) (f : Thread → Thread) : (k.modThr t f).thr? t = (k.thr? t).map f := by
  simp [Core.thr?, Core.modThr, tget?_tmod_same]

@[simp] theorem core_thr?_modThr_ne (k : Core) (t u : Nat) (f : Thread → Thread) (h : u ≠ t) :
    (k.modThr t f).thr? u = k.thr? u := by
  simp [Core.thr?, Core.modThr, h]

@[simp] theorem thr?_setThr (s : State) (c t : Nat) (th : Thread) : (s.setThr c t th).thr? c t = some th := by
  simp [State.thr?, State.setThr]

/-- Writing one thread leaves every other thread. -/
theorem thr?_setThr_ne (s : State) (c t d u : Nat) (th : Thread) (h : d ≠ c ∨ u ≠ t) :
    (s.setThr c t th).thr? d u = s.thr? d u := by
  by_cases hd : d = c
  · subst hd
    have hu : u ≠ t := by simpa using h
    simp [State.thr?, State.setThr, hu]
  · simp [State.thr?, State.setThr, hd]

theorem thr?_modThr (s : State) (c t : Nat) (f : Thread → Thread) :
    (s.modThr c t f).thr? c t = (s.thr? c t).map f := by
  simp [State.thr?, State.modThr, core_thr?_modThr]

/-- Changing one thread leaves every other thread. -/
theorem thr?_modThr_ne (s : State) (c t d u : Nat) (f : Thread → Thread) (h : d ≠ c ∨ u ≠ t) :
    (s.modThr c t f).thr? d u = s.thr? d u := by
  by_cases hd : d = c
  · subst hd
    have hu : u ≠ t := by simpa using h
    simp [State.thr?, State.modThr, hu]
  · simp [State.thr?, State.modThr, hd]

theorem modThr_of_some {s : State} {c t : Nat} {th : Thread} (h : s.thr? c t = some th) (f : Thread → Thread) :
    s.modThr c t f = s.setThr c t (f th) := by
  have h' : tget? (s.core c).threads t = some th := h
  simp [State.modThr, State.setThr, State.modCore, Core.modThr, Core.setThr, tmod, h']

@[simp] theorem part_setPart (k : Core) (p : Nat) (q : Part) (h : p < 4) : (k.setPart p q).part p = q := by
  have : p = 0 ∨ p = 1 ∨ p = 2 ∨ p = 3 := by omega
  rcases this with rfl | rfl | rfl | rfl <;> rfl

@[simp] theorem setThr_setThr (s : State) (c t : Nat) (a b : Thread) :
    (s.setThr c t a).setThr c t b = s.setThr c t b := by
  simp [State.setThr, State.modCore, Core.setThr]


/-! ### State.setCore leaves the other fields -/

@[simp] theorem state_setCore_cycle (s : State) (c : Nat) (k : Core) : (s.setCore c k).cycle = s.cycle := rfl
@[simp] theorem state_setCore_time (s : State) (c : Nat) (k : Core) : (s.setCore c k).time = s.time := rfl
@[simp] theorem state_setCore_timeFrac (s : State) (c : Nat) (k : Core) : (s.setCore c k).timeFrac = s.timeFrac := rfl
@[simp] theorem state_setCore_device (s : State) (c : Nat) (k : Core) : (s.setCore c k).device = s.device := rfl
@[simp] theorem state_setCore_mem (s : State) (c : Nat) (k : Core) : (s.setCore c k).mem = s.mem := rfl
@[simp] theorem state_setCore_check (s : State) (c : Nat) (k : Core) : (s.setCore c k).check = s.check := rfl
@[simp] theorem state_setCore_attr (s : State) (c : Nat) (k : Core) : (s.setCore c k).attr = s.attr := rfl
@[simp] theorem state_setCore_poison (s : State) (c : Nat) (k : Core) : (s.setCore c k).poison = s.poison := rfl
@[simp] theorem state_setCore_keys (s : State) (c : Nat) (k : Core) : (s.setCore c k).keys = s.keys := rfl
@[simp] theorem state_setCore_aclk (s : State) (c : Nat) (k : Core) : (s.setCore c k).aclk = s.aclk := rfl
@[simp] theorem state_setCore_dies (s : State) (c : Nat) (k : Core) : (s.setCore c k).dies = s.dies := rfl
@[simp] theorem state_setCore_fwds (s : State) (c : Nat) (k : Core) : (s.setCore c k).fwds = s.fwds := rfl
@[simp] theorem state_setCore_watch (s : State) (c : Nat) (k : Core) : (s.setCore c k).watch = s.watch := rfl
@[simp] theorem state_setCore_own (s : State) (c : Nat) (k : Core) : (s.setCore c k).own = s.own := rfl
@[simp] theorem state_setCore_orphans (s : State) (c : Nat) (k : Core) : (s.setCore c k).orphans = s.orphans := rfl
@[simp] theorem state_setCore_tens (s : State) (c : Nat) (k : Core) : (s.setCore c k).tens = s.tens := rfl
@[simp] theorem state_setCore_nodes (s : State) (c : Nat) (k : Core) : (s.setCore c k).nodes = s.nodes := rfl
@[simp] theorem state_setCore_saves (s : State) (c : Nat) (k : Core) : (s.setCore c k).saves = s.saves := rfl
@[simp] theorem state_setCore_msgs (s : State) (c : Nat) (k : Core) : (s.setCore c k).msgs = s.msgs := rfl
@[simp] theorem state_setCore_refused (s : State) (c : Nat) (k : Core) : (s.setCore c k).refused = s.refused := rfl
@[simp] theorem state_setCore_out (s : State) (c : Nat) (k : Core) : (s.setCore c k).out = s.out := rfl
@[simp] theorem state_setCore_reqs (s : State) (c : Nat) (k : Core) : (s.setCore c k).reqs = s.reqs := rfl
@[simp] theorem state_setCore_tileRecs (s : State) (c : Nat) (k : Core) : (s.setCore c k).tileRecs = s.tileRecs := rfl
@[simp] theorem state_setCore_startRec (s : State) (c : Nat) (k : Core) : (s.setCore c k).startRec = s.startRec := rfl
@[simp] theorem state_setCore_startPrev (s : State) (c : Nat) (k : Core) : (s.setCore c k).startPrev = s.startPrev := rfl
@[simp] theorem state_setCore_repairPrev (s : State) (c : Nat) (k : Core) : (s.setCore c k).repairPrev = s.repairPrev := rfl
@[simp] theorem state_setCore_repairs (s : State) (c : Nat) (k : Core) : (s.setCore c k).repairs = s.repairs := rfl
@[simp] theorem state_setCore_badCores (s : State) (c : Nat) (k : Core) : (s.setCore c k).badCores = s.badCores := rfl
@[simp] theorem state_setCore_fuses (s : State) (c : Nat) (k : Core) : (s.setCore c k).fuses = s.fuses := rfl
@[simp] theorem state_setCore_running (s : State) (c : Nat) (k : Core) : (s.setCore c k).running = s.running := rfl
@[simp] theorem state_setCore_haltedAt (s : State) (c : Nat) (k : Core) : (s.setCore c k).haltedAt = s.haltedAt := rfl
@[simp] theorem state_setCore_meas (s : State) (c : Nat) (k : Core) : (s.setCore c k).meas = s.meas := rfl
@[simp] theorem state_setCore_ports (s : State) (c : Nat) (k : Core) : (s.setCore c k).ports = s.ports := rfl
@[simp] theorem state_setCore_laneMaps (s : State) (c : Nat) (k : Core) : (s.setCore c k).laneMaps = s.laneMaps := rfl
@[simp] theorem state_setCore_withheld (s : State) (c : Nat) (k : Core) : (s.setCore c k).withheld = s.withheld := rfl
@[simp] theorem state_setCore_repairMap (s : State) (c : Nat) (k : Core) : (s.setCore c k).repairMap = s.repairMap := rfl
@[simp] theorem state_setCore_pubKey (s : State) (c : Nat) (k : Core) : (s.setCore c k).pubKey = s.pubKey := rfl
@[simp] theorem state_setCore_pwrlim (s : State) (c : Nat) (k : Core) : (s.setCore c k).pwrlim = s.pwrlim := rfl
@[simp] theorem state_setCore_clockSteps (s : State) (c : Nat) (k : Core) : (s.setCore c k).clockSteps = s.clockSteps := rfl
@[simp] theorem state_setCore_ptpdom (s : State) (c : Nat) (k : Core) : (s.setCore c k).ptpdom = s.ptpdom := rfl
@[simp] theorem state_setCore_ptpport (s : State) (c : Nat) (k : Core) : (s.setCore c k).ptpport = s.ptpport := rfl
@[simp] theorem state_setCore_ptpLock (s : State) (c : Nat) (k : Core) : (s.setCore c k).ptpLock = s.ptpLock := rfl
@[simp] theorem state_setCore_slew (s : State) (c : Nat) (k : Core) : (s.setCore c k).slew = s.slew := rfl
@[simp] theorem state_setCore_rtwgt (s : State) (c : Nat) (k : Core) : (s.setCore c k).rtwgt = s.rtwgt := rfl
@[simp] theorem state_setCore_erstk (s : State) (c : Nat) (k : Core) : (s.setCore c k).erstk = s.erstk := rfl
@[simp] theorem state_setCore_ersadr (s : State) (c : Nat) (k : Core) : (s.setCore c k).ersadr = s.ersadr := rfl
@[simp] theorem state_setCore_stitched (s : State) (c : Nat) (k : Core) : (s.setCore c k).stitched = s.stitched := rfl
@[simp] theorem state_setCore_plan (s : State) (c : Nat) (k : Core) : (s.setCore c k).plan = s.plan := rfl
@[simp] theorem state_setCore_turn (s : State) (c : Nat) (k : Core) : (s.setCore c k).turn = s.turn := rfl
@[simp] theorem state_setCore_cur (s : State) (c : Nat) (k : Core) : (s.setCore c k).cur = s.cur := rfl
@[simp] theorem state_setCore_fresh (s : State) (c : Nat) (k : Core) : (s.setCore c k).fresh = s.fresh := rfl
@[simp] theorem state_setCore_qwatch (s : State) (c : Nat) (k : Core) : (s.setCore c k).qwatch = s.qwatch := rfl
@[simp] theorem state_setCore_signals (s : State) (c : Nat) (k : Core) : (s.setCore c k).signals = s.signals := rfl
@[simp] theorem state_setCore_upset (s : State) (c : Nat) (k : Core) : (s.setCore c k).upset = s.upset := rfl
@[simp] theorem state_setCore_issued (s : State) (c : Nat) (k : Core) : (s.setCore c k).issued = s.issued := rfl
@[simp] theorem state_setCore_delay (s : State) (c : Nat) (k : Core) : (s.setCore c k).delay = s.delay := rfl
@[simp] theorem state_setCore_bad (s : State) (c : Nat) (k : Core) : (s.setCore c k).bad = s.bad := rfl

/-! ### State.modCore leaves the other fields -/

@[simp] theorem state_modCore_cycle (s : State) (c : Nat) (f : Core → Core) : (s.modCore c f).cycle = s.cycle := rfl
@[simp] theorem state_modCore_time (s : State) (c : Nat) (f : Core → Core) : (s.modCore c f).time = s.time := rfl
@[simp] theorem state_modCore_timeFrac (s : State) (c : Nat) (f : Core → Core) : (s.modCore c f).timeFrac = s.timeFrac := rfl
@[simp] theorem state_modCore_device (s : State) (c : Nat) (f : Core → Core) : (s.modCore c f).device = s.device := rfl
@[simp] theorem state_modCore_mem (s : State) (c : Nat) (f : Core → Core) : (s.modCore c f).mem = s.mem := rfl
@[simp] theorem state_modCore_check (s : State) (c : Nat) (f : Core → Core) : (s.modCore c f).check = s.check := rfl
@[simp] theorem state_modCore_attr (s : State) (c : Nat) (f : Core → Core) : (s.modCore c f).attr = s.attr := rfl
@[simp] theorem state_modCore_poison (s : State) (c : Nat) (f : Core → Core) : (s.modCore c f).poison = s.poison := rfl
@[simp] theorem state_modCore_keys (s : State) (c : Nat) (f : Core → Core) : (s.modCore c f).keys = s.keys := rfl
@[simp] theorem state_modCore_aclk (s : State) (c : Nat) (f : Core → Core) : (s.modCore c f).aclk = s.aclk := rfl
@[simp] theorem state_modCore_dies (s : State) (c : Nat) (f : Core → Core) : (s.modCore c f).dies = s.dies := rfl
@[simp] theorem state_modCore_fwds (s : State) (c : Nat) (f : Core → Core) : (s.modCore c f).fwds = s.fwds := rfl
@[simp] theorem state_modCore_watch (s : State) (c : Nat) (f : Core → Core) : (s.modCore c f).watch = s.watch := rfl
@[simp] theorem state_modCore_own (s : State) (c : Nat) (f : Core → Core) : (s.modCore c f).own = s.own := rfl
@[simp] theorem state_modCore_orphans (s : State) (c : Nat) (f : Core → Core) : (s.modCore c f).orphans = s.orphans := rfl
@[simp] theorem state_modCore_tens (s : State) (c : Nat) (f : Core → Core) : (s.modCore c f).tens = s.tens := rfl
@[simp] theorem state_modCore_nodes (s : State) (c : Nat) (f : Core → Core) : (s.modCore c f).nodes = s.nodes := rfl
@[simp] theorem state_modCore_saves (s : State) (c : Nat) (f : Core → Core) : (s.modCore c f).saves = s.saves := rfl
@[simp] theorem state_modCore_msgs (s : State) (c : Nat) (f : Core → Core) : (s.modCore c f).msgs = s.msgs := rfl
@[simp] theorem state_modCore_refused (s : State) (c : Nat) (f : Core → Core) : (s.modCore c f).refused = s.refused := rfl
@[simp] theorem state_modCore_out (s : State) (c : Nat) (f : Core → Core) : (s.modCore c f).out = s.out := rfl
@[simp] theorem state_modCore_reqs (s : State) (c : Nat) (f : Core → Core) : (s.modCore c f).reqs = s.reqs := rfl
@[simp] theorem state_modCore_tileRecs (s : State) (c : Nat) (f : Core → Core) : (s.modCore c f).tileRecs = s.tileRecs := rfl
@[simp] theorem state_modCore_startRec (s : State) (c : Nat) (f : Core → Core) : (s.modCore c f).startRec = s.startRec := rfl
@[simp] theorem state_modCore_startPrev (s : State) (c : Nat) (f : Core → Core) : (s.modCore c f).startPrev = s.startPrev := rfl
@[simp] theorem state_modCore_repairPrev (s : State) (c : Nat) (f : Core → Core) : (s.modCore c f).repairPrev = s.repairPrev := rfl
@[simp] theorem state_modCore_repairs (s : State) (c : Nat) (f : Core → Core) : (s.modCore c f).repairs = s.repairs := rfl
@[simp] theorem state_modCore_badCores (s : State) (c : Nat) (f : Core → Core) : (s.modCore c f).badCores = s.badCores := rfl
@[simp] theorem state_modCore_fuses (s : State) (c : Nat) (f : Core → Core) : (s.modCore c f).fuses = s.fuses := rfl
@[simp] theorem state_modCore_running (s : State) (c : Nat) (f : Core → Core) : (s.modCore c f).running = s.running := rfl
@[simp] theorem state_modCore_haltedAt (s : State) (c : Nat) (f : Core → Core) : (s.modCore c f).haltedAt = s.haltedAt := rfl
@[simp] theorem state_modCore_meas (s : State) (c : Nat) (f : Core → Core) : (s.modCore c f).meas = s.meas := rfl
@[simp] theorem state_modCore_ports (s : State) (c : Nat) (f : Core → Core) : (s.modCore c f).ports = s.ports := rfl
@[simp] theorem state_modCore_laneMaps (s : State) (c : Nat) (f : Core → Core) : (s.modCore c f).laneMaps = s.laneMaps := rfl
@[simp] theorem state_modCore_withheld (s : State) (c : Nat) (f : Core → Core) : (s.modCore c f).withheld = s.withheld := rfl
@[simp] theorem state_modCore_repairMap (s : State) (c : Nat) (f : Core → Core) : (s.modCore c f).repairMap = s.repairMap := rfl
@[simp] theorem state_modCore_pubKey (s : State) (c : Nat) (f : Core → Core) : (s.modCore c f).pubKey = s.pubKey := rfl
@[simp] theorem state_modCore_pwrlim (s : State) (c : Nat) (f : Core → Core) : (s.modCore c f).pwrlim = s.pwrlim := rfl
@[simp] theorem state_modCore_clockSteps (s : State) (c : Nat) (f : Core → Core) : (s.modCore c f).clockSteps = s.clockSteps := rfl
@[simp] theorem state_modCore_ptpdom (s : State) (c : Nat) (f : Core → Core) : (s.modCore c f).ptpdom = s.ptpdom := rfl
@[simp] theorem state_modCore_ptpport (s : State) (c : Nat) (f : Core → Core) : (s.modCore c f).ptpport = s.ptpport := rfl
@[simp] theorem state_modCore_ptpLock (s : State) (c : Nat) (f : Core → Core) : (s.modCore c f).ptpLock = s.ptpLock := rfl
@[simp] theorem state_modCore_slew (s : State) (c : Nat) (f : Core → Core) : (s.modCore c f).slew = s.slew := rfl
@[simp] theorem state_modCore_rtwgt (s : State) (c : Nat) (f : Core → Core) : (s.modCore c f).rtwgt = s.rtwgt := rfl
@[simp] theorem state_modCore_erstk (s : State) (c : Nat) (f : Core → Core) : (s.modCore c f).erstk = s.erstk := rfl
@[simp] theorem state_modCore_ersadr (s : State) (c : Nat) (f : Core → Core) : (s.modCore c f).ersadr = s.ersadr := rfl
@[simp] theorem state_modCore_stitched (s : State) (c : Nat) (f : Core → Core) : (s.modCore c f).stitched = s.stitched := rfl
@[simp] theorem state_modCore_plan (s : State) (c : Nat) (f : Core → Core) : (s.modCore c f).plan = s.plan := rfl
@[simp] theorem state_modCore_turn (s : State) (c : Nat) (f : Core → Core) : (s.modCore c f).turn = s.turn := rfl
@[simp] theorem state_modCore_cur (s : State) (c : Nat) (f : Core → Core) : (s.modCore c f).cur = s.cur := rfl
@[simp] theorem state_modCore_fresh (s : State) (c : Nat) (f : Core → Core) : (s.modCore c f).fresh = s.fresh := rfl
@[simp] theorem state_modCore_qwatch (s : State) (c : Nat) (f : Core → Core) : (s.modCore c f).qwatch = s.qwatch := rfl
@[simp] theorem state_modCore_signals (s : State) (c : Nat) (f : Core → Core) : (s.modCore c f).signals = s.signals := rfl
@[simp] theorem state_modCore_upset (s : State) (c : Nat) (f : Core → Core) : (s.modCore c f).upset = s.upset := rfl
@[simp] theorem state_modCore_issued (s : State) (c : Nat) (f : Core → Core) : (s.modCore c f).issued = s.issued := rfl
@[simp] theorem state_modCore_delay (s : State) (c : Nat) (f : Core → Core) : (s.modCore c f).delay = s.delay := rfl
@[simp] theorem state_modCore_bad (s : State) (c : Nat) (f : Core → Core) : (s.modCore c f).bad = s.bad := rfl

/-! ### State.setThr leaves the other fields -/

@[simp] theorem state_setThr_cycle (s : State) (c t : Nat) (th : Thread) : (s.setThr c t th).cycle = s.cycle := rfl
@[simp] theorem state_setThr_time (s : State) (c t : Nat) (th : Thread) : (s.setThr c t th).time = s.time := rfl
@[simp] theorem state_setThr_timeFrac (s : State) (c t : Nat) (th : Thread) : (s.setThr c t th).timeFrac = s.timeFrac := rfl
@[simp] theorem state_setThr_device (s : State) (c t : Nat) (th : Thread) : (s.setThr c t th).device = s.device := rfl
@[simp] theorem state_setThr_mem (s : State) (c t : Nat) (th : Thread) : (s.setThr c t th).mem = s.mem := rfl
@[simp] theorem state_setThr_check (s : State) (c t : Nat) (th : Thread) : (s.setThr c t th).check = s.check := rfl
@[simp] theorem state_setThr_attr (s : State) (c t : Nat) (th : Thread) : (s.setThr c t th).attr = s.attr := rfl
@[simp] theorem state_setThr_poison (s : State) (c t : Nat) (th : Thread) : (s.setThr c t th).poison = s.poison := rfl
@[simp] theorem state_setThr_keys (s : State) (c t : Nat) (th : Thread) : (s.setThr c t th).keys = s.keys := rfl
@[simp] theorem state_setThr_aclk (s : State) (c t : Nat) (th : Thread) : (s.setThr c t th).aclk = s.aclk := rfl
@[simp] theorem state_setThr_dies (s : State) (c t : Nat) (th : Thread) : (s.setThr c t th).dies = s.dies := rfl
@[simp] theorem state_setThr_fwds (s : State) (c t : Nat) (th : Thread) : (s.setThr c t th).fwds = s.fwds := rfl
@[simp] theorem state_setThr_watch (s : State) (c t : Nat) (th : Thread) : (s.setThr c t th).watch = s.watch := rfl
@[simp] theorem state_setThr_own (s : State) (c t : Nat) (th : Thread) : (s.setThr c t th).own = s.own := rfl
@[simp] theorem state_setThr_orphans (s : State) (c t : Nat) (th : Thread) : (s.setThr c t th).orphans = s.orphans := rfl
@[simp] theorem state_setThr_tens (s : State) (c t : Nat) (th : Thread) : (s.setThr c t th).tens = s.tens := rfl
@[simp] theorem state_setThr_nodes (s : State) (c t : Nat) (th : Thread) : (s.setThr c t th).nodes = s.nodes := rfl
@[simp] theorem state_setThr_saves (s : State) (c t : Nat) (th : Thread) : (s.setThr c t th).saves = s.saves := rfl
@[simp] theorem state_setThr_msgs (s : State) (c t : Nat) (th : Thread) : (s.setThr c t th).msgs = s.msgs := rfl
@[simp] theorem state_setThr_refused (s : State) (c t : Nat) (th : Thread) : (s.setThr c t th).refused = s.refused := rfl
@[simp] theorem state_setThr_out (s : State) (c t : Nat) (th : Thread) : (s.setThr c t th).out = s.out := rfl
@[simp] theorem state_setThr_reqs (s : State) (c t : Nat) (th : Thread) : (s.setThr c t th).reqs = s.reqs := rfl
@[simp] theorem state_setThr_tileRecs (s : State) (c t : Nat) (th : Thread) : (s.setThr c t th).tileRecs = s.tileRecs := rfl
@[simp] theorem state_setThr_startRec (s : State) (c t : Nat) (th : Thread) : (s.setThr c t th).startRec = s.startRec := rfl
@[simp] theorem state_setThr_startPrev (s : State) (c t : Nat) (th : Thread) : (s.setThr c t th).startPrev = s.startPrev := rfl
@[simp] theorem state_setThr_repairPrev (s : State) (c t : Nat) (th : Thread) : (s.setThr c t th).repairPrev = s.repairPrev := rfl
@[simp] theorem state_setThr_repairs (s : State) (c t : Nat) (th : Thread) : (s.setThr c t th).repairs = s.repairs := rfl
@[simp] theorem state_setThr_badCores (s : State) (c t : Nat) (th : Thread) : (s.setThr c t th).badCores = s.badCores := rfl
@[simp] theorem state_setThr_fuses (s : State) (c t : Nat) (th : Thread) : (s.setThr c t th).fuses = s.fuses := rfl
@[simp] theorem state_setThr_running (s : State) (c t : Nat) (th : Thread) : (s.setThr c t th).running = s.running := rfl
@[simp] theorem state_setThr_haltedAt (s : State) (c t : Nat) (th : Thread) : (s.setThr c t th).haltedAt = s.haltedAt := rfl
@[simp] theorem state_setThr_meas (s : State) (c t : Nat) (th : Thread) : (s.setThr c t th).meas = s.meas := rfl
@[simp] theorem state_setThr_ports (s : State) (c t : Nat) (th : Thread) : (s.setThr c t th).ports = s.ports := rfl
@[simp] theorem state_setThr_laneMaps (s : State) (c t : Nat) (th : Thread) : (s.setThr c t th).laneMaps = s.laneMaps := rfl
@[simp] theorem state_setThr_withheld (s : State) (c t : Nat) (th : Thread) : (s.setThr c t th).withheld = s.withheld := rfl
@[simp] theorem state_setThr_repairMap (s : State) (c t : Nat) (th : Thread) : (s.setThr c t th).repairMap = s.repairMap := rfl
@[simp] theorem state_setThr_pubKey (s : State) (c t : Nat) (th : Thread) : (s.setThr c t th).pubKey = s.pubKey := rfl
@[simp] theorem state_setThr_pwrlim (s : State) (c t : Nat) (th : Thread) : (s.setThr c t th).pwrlim = s.pwrlim := rfl
@[simp] theorem state_setThr_clockSteps (s : State) (c t : Nat) (th : Thread) : (s.setThr c t th).clockSteps = s.clockSteps := rfl
@[simp] theorem state_setThr_ptpdom (s : State) (c t : Nat) (th : Thread) : (s.setThr c t th).ptpdom = s.ptpdom := rfl
@[simp] theorem state_setThr_ptpport (s : State) (c t : Nat) (th : Thread) : (s.setThr c t th).ptpport = s.ptpport := rfl
@[simp] theorem state_setThr_ptpLock (s : State) (c t : Nat) (th : Thread) : (s.setThr c t th).ptpLock = s.ptpLock := rfl
@[simp] theorem state_setThr_slew (s : State) (c t : Nat) (th : Thread) : (s.setThr c t th).slew = s.slew := rfl
@[simp] theorem state_setThr_rtwgt (s : State) (c t : Nat) (th : Thread) : (s.setThr c t th).rtwgt = s.rtwgt := rfl
@[simp] theorem state_setThr_erstk (s : State) (c t : Nat) (th : Thread) : (s.setThr c t th).erstk = s.erstk := rfl
@[simp] theorem state_setThr_ersadr (s : State) (c t : Nat) (th : Thread) : (s.setThr c t th).ersadr = s.ersadr := rfl
@[simp] theorem state_setThr_stitched (s : State) (c t : Nat) (th : Thread) : (s.setThr c t th).stitched = s.stitched := rfl
@[simp] theorem state_setThr_plan (s : State) (c t : Nat) (th : Thread) : (s.setThr c t th).plan = s.plan := rfl
@[simp] theorem state_setThr_turn (s : State) (c t : Nat) (th : Thread) : (s.setThr c t th).turn = s.turn := rfl
@[simp] theorem state_setThr_cur (s : State) (c t : Nat) (th : Thread) : (s.setThr c t th).cur = s.cur := rfl
@[simp] theorem state_setThr_fresh (s : State) (c t : Nat) (th : Thread) : (s.setThr c t th).fresh = s.fresh := rfl
@[simp] theorem state_setThr_qwatch (s : State) (c t : Nat) (th : Thread) : (s.setThr c t th).qwatch = s.qwatch := rfl
@[simp] theorem state_setThr_signals (s : State) (c t : Nat) (th : Thread) : (s.setThr c t th).signals = s.signals := rfl
@[simp] theorem state_setThr_upset (s : State) (c t : Nat) (th : Thread) : (s.setThr c t th).upset = s.upset := rfl
@[simp] theorem state_setThr_issued (s : State) (c t : Nat) (th : Thread) : (s.setThr c t th).issued = s.issued := rfl
@[simp] theorem state_setThr_delay (s : State) (c t : Nat) (th : Thread) : (s.setThr c t th).delay = s.delay := rfl
@[simp] theorem state_setThr_bad (s : State) (c t : Nat) (th : Thread) : (s.setThr c t th).bad = s.bad := rfl

/-! ### State.modThr leaves the other fields -/

@[simp] theorem state_modThr_cycle (s : State) (c t : Nat) (f : Thread → Thread) : (s.modThr c t f).cycle = s.cycle := rfl
@[simp] theorem state_modThr_time (s : State) (c t : Nat) (f : Thread → Thread) : (s.modThr c t f).time = s.time := rfl
@[simp] theorem state_modThr_timeFrac (s : State) (c t : Nat) (f : Thread → Thread) : (s.modThr c t f).timeFrac = s.timeFrac := rfl
@[simp] theorem state_modThr_device (s : State) (c t : Nat) (f : Thread → Thread) : (s.modThr c t f).device = s.device := rfl
@[simp] theorem state_modThr_mem (s : State) (c t : Nat) (f : Thread → Thread) : (s.modThr c t f).mem = s.mem := rfl
@[simp] theorem state_modThr_check (s : State) (c t : Nat) (f : Thread → Thread) : (s.modThr c t f).check = s.check := rfl
@[simp] theorem state_modThr_attr (s : State) (c t : Nat) (f : Thread → Thread) : (s.modThr c t f).attr = s.attr := rfl
@[simp] theorem state_modThr_poison (s : State) (c t : Nat) (f : Thread → Thread) : (s.modThr c t f).poison = s.poison := rfl
@[simp] theorem state_modThr_keys (s : State) (c t : Nat) (f : Thread → Thread) : (s.modThr c t f).keys = s.keys := rfl
@[simp] theorem state_modThr_aclk (s : State) (c t : Nat) (f : Thread → Thread) : (s.modThr c t f).aclk = s.aclk := rfl
@[simp] theorem state_modThr_dies (s : State) (c t : Nat) (f : Thread → Thread) : (s.modThr c t f).dies = s.dies := rfl
@[simp] theorem state_modThr_fwds (s : State) (c t : Nat) (f : Thread → Thread) : (s.modThr c t f).fwds = s.fwds := rfl
@[simp] theorem state_modThr_watch (s : State) (c t : Nat) (f : Thread → Thread) : (s.modThr c t f).watch = s.watch := rfl
@[simp] theorem state_modThr_own (s : State) (c t : Nat) (f : Thread → Thread) : (s.modThr c t f).own = s.own := rfl
@[simp] theorem state_modThr_orphans (s : State) (c t : Nat) (f : Thread → Thread) : (s.modThr c t f).orphans = s.orphans := rfl
@[simp] theorem state_modThr_tens (s : State) (c t : Nat) (f : Thread → Thread) : (s.modThr c t f).tens = s.tens := rfl
@[simp] theorem state_modThr_nodes (s : State) (c t : Nat) (f : Thread → Thread) : (s.modThr c t f).nodes = s.nodes := rfl
@[simp] theorem state_modThr_saves (s : State) (c t : Nat) (f : Thread → Thread) : (s.modThr c t f).saves = s.saves := rfl
@[simp] theorem state_modThr_msgs (s : State) (c t : Nat) (f : Thread → Thread) : (s.modThr c t f).msgs = s.msgs := rfl
@[simp] theorem state_modThr_refused (s : State) (c t : Nat) (f : Thread → Thread) : (s.modThr c t f).refused = s.refused := rfl
@[simp] theorem state_modThr_out (s : State) (c t : Nat) (f : Thread → Thread) : (s.modThr c t f).out = s.out := rfl
@[simp] theorem state_modThr_reqs (s : State) (c t : Nat) (f : Thread → Thread) : (s.modThr c t f).reqs = s.reqs := rfl
@[simp] theorem state_modThr_tileRecs (s : State) (c t : Nat) (f : Thread → Thread) : (s.modThr c t f).tileRecs = s.tileRecs := rfl
@[simp] theorem state_modThr_startRec (s : State) (c t : Nat) (f : Thread → Thread) : (s.modThr c t f).startRec = s.startRec := rfl
@[simp] theorem state_modThr_startPrev (s : State) (c t : Nat) (f : Thread → Thread) : (s.modThr c t f).startPrev = s.startPrev := rfl
@[simp] theorem state_modThr_repairPrev (s : State) (c t : Nat) (f : Thread → Thread) : (s.modThr c t f).repairPrev = s.repairPrev := rfl
@[simp] theorem state_modThr_repairs (s : State) (c t : Nat) (f : Thread → Thread) : (s.modThr c t f).repairs = s.repairs := rfl
@[simp] theorem state_modThr_badCores (s : State) (c t : Nat) (f : Thread → Thread) : (s.modThr c t f).badCores = s.badCores := rfl
@[simp] theorem state_modThr_fuses (s : State) (c t : Nat) (f : Thread → Thread) : (s.modThr c t f).fuses = s.fuses := rfl
@[simp] theorem state_modThr_running (s : State) (c t : Nat) (f : Thread → Thread) : (s.modThr c t f).running = s.running := rfl
@[simp] theorem state_modThr_haltedAt (s : State) (c t : Nat) (f : Thread → Thread) : (s.modThr c t f).haltedAt = s.haltedAt := rfl
@[simp] theorem state_modThr_meas (s : State) (c t : Nat) (f : Thread → Thread) : (s.modThr c t f).meas = s.meas := rfl
@[simp] theorem state_modThr_ports (s : State) (c t : Nat) (f : Thread → Thread) : (s.modThr c t f).ports = s.ports := rfl
@[simp] theorem state_modThr_laneMaps (s : State) (c t : Nat) (f : Thread → Thread) : (s.modThr c t f).laneMaps = s.laneMaps := rfl
@[simp] theorem state_modThr_withheld (s : State) (c t : Nat) (f : Thread → Thread) : (s.modThr c t f).withheld = s.withheld := rfl
@[simp] theorem state_modThr_repairMap (s : State) (c t : Nat) (f : Thread → Thread) : (s.modThr c t f).repairMap = s.repairMap := rfl
@[simp] theorem state_modThr_pubKey (s : State) (c t : Nat) (f : Thread → Thread) : (s.modThr c t f).pubKey = s.pubKey := rfl
@[simp] theorem state_modThr_pwrlim (s : State) (c t : Nat) (f : Thread → Thread) : (s.modThr c t f).pwrlim = s.pwrlim := rfl
@[simp] theorem state_modThr_clockSteps (s : State) (c t : Nat) (f : Thread → Thread) : (s.modThr c t f).clockSteps = s.clockSteps := rfl
@[simp] theorem state_modThr_ptpdom (s : State) (c t : Nat) (f : Thread → Thread) : (s.modThr c t f).ptpdom = s.ptpdom := rfl
@[simp] theorem state_modThr_ptpport (s : State) (c t : Nat) (f : Thread → Thread) : (s.modThr c t f).ptpport = s.ptpport := rfl
@[simp] theorem state_modThr_ptpLock (s : State) (c t : Nat) (f : Thread → Thread) : (s.modThr c t f).ptpLock = s.ptpLock := rfl
@[simp] theorem state_modThr_slew (s : State) (c t : Nat) (f : Thread → Thread) : (s.modThr c t f).slew = s.slew := rfl
@[simp] theorem state_modThr_rtwgt (s : State) (c t : Nat) (f : Thread → Thread) : (s.modThr c t f).rtwgt = s.rtwgt := rfl
@[simp] theorem state_modThr_erstk (s : State) (c t : Nat) (f : Thread → Thread) : (s.modThr c t f).erstk = s.erstk := rfl
@[simp] theorem state_modThr_ersadr (s : State) (c t : Nat) (f : Thread → Thread) : (s.modThr c t f).ersadr = s.ersadr := rfl
@[simp] theorem state_modThr_stitched (s : State) (c t : Nat) (f : Thread → Thread) : (s.modThr c t f).stitched = s.stitched := rfl
@[simp] theorem state_modThr_plan (s : State) (c t : Nat) (f : Thread → Thread) : (s.modThr c t f).plan = s.plan := rfl
@[simp] theorem state_modThr_turn (s : State) (c t : Nat) (f : Thread → Thread) : (s.modThr c t f).turn = s.turn := rfl
@[simp] theorem state_modThr_cur (s : State) (c t : Nat) (f : Thread → Thread) : (s.modThr c t f).cur = s.cur := rfl
@[simp] theorem state_modThr_fresh (s : State) (c t : Nat) (f : Thread → Thread) : (s.modThr c t f).fresh = s.fresh := rfl
@[simp] theorem state_modThr_qwatch (s : State) (c t : Nat) (f : Thread → Thread) : (s.modThr c t f).qwatch = s.qwatch := rfl
@[simp] theorem state_modThr_signals (s : State) (c t : Nat) (f : Thread → Thread) : (s.modThr c t f).signals = s.signals := rfl
@[simp] theorem state_modThr_upset (s : State) (c t : Nat) (f : Thread → Thread) : (s.modThr c t f).upset = s.upset := rfl
@[simp] theorem state_modThr_issued (s : State) (c t : Nat) (f : Thread → Thread) : (s.modThr c t f).issued = s.issued := rfl
@[simp] theorem state_modThr_delay (s : State) (c t : Nat) (f : Thread → Thread) : (s.modThr c t f).delay = s.delay := rfl
@[simp] theorem state_modThr_bad (s : State) (c t : Nat) (f : Thread → Thread) : (s.modThr c t f).bad = s.bad := rfl

/-! ### State.modPart leaves the other fields -/

@[simp] theorem state_modPart_cycle (s : State) (c p : Nat) (f : Part → Part) : (s.modPart c p f).cycle = s.cycle := rfl
@[simp] theorem state_modPart_time (s : State) (c p : Nat) (f : Part → Part) : (s.modPart c p f).time = s.time := rfl
@[simp] theorem state_modPart_timeFrac (s : State) (c p : Nat) (f : Part → Part) : (s.modPart c p f).timeFrac = s.timeFrac := rfl
@[simp] theorem state_modPart_device (s : State) (c p : Nat) (f : Part → Part) : (s.modPart c p f).device = s.device := rfl
@[simp] theorem state_modPart_mem (s : State) (c p : Nat) (f : Part → Part) : (s.modPart c p f).mem = s.mem := rfl
@[simp] theorem state_modPart_check (s : State) (c p : Nat) (f : Part → Part) : (s.modPart c p f).check = s.check := rfl
@[simp] theorem state_modPart_attr (s : State) (c p : Nat) (f : Part → Part) : (s.modPart c p f).attr = s.attr := rfl
@[simp] theorem state_modPart_poison (s : State) (c p : Nat) (f : Part → Part) : (s.modPart c p f).poison = s.poison := rfl
@[simp] theorem state_modPart_keys (s : State) (c p : Nat) (f : Part → Part) : (s.modPart c p f).keys = s.keys := rfl
@[simp] theorem state_modPart_aclk (s : State) (c p : Nat) (f : Part → Part) : (s.modPart c p f).aclk = s.aclk := rfl
@[simp] theorem state_modPart_dies (s : State) (c p : Nat) (f : Part → Part) : (s.modPart c p f).dies = s.dies := rfl
@[simp] theorem state_modPart_fwds (s : State) (c p : Nat) (f : Part → Part) : (s.modPart c p f).fwds = s.fwds := rfl
@[simp] theorem state_modPart_watch (s : State) (c p : Nat) (f : Part → Part) : (s.modPart c p f).watch = s.watch := rfl
@[simp] theorem state_modPart_own (s : State) (c p : Nat) (f : Part → Part) : (s.modPart c p f).own = s.own := rfl
@[simp] theorem state_modPart_orphans (s : State) (c p : Nat) (f : Part → Part) : (s.modPart c p f).orphans = s.orphans := rfl
@[simp] theorem state_modPart_tens (s : State) (c p : Nat) (f : Part → Part) : (s.modPart c p f).tens = s.tens := rfl
@[simp] theorem state_modPart_nodes (s : State) (c p : Nat) (f : Part → Part) : (s.modPart c p f).nodes = s.nodes := rfl
@[simp] theorem state_modPart_saves (s : State) (c p : Nat) (f : Part → Part) : (s.modPart c p f).saves = s.saves := rfl
@[simp] theorem state_modPart_msgs (s : State) (c p : Nat) (f : Part → Part) : (s.modPart c p f).msgs = s.msgs := rfl
@[simp] theorem state_modPart_refused (s : State) (c p : Nat) (f : Part → Part) : (s.modPart c p f).refused = s.refused := rfl
@[simp] theorem state_modPart_out (s : State) (c p : Nat) (f : Part → Part) : (s.modPart c p f).out = s.out := rfl
@[simp] theorem state_modPart_reqs (s : State) (c p : Nat) (f : Part → Part) : (s.modPart c p f).reqs = s.reqs := rfl
@[simp] theorem state_modPart_tileRecs (s : State) (c p : Nat) (f : Part → Part) : (s.modPart c p f).tileRecs = s.tileRecs := rfl
@[simp] theorem state_modPart_startRec (s : State) (c p : Nat) (f : Part → Part) : (s.modPart c p f).startRec = s.startRec := rfl
@[simp] theorem state_modPart_startPrev (s : State) (c p : Nat) (f : Part → Part) : (s.modPart c p f).startPrev = s.startPrev := rfl
@[simp] theorem state_modPart_repairPrev (s : State) (c p : Nat) (f : Part → Part) : (s.modPart c p f).repairPrev = s.repairPrev := rfl
@[simp] theorem state_modPart_repairs (s : State) (c p : Nat) (f : Part → Part) : (s.modPart c p f).repairs = s.repairs := rfl
@[simp] theorem state_modPart_badCores (s : State) (c p : Nat) (f : Part → Part) : (s.modPart c p f).badCores = s.badCores := rfl
@[simp] theorem state_modPart_fuses (s : State) (c p : Nat) (f : Part → Part) : (s.modPart c p f).fuses = s.fuses := rfl
@[simp] theorem state_modPart_running (s : State) (c p : Nat) (f : Part → Part) : (s.modPart c p f).running = s.running := rfl
@[simp] theorem state_modPart_haltedAt (s : State) (c p : Nat) (f : Part → Part) : (s.modPart c p f).haltedAt = s.haltedAt := rfl
@[simp] theorem state_modPart_meas (s : State) (c p : Nat) (f : Part → Part) : (s.modPart c p f).meas = s.meas := rfl
@[simp] theorem state_modPart_ports (s : State) (c p : Nat) (f : Part → Part) : (s.modPart c p f).ports = s.ports := rfl
@[simp] theorem state_modPart_laneMaps (s : State) (c p : Nat) (f : Part → Part) : (s.modPart c p f).laneMaps = s.laneMaps := rfl
@[simp] theorem state_modPart_withheld (s : State) (c p : Nat) (f : Part → Part) : (s.modPart c p f).withheld = s.withheld := rfl
@[simp] theorem state_modPart_repairMap (s : State) (c p : Nat) (f : Part → Part) : (s.modPart c p f).repairMap = s.repairMap := rfl
@[simp] theorem state_modPart_pubKey (s : State) (c p : Nat) (f : Part → Part) : (s.modPart c p f).pubKey = s.pubKey := rfl
@[simp] theorem state_modPart_pwrlim (s : State) (c p : Nat) (f : Part → Part) : (s.modPart c p f).pwrlim = s.pwrlim := rfl
@[simp] theorem state_modPart_clockSteps (s : State) (c p : Nat) (f : Part → Part) : (s.modPart c p f).clockSteps = s.clockSteps := rfl
@[simp] theorem state_modPart_ptpdom (s : State) (c p : Nat) (f : Part → Part) : (s.modPart c p f).ptpdom = s.ptpdom := rfl
@[simp] theorem state_modPart_ptpport (s : State) (c p : Nat) (f : Part → Part) : (s.modPart c p f).ptpport = s.ptpport := rfl
@[simp] theorem state_modPart_ptpLock (s : State) (c p : Nat) (f : Part → Part) : (s.modPart c p f).ptpLock = s.ptpLock := rfl
@[simp] theorem state_modPart_slew (s : State) (c p : Nat) (f : Part → Part) : (s.modPart c p f).slew = s.slew := rfl
@[simp] theorem state_modPart_rtwgt (s : State) (c p : Nat) (f : Part → Part) : (s.modPart c p f).rtwgt = s.rtwgt := rfl
@[simp] theorem state_modPart_erstk (s : State) (c p : Nat) (f : Part → Part) : (s.modPart c p f).erstk = s.erstk := rfl
@[simp] theorem state_modPart_ersadr (s : State) (c p : Nat) (f : Part → Part) : (s.modPart c p f).ersadr = s.ersadr := rfl
@[simp] theorem state_modPart_stitched (s : State) (c p : Nat) (f : Part → Part) : (s.modPart c p f).stitched = s.stitched := rfl
@[simp] theorem state_modPart_plan (s : State) (c p : Nat) (f : Part → Part) : (s.modPart c p f).plan = s.plan := rfl
@[simp] theorem state_modPart_turn (s : State) (c p : Nat) (f : Part → Part) : (s.modPart c p f).turn = s.turn := rfl
@[simp] theorem state_modPart_cur (s : State) (c p : Nat) (f : Part → Part) : (s.modPart c p f).cur = s.cur := rfl
@[simp] theorem state_modPart_fresh (s : State) (c p : Nat) (f : Part → Part) : (s.modPart c p f).fresh = s.fresh := rfl
@[simp] theorem state_modPart_qwatch (s : State) (c p : Nat) (f : Part → Part) : (s.modPart c p f).qwatch = s.qwatch := rfl
@[simp] theorem state_modPart_signals (s : State) (c p : Nat) (f : Part → Part) : (s.modPart c p f).signals = s.signals := rfl
@[simp] theorem state_modPart_upset (s : State) (c p : Nat) (f : Part → Part) : (s.modPart c p f).upset = s.upset := rfl
@[simp] theorem state_modPart_issued (s : State) (c p : Nat) (f : Part → Part) : (s.modPart c p f).issued = s.issued := rfl
@[simp] theorem state_modPart_delay (s : State) (c p : Nat) (f : Part → Part) : (s.modPart c p f).delay = s.delay := rfl
@[simp] theorem state_modPart_bad (s : State) (c p : Nat) (f : Part → Part) : (s.modPart c p f).bad = s.bad := rfl

/-! ### State.setTen leaves the other fields -/

@[simp] theorem state_setTen_cycle (s : State) (t : Nat) (x : Tenancy) : (s.setTen t x).cycle = s.cycle := rfl
@[simp] theorem state_setTen_time (s : State) (t : Nat) (x : Tenancy) : (s.setTen t x).time = s.time := rfl
@[simp] theorem state_setTen_timeFrac (s : State) (t : Nat) (x : Tenancy) : (s.setTen t x).timeFrac = s.timeFrac := rfl
@[simp] theorem state_setTen_device (s : State) (t : Nat) (x : Tenancy) : (s.setTen t x).device = s.device := rfl
@[simp] theorem state_setTen_mem (s : State) (t : Nat) (x : Tenancy) : (s.setTen t x).mem = s.mem := rfl
@[simp] theorem state_setTen_check (s : State) (t : Nat) (x : Tenancy) : (s.setTen t x).check = s.check := rfl
@[simp] theorem state_setTen_attr (s : State) (t : Nat) (x : Tenancy) : (s.setTen t x).attr = s.attr := rfl
@[simp] theorem state_setTen_poison (s : State) (t : Nat) (x : Tenancy) : (s.setTen t x).poison = s.poison := rfl
@[simp] theorem state_setTen_keys (s : State) (t : Nat) (x : Tenancy) : (s.setTen t x).keys = s.keys := rfl
@[simp] theorem state_setTen_aclk (s : State) (t : Nat) (x : Tenancy) : (s.setTen t x).aclk = s.aclk := rfl
@[simp] theorem state_setTen_dies (s : State) (t : Nat) (x : Tenancy) : (s.setTen t x).dies = s.dies := rfl
@[simp] theorem state_setTen_fwds (s : State) (t : Nat) (x : Tenancy) : (s.setTen t x).fwds = s.fwds := rfl
@[simp] theorem state_setTen_watch (s : State) (t : Nat) (x : Tenancy) : (s.setTen t x).watch = s.watch := rfl
@[simp] theorem state_setTen_own (s : State) (t : Nat) (x : Tenancy) : (s.setTen t x).own = s.own := rfl
@[simp] theorem state_setTen_orphans (s : State) (t : Nat) (x : Tenancy) : (s.setTen t x).orphans = s.orphans := rfl
@[simp] theorem state_setTen_cores (s : State) (t : Nat) (x : Tenancy) : (s.setTen t x).cores = s.cores := rfl
@[simp] theorem state_setTen_nodes (s : State) (t : Nat) (x : Tenancy) : (s.setTen t x).nodes = s.nodes := rfl
@[simp] theorem state_setTen_saves (s : State) (t : Nat) (x : Tenancy) : (s.setTen t x).saves = s.saves := rfl
@[simp] theorem state_setTen_msgs (s : State) (t : Nat) (x : Tenancy) : (s.setTen t x).msgs = s.msgs := rfl
@[simp] theorem state_setTen_refused (s : State) (t : Nat) (x : Tenancy) : (s.setTen t x).refused = s.refused := rfl
@[simp] theorem state_setTen_out (s : State) (t : Nat) (x : Tenancy) : (s.setTen t x).out = s.out := rfl
@[simp] theorem state_setTen_reqs (s : State) (t : Nat) (x : Tenancy) : (s.setTen t x).reqs = s.reqs := rfl
@[simp] theorem state_setTen_tileRecs (s : State) (t : Nat) (x : Tenancy) : (s.setTen t x).tileRecs = s.tileRecs := rfl
@[simp] theorem state_setTen_startRec (s : State) (t : Nat) (x : Tenancy) : (s.setTen t x).startRec = s.startRec := rfl
@[simp] theorem state_setTen_startPrev (s : State) (t : Nat) (x : Tenancy) : (s.setTen t x).startPrev = s.startPrev := rfl
@[simp] theorem state_setTen_repairPrev (s : State) (t : Nat) (x : Tenancy) : (s.setTen t x).repairPrev = s.repairPrev := rfl
@[simp] theorem state_setTen_repairs (s : State) (t : Nat) (x : Tenancy) : (s.setTen t x).repairs = s.repairs := rfl
@[simp] theorem state_setTen_badCores (s : State) (t : Nat) (x : Tenancy) : (s.setTen t x).badCores = s.badCores := rfl
@[simp] theorem state_setTen_fuses (s : State) (t : Nat) (x : Tenancy) : (s.setTen t x).fuses = s.fuses := rfl
@[simp] theorem state_setTen_running (s : State) (t : Nat) (x : Tenancy) : (s.setTen t x).running = s.running := rfl
@[simp] theorem state_setTen_haltedAt (s : State) (t : Nat) (x : Tenancy) : (s.setTen t x).haltedAt = s.haltedAt := rfl
@[simp] theorem state_setTen_meas (s : State) (t : Nat) (x : Tenancy) : (s.setTen t x).meas = s.meas := rfl
@[simp] theorem state_setTen_ports (s : State) (t : Nat) (x : Tenancy) : (s.setTen t x).ports = s.ports := rfl
@[simp] theorem state_setTen_laneMaps (s : State) (t : Nat) (x : Tenancy) : (s.setTen t x).laneMaps = s.laneMaps := rfl
@[simp] theorem state_setTen_withheld (s : State) (t : Nat) (x : Tenancy) : (s.setTen t x).withheld = s.withheld := rfl
@[simp] theorem state_setTen_repairMap (s : State) (t : Nat) (x : Tenancy) : (s.setTen t x).repairMap = s.repairMap := rfl
@[simp] theorem state_setTen_pubKey (s : State) (t : Nat) (x : Tenancy) : (s.setTen t x).pubKey = s.pubKey := rfl
@[simp] theorem state_setTen_pwrlim (s : State) (t : Nat) (x : Tenancy) : (s.setTen t x).pwrlim = s.pwrlim := rfl
@[simp] theorem state_setTen_clockSteps (s : State) (t : Nat) (x : Tenancy) : (s.setTen t x).clockSteps = s.clockSteps := rfl
@[simp] theorem state_setTen_ptpdom (s : State) (t : Nat) (x : Tenancy) : (s.setTen t x).ptpdom = s.ptpdom := rfl
@[simp] theorem state_setTen_ptpport (s : State) (t : Nat) (x : Tenancy) : (s.setTen t x).ptpport = s.ptpport := rfl
@[simp] theorem state_setTen_ptpLock (s : State) (t : Nat) (x : Tenancy) : (s.setTen t x).ptpLock = s.ptpLock := rfl
@[simp] theorem state_setTen_slew (s : State) (t : Nat) (x : Tenancy) : (s.setTen t x).slew = s.slew := rfl
@[simp] theorem state_setTen_rtwgt (s : State) (t : Nat) (x : Tenancy) : (s.setTen t x).rtwgt = s.rtwgt := rfl
@[simp] theorem state_setTen_erstk (s : State) (t : Nat) (x : Tenancy) : (s.setTen t x).erstk = s.erstk := rfl
@[simp] theorem state_setTen_ersadr (s : State) (t : Nat) (x : Tenancy) : (s.setTen t x).ersadr = s.ersadr := rfl
@[simp] theorem state_setTen_stitched (s : State) (t : Nat) (x : Tenancy) : (s.setTen t x).stitched = s.stitched := rfl
@[simp] theorem state_setTen_plan (s : State) (t : Nat) (x : Tenancy) : (s.setTen t x).plan = s.plan := rfl
@[simp] theorem state_setTen_turn (s : State) (t : Nat) (x : Tenancy) : (s.setTen t x).turn = s.turn := rfl
@[simp] theorem state_setTen_cur (s : State) (t : Nat) (x : Tenancy) : (s.setTen t x).cur = s.cur := rfl
@[simp] theorem state_setTen_fresh (s : State) (t : Nat) (x : Tenancy) : (s.setTen t x).fresh = s.fresh := rfl
@[simp] theorem state_setTen_qwatch (s : State) (t : Nat) (x : Tenancy) : (s.setTen t x).qwatch = s.qwatch := rfl
@[simp] theorem state_setTen_signals (s : State) (t : Nat) (x : Tenancy) : (s.setTen t x).signals = s.signals := rfl
@[simp] theorem state_setTen_upset (s : State) (t : Nat) (x : Tenancy) : (s.setTen t x).upset = s.upset := rfl
@[simp] theorem state_setTen_issued (s : State) (t : Nat) (x : Tenancy) : (s.setTen t x).issued = s.issued := rfl
@[simp] theorem state_setTen_delay (s : State) (t : Nat) (x : Tenancy) : (s.setTen t x).delay = s.delay := rfl
@[simp] theorem state_setTen_bad (s : State) (t : Nat) (x : Tenancy) : (s.setTen t x).bad = s.bad := rfl

/-! ### State.modTen leaves the other fields -/

@[simp] theorem state_modTen_cycle (s : State) (t : Nat) (f : Tenancy → Tenancy) : (s.modTen t f).cycle = s.cycle := rfl
@[simp] theorem state_modTen_time (s : State) (t : Nat) (f : Tenancy → Tenancy) : (s.modTen t f).time = s.time := rfl
@[simp] theorem state_modTen_timeFrac (s : State) (t : Nat) (f : Tenancy → Tenancy) : (s.modTen t f).timeFrac = s.timeFrac := rfl
@[simp] theorem state_modTen_device (s : State) (t : Nat) (f : Tenancy → Tenancy) : (s.modTen t f).device = s.device := rfl
@[simp] theorem state_modTen_mem (s : State) (t : Nat) (f : Tenancy → Tenancy) : (s.modTen t f).mem = s.mem := rfl
@[simp] theorem state_modTen_check (s : State) (t : Nat) (f : Tenancy → Tenancy) : (s.modTen t f).check = s.check := rfl
@[simp] theorem state_modTen_attr (s : State) (t : Nat) (f : Tenancy → Tenancy) : (s.modTen t f).attr = s.attr := rfl
@[simp] theorem state_modTen_poison (s : State) (t : Nat) (f : Tenancy → Tenancy) : (s.modTen t f).poison = s.poison := rfl
@[simp] theorem state_modTen_keys (s : State) (t : Nat) (f : Tenancy → Tenancy) : (s.modTen t f).keys = s.keys := rfl
@[simp] theorem state_modTen_aclk (s : State) (t : Nat) (f : Tenancy → Tenancy) : (s.modTen t f).aclk = s.aclk := rfl
@[simp] theorem state_modTen_dies (s : State) (t : Nat) (f : Tenancy → Tenancy) : (s.modTen t f).dies = s.dies := rfl
@[simp] theorem state_modTen_fwds (s : State) (t : Nat) (f : Tenancy → Tenancy) : (s.modTen t f).fwds = s.fwds := rfl
@[simp] theorem state_modTen_watch (s : State) (t : Nat) (f : Tenancy → Tenancy) : (s.modTen t f).watch = s.watch := rfl
@[simp] theorem state_modTen_own (s : State) (t : Nat) (f : Tenancy → Tenancy) : (s.modTen t f).own = s.own := rfl
@[simp] theorem state_modTen_orphans (s : State) (t : Nat) (f : Tenancy → Tenancy) : (s.modTen t f).orphans = s.orphans := rfl
@[simp] theorem state_modTen_cores (s : State) (t : Nat) (f : Tenancy → Tenancy) : (s.modTen t f).cores = s.cores := rfl
@[simp] theorem state_modTen_nodes (s : State) (t : Nat) (f : Tenancy → Tenancy) : (s.modTen t f).nodes = s.nodes := rfl
@[simp] theorem state_modTen_saves (s : State) (t : Nat) (f : Tenancy → Tenancy) : (s.modTen t f).saves = s.saves := rfl
@[simp] theorem state_modTen_msgs (s : State) (t : Nat) (f : Tenancy → Tenancy) : (s.modTen t f).msgs = s.msgs := rfl
@[simp] theorem state_modTen_refused (s : State) (t : Nat) (f : Tenancy → Tenancy) : (s.modTen t f).refused = s.refused := rfl
@[simp] theorem state_modTen_out (s : State) (t : Nat) (f : Tenancy → Tenancy) : (s.modTen t f).out = s.out := rfl
@[simp] theorem state_modTen_reqs (s : State) (t : Nat) (f : Tenancy → Tenancy) : (s.modTen t f).reqs = s.reqs := rfl
@[simp] theorem state_modTen_tileRecs (s : State) (t : Nat) (f : Tenancy → Tenancy) : (s.modTen t f).tileRecs = s.tileRecs := rfl
@[simp] theorem state_modTen_startRec (s : State) (t : Nat) (f : Tenancy → Tenancy) : (s.modTen t f).startRec = s.startRec := rfl
@[simp] theorem state_modTen_startPrev (s : State) (t : Nat) (f : Tenancy → Tenancy) : (s.modTen t f).startPrev = s.startPrev := rfl
@[simp] theorem state_modTen_repairPrev (s : State) (t : Nat) (f : Tenancy → Tenancy) : (s.modTen t f).repairPrev = s.repairPrev := rfl
@[simp] theorem state_modTen_repairs (s : State) (t : Nat) (f : Tenancy → Tenancy) : (s.modTen t f).repairs = s.repairs := rfl
@[simp] theorem state_modTen_badCores (s : State) (t : Nat) (f : Tenancy → Tenancy) : (s.modTen t f).badCores = s.badCores := rfl
@[simp] theorem state_modTen_fuses (s : State) (t : Nat) (f : Tenancy → Tenancy) : (s.modTen t f).fuses = s.fuses := rfl
@[simp] theorem state_modTen_running (s : State) (t : Nat) (f : Tenancy → Tenancy) : (s.modTen t f).running = s.running := rfl
@[simp] theorem state_modTen_haltedAt (s : State) (t : Nat) (f : Tenancy → Tenancy) : (s.modTen t f).haltedAt = s.haltedAt := rfl
@[simp] theorem state_modTen_meas (s : State) (t : Nat) (f : Tenancy → Tenancy) : (s.modTen t f).meas = s.meas := rfl
@[simp] theorem state_modTen_ports (s : State) (t : Nat) (f : Tenancy → Tenancy) : (s.modTen t f).ports = s.ports := rfl
@[simp] theorem state_modTen_laneMaps (s : State) (t : Nat) (f : Tenancy → Tenancy) : (s.modTen t f).laneMaps = s.laneMaps := rfl
@[simp] theorem state_modTen_withheld (s : State) (t : Nat) (f : Tenancy → Tenancy) : (s.modTen t f).withheld = s.withheld := rfl
@[simp] theorem state_modTen_repairMap (s : State) (t : Nat) (f : Tenancy → Tenancy) : (s.modTen t f).repairMap = s.repairMap := rfl
@[simp] theorem state_modTen_pubKey (s : State) (t : Nat) (f : Tenancy → Tenancy) : (s.modTen t f).pubKey = s.pubKey := rfl
@[simp] theorem state_modTen_pwrlim (s : State) (t : Nat) (f : Tenancy → Tenancy) : (s.modTen t f).pwrlim = s.pwrlim := rfl
@[simp] theorem state_modTen_clockSteps (s : State) (t : Nat) (f : Tenancy → Tenancy) : (s.modTen t f).clockSteps = s.clockSteps := rfl
@[simp] theorem state_modTen_ptpdom (s : State) (t : Nat) (f : Tenancy → Tenancy) : (s.modTen t f).ptpdom = s.ptpdom := rfl
@[simp] theorem state_modTen_ptpport (s : State) (t : Nat) (f : Tenancy → Tenancy) : (s.modTen t f).ptpport = s.ptpport := rfl
@[simp] theorem state_modTen_ptpLock (s : State) (t : Nat) (f : Tenancy → Tenancy) : (s.modTen t f).ptpLock = s.ptpLock := rfl
@[simp] theorem state_modTen_slew (s : State) (t : Nat) (f : Tenancy → Tenancy) : (s.modTen t f).slew = s.slew := rfl
@[simp] theorem state_modTen_rtwgt (s : State) (t : Nat) (f : Tenancy → Tenancy) : (s.modTen t f).rtwgt = s.rtwgt := rfl
@[simp] theorem state_modTen_erstk (s : State) (t : Nat) (f : Tenancy → Tenancy) : (s.modTen t f).erstk = s.erstk := rfl
@[simp] theorem state_modTen_ersadr (s : State) (t : Nat) (f : Tenancy → Tenancy) : (s.modTen t f).ersadr = s.ersadr := rfl
@[simp] theorem state_modTen_stitched (s : State) (t : Nat) (f : Tenancy → Tenancy) : (s.modTen t f).stitched = s.stitched := rfl
@[simp] theorem state_modTen_plan (s : State) (t : Nat) (f : Tenancy → Tenancy) : (s.modTen t f).plan = s.plan := rfl
@[simp] theorem state_modTen_turn (s : State) (t : Nat) (f : Tenancy → Tenancy) : (s.modTen t f).turn = s.turn := rfl
@[simp] theorem state_modTen_cur (s : State) (t : Nat) (f : Tenancy → Tenancy) : (s.modTen t f).cur = s.cur := rfl
@[simp] theorem state_modTen_fresh (s : State) (t : Nat) (f : Tenancy → Tenancy) : (s.modTen t f).fresh = s.fresh := rfl
@[simp] theorem state_modTen_qwatch (s : State) (t : Nat) (f : Tenancy → Tenancy) : (s.modTen t f).qwatch = s.qwatch := rfl
@[simp] theorem state_modTen_signals (s : State) (t : Nat) (f : Tenancy → Tenancy) : (s.modTen t f).signals = s.signals := rfl
@[simp] theorem state_modTen_upset (s : State) (t : Nat) (f : Tenancy → Tenancy) : (s.modTen t f).upset = s.upset := rfl
@[simp] theorem state_modTen_issued (s : State) (t : Nat) (f : Tenancy → Tenancy) : (s.modTen t f).issued = s.issued := rfl
@[simp] theorem state_modTen_delay (s : State) (t : Nat) (f : Tenancy → Tenancy) : (s.modTen t f).delay = s.delay := rfl
@[simp] theorem state_modTen_bad (s : State) (t : Nat) (f : Tenancy → Tenancy) : (s.modTen t f).bad = s.bad := rfl

/-! ### State.modNode leaves the other fields -/

@[simp] theorem state_modNode_cycle (s : State) (n : Nat) (f : Node → Node) : (s.modNode n f).cycle = s.cycle := rfl
@[simp] theorem state_modNode_time (s : State) (n : Nat) (f : Node → Node) : (s.modNode n f).time = s.time := rfl
@[simp] theorem state_modNode_timeFrac (s : State) (n : Nat) (f : Node → Node) : (s.modNode n f).timeFrac = s.timeFrac := rfl
@[simp] theorem state_modNode_device (s : State) (n : Nat) (f : Node → Node) : (s.modNode n f).device = s.device := rfl
@[simp] theorem state_modNode_mem (s : State) (n : Nat) (f : Node → Node) : (s.modNode n f).mem = s.mem := rfl
@[simp] theorem state_modNode_check (s : State) (n : Nat) (f : Node → Node) : (s.modNode n f).check = s.check := rfl
@[simp] theorem state_modNode_attr (s : State) (n : Nat) (f : Node → Node) : (s.modNode n f).attr = s.attr := rfl
@[simp] theorem state_modNode_poison (s : State) (n : Nat) (f : Node → Node) : (s.modNode n f).poison = s.poison := rfl
@[simp] theorem state_modNode_keys (s : State) (n : Nat) (f : Node → Node) : (s.modNode n f).keys = s.keys := rfl
@[simp] theorem state_modNode_aclk (s : State) (n : Nat) (f : Node → Node) : (s.modNode n f).aclk = s.aclk := rfl
@[simp] theorem state_modNode_dies (s : State) (n : Nat) (f : Node → Node) : (s.modNode n f).dies = s.dies := rfl
@[simp] theorem state_modNode_fwds (s : State) (n : Nat) (f : Node → Node) : (s.modNode n f).fwds = s.fwds := rfl
@[simp] theorem state_modNode_watch (s : State) (n : Nat) (f : Node → Node) : (s.modNode n f).watch = s.watch := rfl
@[simp] theorem state_modNode_own (s : State) (n : Nat) (f : Node → Node) : (s.modNode n f).own = s.own := rfl
@[simp] theorem state_modNode_orphans (s : State) (n : Nat) (f : Node → Node) : (s.modNode n f).orphans = s.orphans := rfl
@[simp] theorem state_modNode_cores (s : State) (n : Nat) (f : Node → Node) : (s.modNode n f).cores = s.cores := rfl
@[simp] theorem state_modNode_tens (s : State) (n : Nat) (f : Node → Node) : (s.modNode n f).tens = s.tens := rfl
@[simp] theorem state_modNode_saves (s : State) (n : Nat) (f : Node → Node) : (s.modNode n f).saves = s.saves := rfl
@[simp] theorem state_modNode_msgs (s : State) (n : Nat) (f : Node → Node) : (s.modNode n f).msgs = s.msgs := rfl
@[simp] theorem state_modNode_refused (s : State) (n : Nat) (f : Node → Node) : (s.modNode n f).refused = s.refused := rfl
@[simp] theorem state_modNode_out (s : State) (n : Nat) (f : Node → Node) : (s.modNode n f).out = s.out := rfl
@[simp] theorem state_modNode_reqs (s : State) (n : Nat) (f : Node → Node) : (s.modNode n f).reqs = s.reqs := rfl
@[simp] theorem state_modNode_tileRecs (s : State) (n : Nat) (f : Node → Node) : (s.modNode n f).tileRecs = s.tileRecs := rfl
@[simp] theorem state_modNode_startRec (s : State) (n : Nat) (f : Node → Node) : (s.modNode n f).startRec = s.startRec := rfl
@[simp] theorem state_modNode_startPrev (s : State) (n : Nat) (f : Node → Node) : (s.modNode n f).startPrev = s.startPrev := rfl
@[simp] theorem state_modNode_repairPrev (s : State) (n : Nat) (f : Node → Node) : (s.modNode n f).repairPrev = s.repairPrev := rfl
@[simp] theorem state_modNode_repairs (s : State) (n : Nat) (f : Node → Node) : (s.modNode n f).repairs = s.repairs := rfl
@[simp] theorem state_modNode_badCores (s : State) (n : Nat) (f : Node → Node) : (s.modNode n f).badCores = s.badCores := rfl
@[simp] theorem state_modNode_fuses (s : State) (n : Nat) (f : Node → Node) : (s.modNode n f).fuses = s.fuses := rfl
@[simp] theorem state_modNode_running (s : State) (n : Nat) (f : Node → Node) : (s.modNode n f).running = s.running := rfl
@[simp] theorem state_modNode_haltedAt (s : State) (n : Nat) (f : Node → Node) : (s.modNode n f).haltedAt = s.haltedAt := rfl
@[simp] theorem state_modNode_meas (s : State) (n : Nat) (f : Node → Node) : (s.modNode n f).meas = s.meas := rfl
@[simp] theorem state_modNode_ports (s : State) (n : Nat) (f : Node → Node) : (s.modNode n f).ports = s.ports := rfl
@[simp] theorem state_modNode_laneMaps (s : State) (n : Nat) (f : Node → Node) : (s.modNode n f).laneMaps = s.laneMaps := rfl
@[simp] theorem state_modNode_withheld (s : State) (n : Nat) (f : Node → Node) : (s.modNode n f).withheld = s.withheld := rfl
@[simp] theorem state_modNode_repairMap (s : State) (n : Nat) (f : Node → Node) : (s.modNode n f).repairMap = s.repairMap := rfl
@[simp] theorem state_modNode_pubKey (s : State) (n : Nat) (f : Node → Node) : (s.modNode n f).pubKey = s.pubKey := rfl
@[simp] theorem state_modNode_pwrlim (s : State) (n : Nat) (f : Node → Node) : (s.modNode n f).pwrlim = s.pwrlim := rfl
@[simp] theorem state_modNode_clockSteps (s : State) (n : Nat) (f : Node → Node) : (s.modNode n f).clockSteps = s.clockSteps := rfl
@[simp] theorem state_modNode_ptpdom (s : State) (n : Nat) (f : Node → Node) : (s.modNode n f).ptpdom = s.ptpdom := rfl
@[simp] theorem state_modNode_ptpport (s : State) (n : Nat) (f : Node → Node) : (s.modNode n f).ptpport = s.ptpport := rfl
@[simp] theorem state_modNode_ptpLock (s : State) (n : Nat) (f : Node → Node) : (s.modNode n f).ptpLock = s.ptpLock := rfl
@[simp] theorem state_modNode_slew (s : State) (n : Nat) (f : Node → Node) : (s.modNode n f).slew = s.slew := rfl
@[simp] theorem state_modNode_rtwgt (s : State) (n : Nat) (f : Node → Node) : (s.modNode n f).rtwgt = s.rtwgt := rfl
@[simp] theorem state_modNode_erstk (s : State) (n : Nat) (f : Node → Node) : (s.modNode n f).erstk = s.erstk := rfl
@[simp] theorem state_modNode_ersadr (s : State) (n : Nat) (f : Node → Node) : (s.modNode n f).ersadr = s.ersadr := rfl
@[simp] theorem state_modNode_stitched (s : State) (n : Nat) (f : Node → Node) : (s.modNode n f).stitched = s.stitched := rfl
@[simp] theorem state_modNode_plan (s : State) (n : Nat) (f : Node → Node) : (s.modNode n f).plan = s.plan := rfl
@[simp] theorem state_modNode_turn (s : State) (n : Nat) (f : Node → Node) : (s.modNode n f).turn = s.turn := rfl
@[simp] theorem state_modNode_cur (s : State) (n : Nat) (f : Node → Node) : (s.modNode n f).cur = s.cur := rfl
@[simp] theorem state_modNode_fresh (s : State) (n : Nat) (f : Node → Node) : (s.modNode n f).fresh = s.fresh := rfl
@[simp] theorem state_modNode_qwatch (s : State) (n : Nat) (f : Node → Node) : (s.modNode n f).qwatch = s.qwatch := rfl
@[simp] theorem state_modNode_signals (s : State) (n : Nat) (f : Node → Node) : (s.modNode n f).signals = s.signals := rfl
@[simp] theorem state_modNode_upset (s : State) (n : Nat) (f : Node → Node) : (s.modNode n f).upset = s.upset := rfl
@[simp] theorem state_modNode_issued (s : State) (n : Nat) (f : Node → Node) : (s.modNode n f).issued = s.issued := rfl
@[simp] theorem state_modNode_delay (s : State) (n : Nat) (f : Node → Node) : (s.modNode n f).delay = s.delay := rfl
@[simp] theorem state_modNode_bad (s : State) (n : Nat) (f : Node → Node) : (s.modNode n f).bad = s.bad := rfl

/-! ### State.setDie leaves the other fields -/

@[simp] theorem state_setDie_cycle (s : State) (d : Nat) (x : Die) : (s.setDie d x).cycle = s.cycle := rfl
@[simp] theorem state_setDie_time (s : State) (d : Nat) (x : Die) : (s.setDie d x).time = s.time := rfl
@[simp] theorem state_setDie_timeFrac (s : State) (d : Nat) (x : Die) : (s.setDie d x).timeFrac = s.timeFrac := rfl
@[simp] theorem state_setDie_device (s : State) (d : Nat) (x : Die) : (s.setDie d x).device = s.device := rfl
@[simp] theorem state_setDie_mem (s : State) (d : Nat) (x : Die) : (s.setDie d x).mem = s.mem := rfl
@[simp] theorem state_setDie_check (s : State) (d : Nat) (x : Die) : (s.setDie d x).check = s.check := rfl
@[simp] theorem state_setDie_attr (s : State) (d : Nat) (x : Die) : (s.setDie d x).attr = s.attr := rfl
@[simp] theorem state_setDie_poison (s : State) (d : Nat) (x : Die) : (s.setDie d x).poison = s.poison := rfl
@[simp] theorem state_setDie_keys (s : State) (d : Nat) (x : Die) : (s.setDie d x).keys = s.keys := rfl
@[simp] theorem state_setDie_aclk (s : State) (d : Nat) (x : Die) : (s.setDie d x).aclk = s.aclk := rfl
@[simp] theorem state_setDie_fwds (s : State) (d : Nat) (x : Die) : (s.setDie d x).fwds = s.fwds := rfl
@[simp] theorem state_setDie_watch (s : State) (d : Nat) (x : Die) : (s.setDie d x).watch = s.watch := rfl
@[simp] theorem state_setDie_own (s : State) (d : Nat) (x : Die) : (s.setDie d x).own = s.own := rfl
@[simp] theorem state_setDie_orphans (s : State) (d : Nat) (x : Die) : (s.setDie d x).orphans = s.orphans := rfl
@[simp] theorem state_setDie_cores (s : State) (d : Nat) (x : Die) : (s.setDie d x).cores = s.cores := rfl
@[simp] theorem state_setDie_tens (s : State) (d : Nat) (x : Die) : (s.setDie d x).tens = s.tens := rfl
@[simp] theorem state_setDie_nodes (s : State) (d : Nat) (x : Die) : (s.setDie d x).nodes = s.nodes := rfl
@[simp] theorem state_setDie_saves (s : State) (d : Nat) (x : Die) : (s.setDie d x).saves = s.saves := rfl
@[simp] theorem state_setDie_msgs (s : State) (d : Nat) (x : Die) : (s.setDie d x).msgs = s.msgs := rfl
@[simp] theorem state_setDie_refused (s : State) (d : Nat) (x : Die) : (s.setDie d x).refused = s.refused := rfl
@[simp] theorem state_setDie_out (s : State) (d : Nat) (x : Die) : (s.setDie d x).out = s.out := rfl
@[simp] theorem state_setDie_reqs (s : State) (d : Nat) (x : Die) : (s.setDie d x).reqs = s.reqs := rfl
@[simp] theorem state_setDie_tileRecs (s : State) (d : Nat) (x : Die) : (s.setDie d x).tileRecs = s.tileRecs := rfl
@[simp] theorem state_setDie_startRec (s : State) (d : Nat) (x : Die) : (s.setDie d x).startRec = s.startRec := rfl
@[simp] theorem state_setDie_startPrev (s : State) (d : Nat) (x : Die) : (s.setDie d x).startPrev = s.startPrev := rfl
@[simp] theorem state_setDie_repairPrev (s : State) (d : Nat) (x : Die) : (s.setDie d x).repairPrev = s.repairPrev := rfl
@[simp] theorem state_setDie_repairs (s : State) (d : Nat) (x : Die) : (s.setDie d x).repairs = s.repairs := rfl
@[simp] theorem state_setDie_badCores (s : State) (d : Nat) (x : Die) : (s.setDie d x).badCores = s.badCores := rfl
@[simp] theorem state_setDie_fuses (s : State) (d : Nat) (x : Die) : (s.setDie d x).fuses = s.fuses := rfl
@[simp] theorem state_setDie_running (s : State) (d : Nat) (x : Die) : (s.setDie d x).running = s.running := rfl
@[simp] theorem state_setDie_haltedAt (s : State) (d : Nat) (x : Die) : (s.setDie d x).haltedAt = s.haltedAt := rfl
@[simp] theorem state_setDie_meas (s : State) (d : Nat) (x : Die) : (s.setDie d x).meas = s.meas := rfl
@[simp] theorem state_setDie_ports (s : State) (d : Nat) (x : Die) : (s.setDie d x).ports = s.ports := rfl
@[simp] theorem state_setDie_laneMaps (s : State) (d : Nat) (x : Die) : (s.setDie d x).laneMaps = s.laneMaps := rfl
@[simp] theorem state_setDie_withheld (s : State) (d : Nat) (x : Die) : (s.setDie d x).withheld = s.withheld := rfl
@[simp] theorem state_setDie_repairMap (s : State) (d : Nat) (x : Die) : (s.setDie d x).repairMap = s.repairMap := rfl
@[simp] theorem state_setDie_pubKey (s : State) (d : Nat) (x : Die) : (s.setDie d x).pubKey = s.pubKey := rfl
@[simp] theorem state_setDie_pwrlim (s : State) (d : Nat) (x : Die) : (s.setDie d x).pwrlim = s.pwrlim := rfl
@[simp] theorem state_setDie_clockSteps (s : State) (d : Nat) (x : Die) : (s.setDie d x).clockSteps = s.clockSteps := rfl
@[simp] theorem state_setDie_ptpdom (s : State) (d : Nat) (x : Die) : (s.setDie d x).ptpdom = s.ptpdom := rfl
@[simp] theorem state_setDie_ptpport (s : State) (d : Nat) (x : Die) : (s.setDie d x).ptpport = s.ptpport := rfl
@[simp] theorem state_setDie_ptpLock (s : State) (d : Nat) (x : Die) : (s.setDie d x).ptpLock = s.ptpLock := rfl
@[simp] theorem state_setDie_slew (s : State) (d : Nat) (x : Die) : (s.setDie d x).slew = s.slew := rfl
@[simp] theorem state_setDie_rtwgt (s : State) (d : Nat) (x : Die) : (s.setDie d x).rtwgt = s.rtwgt := rfl
@[simp] theorem state_setDie_erstk (s : State) (d : Nat) (x : Die) : (s.setDie d x).erstk = s.erstk := rfl
@[simp] theorem state_setDie_ersadr (s : State) (d : Nat) (x : Die) : (s.setDie d x).ersadr = s.ersadr := rfl
@[simp] theorem state_setDie_stitched (s : State) (d : Nat) (x : Die) : (s.setDie d x).stitched = s.stitched := rfl
@[simp] theorem state_setDie_plan (s : State) (d : Nat) (x : Die) : (s.setDie d x).plan = s.plan := rfl
@[simp] theorem state_setDie_turn (s : State) (d : Nat) (x : Die) : (s.setDie d x).turn = s.turn := rfl
@[simp] theorem state_setDie_cur (s : State) (d : Nat) (x : Die) : (s.setDie d x).cur = s.cur := rfl
@[simp] theorem state_setDie_fresh (s : State) (d : Nat) (x : Die) : (s.setDie d x).fresh = s.fresh := rfl
@[simp] theorem state_setDie_qwatch (s : State) (d : Nat) (x : Die) : (s.setDie d x).qwatch = s.qwatch := rfl
@[simp] theorem state_setDie_signals (s : State) (d : Nat) (x : Die) : (s.setDie d x).signals = s.signals := rfl
@[simp] theorem state_setDie_upset (s : State) (d : Nat) (x : Die) : (s.setDie d x).upset = s.upset := rfl
@[simp] theorem state_setDie_issued (s : State) (d : Nat) (x : Die) : (s.setDie d x).issued = s.issued := rfl
@[simp] theorem state_setDie_delay (s : State) (d : Nat) (x : Die) : (s.setDie d x).delay = s.delay := rfl
@[simp] theorem state_setDie_bad (s : State) (d : Nat) (x : Die) : (s.setDie d x).bad = s.bad := rfl

/-! ### Core.setThr leaves the other fields -/

@[simp] theorem core_setThr_ctx (k : Core) (t : Nat) (th : Thread) : (k.setThr t th).ctx = k.ctx := rfl
@[simp] theorem core_setThr_ghosts (k : Core) (t : Nat) (th : Thread) : (k.setThr t th).ghosts = k.ghosts := rfl
@[simp] theorem core_setThr_nextUid (k : Core) (t : Nat) (th : Thread) : (k.setThr t th).nextUid = k.nextUid := rfl
@[simp] theorem core_setThr_p0 (k : Core) (t : Nat) (th : Thread) : (k.setThr t th).p0 = k.p0 := rfl
@[simp] theorem core_setThr_p1 (k : Core) (t : Nat) (th : Thread) : (k.setThr t th).p1 = k.p1 := rfl
@[simp] theorem core_setThr_p2 (k : Core) (t : Nat) (th : Thread) : (k.setThr t th).p2 = k.p2 := rfl
@[simp] theorem core_setThr_p3 (k : Core) (t : Nat) (th : Thread) : (k.setThr t th).p3 = k.p3 := rfl
@[simp] theorem core_setThr_sp (k : Core) (t : Nat) (th : Thread) : (k.setThr t th).sp = k.sp := rfl
@[simp] theorem core_setThr_attrs (k : Core) (t : Nat) (th : Thread) : (k.setThr t th).attrs = k.attrs := rfl
@[simp] theorem core_setThr_spPoison (k : Core) (t : Nat) (th : Thread) : (k.setThr t th).spPoison = k.spPoison := rfl
@[simp] theorem core_setThr_slots (k : Core) (t : Nat) (th : Thread) : (k.setThr t th).slots = k.slots := rfl
@[simp] theorem core_setThr_cistern (k : Core) (t : Nat) (th : Thread) : (k.setThr t th).cistern = k.cistern := rfl
@[simp] theorem core_setThr_ciPoison (k : Core) (t : Nat) (th : Thread) : (k.setThr t th).ciPoison = k.ciPoison := rfl
@[simp] theorem core_setThr_bank0 (k : Core) (t : Nat) (th : Thread) : (k.setThr t th).bank0 = k.bank0 := rfl
@[simp] theorem core_setThr_bank1 (k : Core) (t : Nat) (th : Thread) : (k.setThr t th).bank1 = k.bank1 := rfl
@[simp] theorem core_setThr_active (k : Core) (t : Nat) (th : Thread) : (k.setThr t th).active = k.active := rfl
@[simp] theorem core_setThr_mxq (k : Core) (t : Nat) (th : Thread) : (k.setThr t th).mxq = k.mxq := rfl
@[simp] theorem core_setThr_losses (k : Core) (t : Nat) (th : Thread) : (k.setThr t th).losses = k.losses := rfl
@[simp] theorem core_setThr_copies (k : Core) (t : Nat) (th : Thread) : (k.setThr t th).copies = k.copies := rfl
@[simp] theorem core_setThr_shorts (k : Core) (t : Nat) (th : Thread) : (k.setThr t th).shorts = k.shorts := rfl
@[simp] theorem core_setThr_closing (k : Core) (t : Nat) (th : Thread) : (k.setThr t th).closing = k.closing := rfl
@[simp] theorem core_setThr_colls (k : Core) (t : Nat) (th : Thread) : (k.setThr t th).colls = k.colls := rfl
@[simp] theorem core_setThr_nextOp (k : Core) (t : Nat) (th : Thread) : (k.setThr t th).nextOp = k.nextOp := rfl
@[simp] theorem core_setThr_credits (k : Core) (t : Nat) (th : Thread) : (k.setThr t th).credits = k.credits := rfl
@[simp] theorem core_setThr_rings (k : Core) (t : Nat) (th : Thread) : (k.setThr t th).rings = k.rings := rfl
@[simp] theorem core_setThr_backlog (k : Core) (t : Nat) (th : Thread) : (k.setThr t th).backlog = k.backlog := rfl
@[simp] theorem core_setThr_grants (k : Core) (t : Nat) (th : Thread) : (k.setThr t th).grants = k.grants := rfl
@[simp] theorem core_setThr_tlb (k : Core) (t : Nat) (th : Thread) : (k.setThr t th).tlb = k.tlb := rfl
@[simp] theorem core_setThr_lastPage (k : Core) (t : Nat) (th : Thread) : (k.setThr t th).lastPage = k.lastPage := rfl
@[simp] theorem core_setThr_l1 (k : Core) (t : Nat) (th : Thread) : (k.setThr t th).l1 = k.l1 := rfl
@[simp] theorem core_setThr_acqs (k : Core) (t : Nat) (th : Thread) : (k.setThr t th).acqs = k.acqs := rfl
@[simp] theorem core_setThr_owing (k : Core) (t : Nat) (th : Thread) : (k.setThr t th).owing = k.owing := rfl
@[simp] theorem core_setThr_late (k : Core) (t : Nat) (th : Thread) : (k.setThr t th).late = k.late := rfl
@[simp] theorem core_setThr_axLoads (k : Core) (t : Nat) (th : Thread) : (k.setThr t th).axLoads = k.axLoads := rfl
@[simp] theorem core_setThr_crdone (k : Core) (t : Nat) (th : Thread) : (k.setThr t th).crdone = k.crdone := rfl
@[simp] theorem core_setThr_crheld (k : Core) (t : Nat) (th : Thread) : (k.setThr t th).crheld = k.crheld := rfl
@[simp] theorem core_setThr_crsave (k : Core) (t : Nat) (th : Thread) : (k.setThr t th).crsave = k.crsave := rfl
@[simp] theorem core_setThr_ercore (k : Core) (t : Nat) (th : Thread) : (k.setThr t th).ercore = k.ercore := rfl
@[simp] theorem core_setThr_draining (k : Core) (t : Nat) (th : Thread) : (k.setThr t th).draining = k.draining := rfl
@[simp] theorem core_setThr_skew (k : Core) (t : Nat) (th : Thread) : (k.setThr t th).skew = k.skew := rfl
@[simp] theorem core_setThr_ended (k : Core) (t : Nat) (th : Thread) : (k.setThr t th).ended = k.ended := rfl

/-! ### Core.modThr leaves the other fields -/

@[simp] theorem core_modThr_ctx (k : Core) (t : Nat) (f : Thread → Thread) : (k.modThr t f).ctx = k.ctx := rfl
@[simp] theorem core_modThr_ghosts (k : Core) (t : Nat) (f : Thread → Thread) : (k.modThr t f).ghosts = k.ghosts := rfl
@[simp] theorem core_modThr_nextUid (k : Core) (t : Nat) (f : Thread → Thread) : (k.modThr t f).nextUid = k.nextUid := rfl
@[simp] theorem core_modThr_p0 (k : Core) (t : Nat) (f : Thread → Thread) : (k.modThr t f).p0 = k.p0 := rfl
@[simp] theorem core_modThr_p1 (k : Core) (t : Nat) (f : Thread → Thread) : (k.modThr t f).p1 = k.p1 := rfl
@[simp] theorem core_modThr_p2 (k : Core) (t : Nat) (f : Thread → Thread) : (k.modThr t f).p2 = k.p2 := rfl
@[simp] theorem core_modThr_p3 (k : Core) (t : Nat) (f : Thread → Thread) : (k.modThr t f).p3 = k.p3 := rfl
@[simp] theorem core_modThr_sp (k : Core) (t : Nat) (f : Thread → Thread) : (k.modThr t f).sp = k.sp := rfl
@[simp] theorem core_modThr_attrs (k : Core) (t : Nat) (f : Thread → Thread) : (k.modThr t f).attrs = k.attrs := rfl
@[simp] theorem core_modThr_spPoison (k : Core) (t : Nat) (f : Thread → Thread) : (k.modThr t f).spPoison = k.spPoison := rfl
@[simp] theorem core_modThr_slots (k : Core) (t : Nat) (f : Thread → Thread) : (k.modThr t f).slots = k.slots := rfl
@[simp] theorem core_modThr_cistern (k : Core) (t : Nat) (f : Thread → Thread) : (k.modThr t f).cistern = k.cistern := rfl
@[simp] theorem core_modThr_ciPoison (k : Core) (t : Nat) (f : Thread → Thread) : (k.modThr t f).ciPoison = k.ciPoison := rfl
@[simp] theorem core_modThr_bank0 (k : Core) (t : Nat) (f : Thread → Thread) : (k.modThr t f).bank0 = k.bank0 := rfl
@[simp] theorem core_modThr_bank1 (k : Core) (t : Nat) (f : Thread → Thread) : (k.modThr t f).bank1 = k.bank1 := rfl
@[simp] theorem core_modThr_active (k : Core) (t : Nat) (f : Thread → Thread) : (k.modThr t f).active = k.active := rfl
@[simp] theorem core_modThr_mxq (k : Core) (t : Nat) (f : Thread → Thread) : (k.modThr t f).mxq = k.mxq := rfl
@[simp] theorem core_modThr_losses (k : Core) (t : Nat) (f : Thread → Thread) : (k.modThr t f).losses = k.losses := rfl
@[simp] theorem core_modThr_copies (k : Core) (t : Nat) (f : Thread → Thread) : (k.modThr t f).copies = k.copies := rfl
@[simp] theorem core_modThr_shorts (k : Core) (t : Nat) (f : Thread → Thread) : (k.modThr t f).shorts = k.shorts := rfl
@[simp] theorem core_modThr_closing (k : Core) (t : Nat) (f : Thread → Thread) : (k.modThr t f).closing = k.closing := rfl
@[simp] theorem core_modThr_colls (k : Core) (t : Nat) (f : Thread → Thread) : (k.modThr t f).colls = k.colls := rfl
@[simp] theorem core_modThr_nextOp (k : Core) (t : Nat) (f : Thread → Thread) : (k.modThr t f).nextOp = k.nextOp := rfl
@[simp] theorem core_modThr_credits (k : Core) (t : Nat) (f : Thread → Thread) : (k.modThr t f).credits = k.credits := rfl
@[simp] theorem core_modThr_rings (k : Core) (t : Nat) (f : Thread → Thread) : (k.modThr t f).rings = k.rings := rfl
@[simp] theorem core_modThr_backlog (k : Core) (t : Nat) (f : Thread → Thread) : (k.modThr t f).backlog = k.backlog := rfl
@[simp] theorem core_modThr_grants (k : Core) (t : Nat) (f : Thread → Thread) : (k.modThr t f).grants = k.grants := rfl
@[simp] theorem core_modThr_tlb (k : Core) (t : Nat) (f : Thread → Thread) : (k.modThr t f).tlb = k.tlb := rfl
@[simp] theorem core_modThr_lastPage (k : Core) (t : Nat) (f : Thread → Thread) : (k.modThr t f).lastPage = k.lastPage := rfl
@[simp] theorem core_modThr_l1 (k : Core) (t : Nat) (f : Thread → Thread) : (k.modThr t f).l1 = k.l1 := rfl
@[simp] theorem core_modThr_acqs (k : Core) (t : Nat) (f : Thread → Thread) : (k.modThr t f).acqs = k.acqs := rfl
@[simp] theorem core_modThr_owing (k : Core) (t : Nat) (f : Thread → Thread) : (k.modThr t f).owing = k.owing := rfl
@[simp] theorem core_modThr_late (k : Core) (t : Nat) (f : Thread → Thread) : (k.modThr t f).late = k.late := rfl
@[simp] theorem core_modThr_axLoads (k : Core) (t : Nat) (f : Thread → Thread) : (k.modThr t f).axLoads = k.axLoads := rfl
@[simp] theorem core_modThr_crdone (k : Core) (t : Nat) (f : Thread → Thread) : (k.modThr t f).crdone = k.crdone := rfl
@[simp] theorem core_modThr_crheld (k : Core) (t : Nat) (f : Thread → Thread) : (k.modThr t f).crheld = k.crheld := rfl
@[simp] theorem core_modThr_crsave (k : Core) (t : Nat) (f : Thread → Thread) : (k.modThr t f).crsave = k.crsave := rfl
@[simp] theorem core_modThr_ercore (k : Core) (t : Nat) (f : Thread → Thread) : (k.modThr t f).ercore = k.ercore := rfl
@[simp] theorem core_modThr_draining (k : Core) (t : Nat) (f : Thread → Thread) : (k.modThr t f).draining = k.draining := rfl
@[simp] theorem core_modThr_skew (k : Core) (t : Nat) (f : Thread → Thread) : (k.modThr t f).skew = k.skew := rfl
@[simp] theorem core_modThr_ended (k : Core) (t : Nat) (f : Thread → Thread) : (k.modThr t f).ended = k.ended := rfl

/-! ### Core.setPart leaves the other fields -/

@[simp] theorem core_setPart_ctx (k : Core) (p : Nat) (q : Part) : (k.setPart p q).ctx = k.ctx := by
  unfold Core.setPart; split <;> rfl
@[simp] theorem core_setPart_threads (k : Core) (p : Nat) (q : Part) : (k.setPart p q).threads = k.threads := by
  unfold Core.setPart; split <;> rfl
@[simp] theorem core_setPart_ghosts (k : Core) (p : Nat) (q : Part) : (k.setPart p q).ghosts = k.ghosts := by
  unfold Core.setPart; split <;> rfl
@[simp] theorem core_setPart_nextUid (k : Core) (p : Nat) (q : Part) : (k.setPart p q).nextUid = k.nextUid := by
  unfold Core.setPart; split <;> rfl
@[simp] theorem core_setPart_sp (k : Core) (p : Nat) (q : Part) : (k.setPart p q).sp = k.sp := by
  unfold Core.setPart; split <;> rfl
@[simp] theorem core_setPart_attrs (k : Core) (p : Nat) (q : Part) : (k.setPart p q).attrs = k.attrs := by
  unfold Core.setPart; split <;> rfl
@[simp] theorem core_setPart_spPoison (k : Core) (p : Nat) (q : Part) : (k.setPart p q).spPoison = k.spPoison := by
  unfold Core.setPart; split <;> rfl
@[simp] theorem core_setPart_slots (k : Core) (p : Nat) (q : Part) : (k.setPart p q).slots = k.slots := by
  unfold Core.setPart; split <;> rfl
@[simp] theorem core_setPart_cistern (k : Core) (p : Nat) (q : Part) : (k.setPart p q).cistern = k.cistern := by
  unfold Core.setPart; split <;> rfl
@[simp] theorem core_setPart_ciPoison (k : Core) (p : Nat) (q : Part) : (k.setPart p q).ciPoison = k.ciPoison := by
  unfold Core.setPart; split <;> rfl
@[simp] theorem core_setPart_bank0 (k : Core) (p : Nat) (q : Part) : (k.setPart p q).bank0 = k.bank0 := by
  unfold Core.setPart; split <;> rfl
@[simp] theorem core_setPart_bank1 (k : Core) (p : Nat) (q : Part) : (k.setPart p q).bank1 = k.bank1 := by
  unfold Core.setPart; split <;> rfl
@[simp] theorem core_setPart_active (k : Core) (p : Nat) (q : Part) : (k.setPart p q).active = k.active := by
  unfold Core.setPart; split <;> rfl
@[simp] theorem core_setPart_mxq (k : Core) (p : Nat) (q : Part) : (k.setPart p q).mxq = k.mxq := by
  unfold Core.setPart; split <;> rfl
@[simp] theorem core_setPart_losses (k : Core) (p : Nat) (q : Part) : (k.setPart p q).losses = k.losses := by
  unfold Core.setPart; split <;> rfl
@[simp] theorem core_setPart_copies (k : Core) (p : Nat) (q : Part) : (k.setPart p q).copies = k.copies := by
  unfold Core.setPart; split <;> rfl
@[simp] theorem core_setPart_shorts (k : Core) (p : Nat) (q : Part) : (k.setPart p q).shorts = k.shorts := by
  unfold Core.setPart; split <;> rfl
@[simp] theorem core_setPart_closing (k : Core) (p : Nat) (q : Part) : (k.setPart p q).closing = k.closing := by
  unfold Core.setPart; split <;> rfl
@[simp] theorem core_setPart_colls (k : Core) (p : Nat) (q : Part) : (k.setPart p q).colls = k.colls := by
  unfold Core.setPart; split <;> rfl
@[simp] theorem core_setPart_nextOp (k : Core) (p : Nat) (q : Part) : (k.setPart p q).nextOp = k.nextOp := by
  unfold Core.setPart; split <;> rfl
@[simp] theorem core_setPart_credits (k : Core) (p : Nat) (q : Part) : (k.setPart p q).credits = k.credits := by
  unfold Core.setPart; split <;> rfl
@[simp] theorem core_setPart_rings (k : Core) (p : Nat) (q : Part) : (k.setPart p q).rings = k.rings := by
  unfold Core.setPart; split <;> rfl
@[simp] theorem core_setPart_backlog (k : Core) (p : Nat) (q : Part) : (k.setPart p q).backlog = k.backlog := by
  unfold Core.setPart; split <;> rfl
@[simp] theorem core_setPart_grants (k : Core) (p : Nat) (q : Part) : (k.setPart p q).grants = k.grants := by
  unfold Core.setPart; split <;> rfl
@[simp] theorem core_setPart_tlb (k : Core) (p : Nat) (q : Part) : (k.setPart p q).tlb = k.tlb := by
  unfold Core.setPart; split <;> rfl
@[simp] theorem core_setPart_lastPage (k : Core) (p : Nat) (q : Part) : (k.setPart p q).lastPage = k.lastPage := by
  unfold Core.setPart; split <;> rfl
@[simp] theorem core_setPart_l1 (k : Core) (p : Nat) (q : Part) : (k.setPart p q).l1 = k.l1 := by
  unfold Core.setPart; split <;> rfl
@[simp] theorem core_setPart_acqs (k : Core) (p : Nat) (q : Part) : (k.setPart p q).acqs = k.acqs := by
  unfold Core.setPart; split <;> rfl
@[simp] theorem core_setPart_owing (k : Core) (p : Nat) (q : Part) : (k.setPart p q).owing = k.owing := by
  unfold Core.setPart; split <;> rfl
@[simp] theorem core_setPart_late (k : Core) (p : Nat) (q : Part) : (k.setPart p q).late = k.late := by
  unfold Core.setPart; split <;> rfl
@[simp] theorem core_setPart_axLoads (k : Core) (p : Nat) (q : Part) : (k.setPart p q).axLoads = k.axLoads := by
  unfold Core.setPart; split <;> rfl
@[simp] theorem core_setPart_crdone (k : Core) (p : Nat) (q : Part) : (k.setPart p q).crdone = k.crdone := by
  unfold Core.setPart; split <;> rfl
@[simp] theorem core_setPart_crheld (k : Core) (p : Nat) (q : Part) : (k.setPart p q).crheld = k.crheld := by
  unfold Core.setPart; split <;> rfl
@[simp] theorem core_setPart_crsave (k : Core) (p : Nat) (q : Part) : (k.setPart p q).crsave = k.crsave := by
  unfold Core.setPart; split <;> rfl
@[simp] theorem core_setPart_ercore (k : Core) (p : Nat) (q : Part) : (k.setPart p q).ercore = k.ercore := by
  unfold Core.setPart; split <;> rfl
@[simp] theorem core_setPart_draining (k : Core) (p : Nat) (q : Part) : (k.setPart p q).draining = k.draining := by
  unfold Core.setPart; split <;> rfl
@[simp] theorem core_setPart_skew (k : Core) (p : Nat) (q : Part) : (k.setPart p q).skew = k.skew := by
  unfold Core.setPart; split <;> rfl
@[simp] theorem core_setPart_ended (k : Core) (p : Nat) (q : Part) : (k.setPart p q).ended = k.ended := by
  unfold Core.setPart; split <;> rfl

end Sys2Proof.Machine
end

