-- ==== Sys2Proof/Laws/Unit.lean ====
section
/-! SUPPORT. Laws of the shared operations: registers, counting, completing a unit, stopping, taking a trap, and running a
unit for one member of the spray. Each says once everything its operation can do. -/

namespace Sys2Proof.Machine

/-! ### Counting (R352) -/

/-- Counting an event changes nothing but counters of one partition. -/
theorem bump_cases (s : State) (c p e n : Nat) :
    s.bump c p e n = s ∨ ∃ f : Part → Part, s.bump c p e n = s.modPart c p f ∧
      (∀ q, (f q).tmpls = q.tmpls ∧ (f q).window = q.window ∧ (f q).step = q.step ∧ (f q).halted = q.halted
        ∧ (f q).bins = q.bins ∧ (f q).groups = q.groups ∧ (f q).counting = q.counting) := by
  unfold State.bump
  split
  · exact .inr ⟨_, rfl, fun q => ⟨rfl, rfl, rfl, rfl, rfl, rfl, rfl⟩⟩
  · exact .inl rfl

@[simp] theorem bump_thr? (s : State) (c p e n d t : Nat) : (s.bump c p e n).thr? d t = s.thr? d t := by
  obtain h | ⟨f, h, -⟩ := bump_cases s c p e n
  · rw [h]
  · rw [h]
    by_cases hd : d = c
    · subst hd; simp [State.thr?, State.modPart, Core.thr?]
    · simp [State.thr?, State.modPart, hd]

@[simp] theorem bump_mem (s : State) (c p e n : Nat) : (s.bump c p e n).mem = s.mem := by
  unfold State.bump; split <;> rfl

@[simp] theorem bump_cur (s : State) (c p e n : Nat) : (s.bump c p e n).cur = s.cur := by
  unfold State.bump; split <;> rfl

@[simp] theorem bump_cycle (s : State) (c p e n : Nat) : (s.bump c p e n).cycle = s.cycle := by
  unfold State.bump; split <;> rfl

@[simp] theorem bump_tens (s : State) (c p e n : Nat) : (s.bump c p e n).tens = s.tens := by
  unfold State.bump; split <;> rfl

@[simp] theorem bump_nodes (s : State) (c p e n : Nat) : (s.bump c p e n).nodes = s.nodes := by
  unfold State.bump; split <;> rfl

@[simp] theorem bump_sp (s : State) (c p e n d : Nat) : ((s.bump c p e n).core d).sp = (s.core d).sp := by
  obtain h | ⟨f, h, -⟩ := bump_cases s c p e n
  · rw [h]
  · rw [h]
    by_cases hd : d = c
    · subst hd; simp [State.modPart]
    · simp [State.modPart, hd]

/-- Counting a lane operation is counting an event, or nothing. -/
theorem countLane_cases (s : State) (c t : Nat) (i : Instr) :
    s.countLane c t i = s ∨ ∃ e, s.countLane c t i = s.bump c (posPart t) e 1 := by
  unfold State.countLane
  split
  · exact .inr ⟨_, rfl⟩
  · exact .inl rfl

@[simp] theorem countLane_thr? (s : State) (c t d u : Nat) (i : Instr) :
    (s.countLane c t i).thr? d u = s.thr? d u := by
  obtain h | ⟨e, h⟩ := countLane_cases s c t i <;> simp [h]

@[simp] theorem countLane_mem (s : State) (c t : Nat) (i : Instr) : (s.countLane c t i).mem = s.mem := by
  obtain h | ⟨e, h⟩ := countLane_cases s c t i <;> simp [h]

@[simp] theorem countLane_cur (s : State) (c t : Nat) (i : Instr) : (s.countLane c t i).cur = s.cur := by
  obtain h | ⟨e, h⟩ := countLane_cases s c t i <;> simp [h]

@[simp] theorem countLane_cycle (s : State) (c t : Nat) (i : Instr) : (s.countLane c t i).cycle = s.cycle := by
  obtain h | ⟨e, h⟩ := countLane_cases s c t i <;> simp [h]

@[simp] theorem countLane_tens (s : State) (c t : Nat) (i : Instr) : (s.countLane c t i).tens = s.tens := by
  obtain h | ⟨e, h⟩ := countLane_cases s c t i <;> simp [h]

@[simp] theorem countLane_sp (s : State) (c t d : Nat) (i : Instr) :
    ((s.countLane c t i).core d).sp = (s.core d).sp := by
  obtain h | ⟨e, h⟩ := countLane_cases s c t i <;> simp [h]

/-! ### Record and replay -/

/-- With record and replay off a unit is neither logged nor compared (R360). -/
theorem rrIssue_off {s : State} {c : Nat} (t : Nat) (th : Thread) (i : Instr)
    (h : bits (s.ten (s.core c).tenancy).rr.toNat 63 62 = 0) : s.rrIssue c t th i = .ok s := by
  simp [State.rrIssue, h]

/-! ### Running a unit for one member -/

section
variable {i : Instr} {pre : State → Nat → Nat → Except Stop Unit} {body : State → Nat → Nat → Res}
  {s : State} {c t : Nat} {th : Thread}

/-- A false guard: the unit only completes (R73, R90). -/
theorem runOne_false (hc : s.cur.core = c) (ht : s.thr? c t = some th)
    (hg : guardHolds th.win.preds i.guard = false) : runOne i pre body s t = s.complete c t i (.val 0) := by
  simp [runOne, hc, ht, hg]

/-- A failed access condition stops the thread (R31). -/
theorem runOne_error {e : Stop} (hc : s.cur.core = c) (ht : s.thr? c t = some th)
    (hg : guardHolds th.win.preds i.guard = true) (hl : th.log = none) (hu : s.cur.upset = none)
    (hk : startUnit i pre s c t th = .error e) : runOne i pre body s t = s.stopAt c t e := by
  simp [runOne, hc, ht, hg, hl, hu, hk, Thread.stopsAt]

/-- With every access condition met the unit's own effect decides. -/
theorem runOne_ok (hc : s.cur.core = c) (ht : s.thr? c t = some th)
    (hg : guardHolds th.win.preds i.guard = true) (hl : th.log = none) (hu : s.cur.upset = none)
    (hk : startUnit i pre s c t th = .ok ()) (hr : bits (s.ten (s.core c).tenancy).rr.toNat 63 62 = 0) :
    runOne i pre body s t =
      match body s c t with
      | .error e => s.stopAt c t e
      | .ok (s, .go l) => (s.countLane c t i).complete c t i l
      | .ok (s, .jump pc) => s.jumpTo c t pc
      | .ok (s, .gone) => s := by
  simp only [runOne, hc, ht, hg, hl, hu, hk, Thread.stopsAt, rrIssue_off t th i hr, Bool.not_true, Bool.false_eq_true,
    if_false, Option.filter_none]
  all_goals (rcases body s c t with e | ⟨s', l | pc | -⟩ <;> rfl)

/-- A spray of one thread is that thread's unit. -/
theorem runThreads_one (hm : s.cur.members = [t]) :
    runThreads i pre body s = .next (runOne i pre body s t) := by
  simp [runThreads, hm]

end

/-! ### Completing -/

@[simp] theorem countRetry_sp (k : Core) (th : Thread) : (k.countRetry th).sp = k.sp := by
  unfold Core.countRetry; split <;> rfl

@[simp] theorem countRetry_threads (k : Core) (th : Thread) : (k.countRetry th).threads = k.threads := by
  unfold Core.countRetry; split <;> rfl

/-- Dropping a block transfer changes the log and the pending registers alone (R150). -/
theorem dropBlock_rest (th : Thread) : ∃ l ps, th.dropBlock = { th with log := l, pend := ps } := by
  unfold Thread.dropBlock
  split
  · split_ifs
    · exact ⟨_, _, rfl⟩
    · exact ⟨th.log, th.pend, rfl⟩
  · exact ⟨th.log, th.pend, rfl⟩

/-- What completing a unit does to its thread: the next unit of the chain, or the chain's end (R84, R85); a block unit's own
log and later beats are dropped (R150). -/
theorem complete_cases {s : State} {c t : Nat} {th : Thread} (i : Instr) (l : Latch) (h : s.thr? c t = some th) :
    ∃ th' : Thread,
      (s.complete c t i l = s.setThr c t th' ∨
        s.complete c t i l = (s.modCore c (·.countRetry th)).setThr c t th')
      ∧ th'.win = th.win ∧ th'.handler = th.handler ∧ th'.epc = th.epc
      ∧ th'.ecause = th.ecause ∧ th'.evec = th.evec ∧ th'.errs = th.errs ∧ th'.uid = th.uid ∧ th'.age = th.age
      ∧ (i.isBlk = false → th'.pend = th.pend ∧ th'.log = th.log) := by
  obtain ⟨lg, ps, hd⟩ :=
    dropBlock_rest (if i.isSync && !th.rrStop && guardHolds th.win.preds i.guard then { th with rrIndex := th.rrIndex + 1 } else th)
  unfold State.complete State.chainEnd
  simp only [h]
  rw [hd]
  split_ifs <;>
    first
      | exact ⟨_, .inl rfl, rfl, rfl, rfl, rfl, rfl, rfl, rfl, rfl, fun _ => ⟨rfl, rfl⟩⟩
      | exact ⟨_, .inr rfl, rfl, rfl, rfl, rfl, rfl, rfl, rfl, rfl, fun _ => ⟨rfl, rfl⟩⟩
      | exact ⟨_, .inl rfl, rfl, rfl, rfl, rfl, rfl, rfl, rfl, rfl, fun hb => absurd hb (by simp_all)⟩
      | exact ⟨_, .inr rfl, rfl, rfl, rfl, rfl, rfl, rfl, rfl, rfl, fun hb => absurd hb (by simp_all)⟩

@[simp] theorem complete_mem (s : State) (c t : Nat) (i : Instr) (l : Latch) : (s.complete c t i l).mem = s.mem := by
  cases h : s.thr? c t with
  | none => simp [State.complete, h]
  | some th => obtain ⟨th', h1 | h1, -⟩ := complete_cases i l h <;> simp [h1]

@[simp] theorem complete_sp (s : State) (c t d : Nat) (i : Instr) (l : Latch) :
    ((s.complete c t i l).core d).sp = (s.core d).sp := by
  cases h : s.thr? c t with
  | none => simp [State.complete, h]
  | some th =>
    obtain ⟨th', h1 | h1, -⟩ := complete_cases i l h <;> rw [h1] <;> by_cases hd : d = c <;>
      first
        | (subst hd; simp [State.setThr])
        | simp [State.setThr, hd]

/-- Completing a unit leaves every other thread. -/
theorem complete_thr?_ne (s : State) (c t d u : Nat) (i : Instr) (l : Latch) (hd : d ≠ c ∨ u ≠ t) :
    (s.complete c t i l).thr? d u = s.thr? d u := by
  cases h : s.thr? c t with
  | none => simp [State.complete, h]
  | some th =>
    obtain ⟨th', h1 | h1, -⟩ := complete_cases i l h
    · rw [h1, thr?_setThr_ne _ _ _ _ _ _ hd]
    · rw [h1, thr?_setThr_ne _ _ _ _ _ _ hd]
      by_cases hc : d = c
      · subst hc; simp [State.thr?, Core.thr?]
      · simp [State.thr?, hc]

/-! ### Registers -/

/-- Writing a window register writes one entry of one thread (R17, R24). -/
theorem setReg_of_some {s : State} {c t : Nat} {th : Thread} (h : s.thr? c t = some th) (r : Nat) (v : Word) :
    s.setReg c t r v = s.setThr c t { th with win := th.win.setEnt (th.win.wbase + r) v } := modThr_of_some h _

@[simp] theorem ent_setEnt (w : Window) (i : Nat) (v : Word) : (w.setEnt i v).ent i = .own v := by
  simp [Window.ent, Window.setEnt]

@[simp] theorem ent_setEnt_ne (w : Window) {i j : Nat} (v : Word) (h : j ≠ i) : (w.setEnt i v).ent j = w.ent j := by
  simp [Window.ent, Window.setEnt, h]

@[simp] theorem setReg_mem (s : State) (c t r : Nat) (v : Word) : (s.setReg c t r v).mem = s.mem := rfl

@[simp] theorem dst_mem (s : State) (c t : Nat) (d : Dst) (v : Word) : (s.dst c t d v).mem = s.mem := by
  cases d with
  | zr => rfl
  | w k => rfl
  | ax n => simp only [State.dst]; split <;> rfl

@[simp] theorem dst64_mem (s : State) (c t : Nat) (d : Dst) (v : DWord) : (s.dst64 c t d v).mem = s.mem := by
  cases d <;> rfl

/-- A register reads back what was written to it (R17). -/
theorem reg_setReg {s : State} {c t : Nat} {th : Thread} (h : s.thr? c t = some th) (r : Nat) (v : Word) :
    (s.setReg c t r v).reg c t r = v := by
  rw [setReg_of_some h]
  have h' : (s.setThr c t { th with win := th.win.setEnt (th.win.wbase + r) v }).thr? c t =
      some { th with win := th.win.setEnt (th.win.wbase + r) v } := thr?_setThr ..
  have h2 : ((s.setThr c t { th with win := th.win.setEnt (th.win.wbase + r) v }).core c).thr? t =
      some { th with win := th.win.setEnt (th.win.wbase + r) v } := h'
  have e : (th.win.setEnt (th.win.wbase + r) v).wbase = th.win.wbase := rfl
  simp only [State.reg, h', Core.entry, h2, e, entDepth, entValue, ent_setEnt]

end Sys2Proof.Machine
end

