-- ==== Sys2Proof/Tests/Slice0.lean ====
section
/-! SUPPORT. The model's own tests: ill-formed units for each check of WellFormed, words of the spec's encodings, single
steps with results from the spec, and for every statement a state and operands that meet its hypotheses. -/

namespace Sys2Proof.Tests

set_option Elab.async false

open Sys2Proof.Machine Sys2Proof.Claims

/-- The guard of an instruction without one. -/
def T : Guard := { neg := false, p := 7 }

def plain : Mode := { rm := 0, fzi := false, fzo := false, sat := false, n := false, w := false }

/-! ### Well-formedness -/

/-- R15: codes above w119 name no window register. -/
theorem test_wf_register : (Instr.iadd none (.w 120) (.w 1) (.w 2) T false).wf = false
    ∧ (Instr.iadd none (.w 1) (.w 120) (.w 2) T false).wf = false
    ∧ (Instr.mmaReg none none 120 1 2).wf = false := by decide

/-- R16: a pair field holds an even register, a latch or zr. -/
theorem test_wf_pair : (Instr.imulw none (.w 3) (.w 1) (.w 2) T false).wf = false
    ∧ (Instr.imulw none (.ax false) (.w 1) (.w 2) T false).wf = false
    ∧ (Instr.abset true .it T false).wf = false ∧ (Instr.hset none 0 (.b 1) 0).wf = false
    ∧ (Instr.iadd (some { plain with w := true }) (.w 2) (.w 1) (.w 4) T false).wf = false := by decide

/-- R147: the registers of a CAS. -/
theorem test_wf_cas : (Instr.atomg none none (.w 3) (.w 1) .cas T 0).wf = false
    ∧ (Instr.atoms none (some { plain with w := true }) (.w 2) (.w 1) .cas T 0).wf = false := by decide

/-- R96: a shift count of 32 or more needs W. -/
theorem test_wf_count : (Instr.shli none none (.w 1) (.w 2) 32).wf = false
    ∧ (Instr.shli none (some { plain with w := true }) (.w 2) (.w 2) 32).wf = true := by decide

/-- R103: pt and pf differ, or are both p7. -/
theorem test_wf_pt : (Instr.cmp none 3 3 (.w 1) (.w 2) T .eq).wf = false
    ∧ (Instr.cmp none 7 7 (.w 1) (.w 2) T .eq).wf = true := by decide

/-- R149, R174, R193: register runs end at w119; a .b64 TSTW takes an even register. -/
theorem test_wf_run : (Instr.ldm none 100 (.w 1) 20 false 0).wf = false ∧ (Instr.hset none 113 .zr 0).wf = false
    ∧ (Instr.hget none 113 .zr 0).wf = false ∧ (Instr.tstw none 3 (.w 4) .b64 false).wf = false := by decide

/-- R27: the numbers of system registers. -/
theorem test_wf_sysreg : (Instr.gets (.w 1) 0x0D T false).wf = false ∧ (Instr.sets 0x16 (.w 1) T false).wf = false
    ∧ (Instr.gets (.w 1) 0x0A T false).wf = false := by decide

/-- R80, R81, R197: fields that an EXT prefix makes 0. -/
theorem test_wf_ext : (Instr.ldg (some 4) (.w 1) (.w 2) .b32 T 1).wf = false
    ∧ (Instr.atoms (some 4) none (.w 1) (.w 2) .add T 1).wf = false
    ∧ (Instr.shfl (some (.w 1)) none (.w 1) (.w 2) 1 .idx).wf = false := by decide

/-- R41, R57, R92: MODE fields an instruction forbids, and reserved rounding codes. -/
theorem test_wf_mode : (Instr.iadd (some { plain with rm := 1 }) (.w 1) (.w 2) (.w 3) T false).wf = false
    ∧ (Instr.iadd (some { plain with fzi := true }) (.w 1) (.w 2) (.w 3) T false).wf = false
    ∧ (Instr.iadd (some { plain with fzo := true }) (.w 1) (.w 2) (.w 3) T false).wf = false
    ∧ (Instr.and (some { plain with n := true }) (.w 1) (.w 2) (.w 3) T false).wf = false
    ∧ (Instr.imulw (some { plain with w := true }) (.w 2) (.w 2) (.w 3) T false).wf = false
    ∧ (Instr.imin (some { plain with sat := true }) (.w 1) (.w 2) (.w 3) T false).wf = false
    ∧ (Instr.fadd (some { plain with n := true }) (.w 1) (.w 2) (.w 3) T false).wf = false
    ∧ (Instr.fadd (some { plain with w := true }) (.w 1) (.w 2) (.w 3) T false).wf = false
    ∧ (Instr.fadd (some { plain with rm := 5 }) (.w 1) (.w 2) (.w 3) T false).wf = false
    ∧ (Instr.mma none (some { plain with rm := 1 }) 1 2).wf = false := by decide

/-- A step of another agent is no unit. -/
theorem test_wf_event : (Instr.registerGrant 0 0 0).wf = false := by decide

/-! ### Decoding: words written out in the spec -/

/-- N: iadd w16, w8, it. -/
theorem test_decode_iadd : decodeUnit false [0x04808FAE] = .ok (.iadd none (.w 16) (.w 8) .it T false) 1 := by decide

/-- shl zr, it, w16 &. -/
theorem test_decode_shl : decodeUnit false [0x23E7D20F] = .ok (.shl none .zr .it (.w 16) T true) 1 := by decide

/-- sel zr, p1, w1, w2 &. -/
theorem test_decode_sel : decodeUnit false [0x37E01043] = .ok (.sel none .zr (.w 1) (.w 2) { neg := false, p := 1 } true) 1 := by decide

/-- clz w9, w10 (R99). -/
theorem test_decode_clz : decodeUnit false [0x3848A0AE] = .ok (.clz none (.w 9) (.w 10) T false) 1 := by decide

/-- pand p5, p5, !p3. -/
theorem test_decode_pand : decodeUnit false [0x3E85380E] = .ok (.pand 5 5 false 3 true T false) 1 := by decide

/-- cmp.lt.n p2, p3, w4, w5 (R101). -/
theorem test_decode_cmp : decodeUnit false [0xFA020000, 0x4130815D] = .ok (.cmp (some { plain with n := true }) 2 3 (.w 4) (.w 5) T .lt) 2 := by decide

/-- mode.rz fmul w12, w11, w7. -/
theorem test_decode_fmul : decodeUnit false [0xFA200000, 0x5860B0EE] = .ok (.fmul (some { plain with rm := 1 }) (.w 12) (.w 11) (.w 7) T false) 2 := by decide

/-- cvt.f32.e4m3 w11, w10. -/
theorem test_decode_cvt : decodeUnit false [0x8458A10E] = .ok (.cvt none (.w 11) (.w 10) .f32e4m3 T false) 1 := by decide

/-- iaddi w9, zr, 0 (R95). -/
theorem test_decode_iaddi : decodeUnit false [0x884FC000] = .ok (.iaddi none none none (.w 9) .zr 0) 1 := by decide

/-- shli w7, w8, 4 (R96). -/
theorem test_decode_shli : decodeUnit false [0x98388004] = .ok (.shli none none (.w 7) (.w 8) 4) 1 := by decide

/-- ldg.b8 w29, [w22+2]. -/
theorem test_decode_ldg : decodeUnit false [0xA0E960E2] = .ok (.ldg none (.w 29) (.w 22) .b8 T 2) 1 := by decide

/-- stg.b32 [w22+20], w11. -/
theorem test_decode_stg : decodeUnit false [0xA45968E5] = .ok (.stg none (.w 11) (.w 22) .b32 T 5) 1 := by decide

/-- atomg.cas w6, [w10+0] (R148). -/
theorem test_decode_atomg : decodeUnit false [0xB030AEE0] = .ok (.atomg none none (.w 6) (.w 10) .cas T 0) 1 := by decide

/-- atoms.max.n w5, [w8+4] (R148). -/
theorem test_decode_atoms : decodeUnit false [0xFA020000, 0xB4288AE1] = .ok (.atoms none (some { plain with n := true }) (.w 5) (.w 8) .max T 1) 2 := by decide

/-- ldm [w20+32], w40, 40 (R150). -/
theorem test_decode_ldm : decodeUnit false [0xB8A0A4E2] = .ok (.ldm none 40 (.w 20) 39 false 2) 1 := by decide

/-- hann w27, w22 (R158). -/
theorem test_decode_hann : decodeUnit false [0xBCD9602E] = .ok (.hann (.w 27) (.w 22) T false) 1 := by decide

/-- (!p2) br to 16 bytes below (R105). -/
theorem test_decode_br : decodeUnit false [0xC2BFFFFC] = .ok (.br { neg := true, p := 2 } 0x3FFFFC) 1 := by decide

/-- jmpi zr, w0 (R106). -/
theorem test_decode_jmpi : decodeUnit false [0xCBE0000E] = .ok (.jmpi .zr (.w 0) T) 1 := by decide

/-- gets w2, $alloc. -/
theorem test_decode_gets : decodeUnit false [0xCC1100CE] = .ok (.gets (.w 2) 0x10 T false) 1 := by decide

/-- await.st w8. -/
theorem test_decode_awaitSt : decodeUnit false [0xCC08806E] = .ok (.awaitSt (.w 8) T false) 1 := by decide

/-- hld h0, w24. -/
theorem test_decode_hld : decodeUnit false [0xD0060000] = .ok (.hld none (.w 24) 0 false) 1 := by decide

/-- mma.fzo h6, h2. -/
theorem test_decode_mma : decodeUnit false [0xFA080000, 0xD0E00308] = .ok (.mma none (some { plain with fzo := true }) 6 2) 2 := by decide

/-- prclr.own w2, w3 (R189). -/
theorem test_decode_prclrOwn : decodeUnit false [0xD4A08181] = .ok (.prclrOwn none (.w 2) (.w 3)) 1 := by decide

/-- freeze (R191). -/
theorem test_decode_freeze : decodeUnit false [0xD8200000] = .ok (.freeze none) 1 := by decide

/-- exit (R194). -/
theorem test_decode_exit : decodeUnit false [0xD8800000] = .ok (.exit none) 1 := by decide

/-- spawn w18, w16. -/
theorem test_decode_spawn : decodeUnit false [0xD8048800] = .ok (.spawn none (.w 18) (.w 16) 0 0) 1 := by decide

/-- next w2, w4. -/
theorem test_decode_next : decodeUnit false [0xDC808200] = .ok (.next none (.w 2) (.w 4)) 1 := by decide

/-- fabw.tc2 w4 (R202). -/
theorem test_decode_fabw : decodeUnit false [0xDCC10008] = .ok (.fabw none (.w 4) 0) 1 := by decide

/-- movx w3, ax0, ix2 (R152). -/
theorem test_decode_movx : decodeUnit false [0xE018200E] = .ok (.movx (.w 3) false 2 T false) 1 := by decide

/-- abset 1, w12 (R153). -/
theorem test_decode_abset : decodeUnit false [0xE008C08E] = .ok (.abset true (.w 12) T false) 1 := by decide

/-! ### Single steps -/

/-- The state after the step that runs one placed unit, in a machine prepared by f. -/
def after (nbits w : Nat) (f : State → State) : Option State :=
  match step (f (State.reset.withFetchWord nbits w)) with
  | .next t => some t
  | _ => none

/-- A register of the placed thread after that step. -/
def regAfter (nbits w : Nat) (f : State → State) (k : Nat) : Option Nat := (after nbits w f).map fun t => (t.reg 0 0 k).toNat

def put (k v : Nat) (s : State) : State := s.setReg 0 0 k (BitVec.ofNat 32 v)

/-- R99: clz w9, w10 with w10 = 0x100 writes 23. -/
theorem test_clz : regAfter 32 0x3848A0AE (put 10 0x100) 9 = some 23 := by decide +kernel

/-- R94: iadd w16, w8, w9 wraps. -/
theorem test_iadd_wraps : regAfter 32 0x0480812E (put 8 0xFFFFFFFF ∘ put 9 2) 16 = some 1 := by decide +kernel

/-- R94: isub of a register from itself, source also destination. -/
theorem test_isub_same : regAfter 32 0x0828506E (put 5 7 ∘ put 3 9) 5 = some 4294967294 := by decide +kernel

/-- R95: iaddi w9, zr, 0. -/
theorem test_iaddi : regAfter 32 0x884FC000 (put 9 5) 9 = some 0 := by decide +kernel

/-- R96: shli w7, w8, 4. -/
theorem test_shli : regAfter 32 0x98388004 (put 8 0xF0000001) 7 = some 16 := by decide +kernel

/-- R98: sel w1, p4, w2, w3 with p4 false takes w3. -/
theorem test_sel : regAfter 32 0x34082068 (put 2 5 ∘ put 3 6) 1 = some 6 := by decide +kernel

/-- R101: cmp.lt.n p2, p3, w4, w5 compares unsigned. -/
theorem test_cmp_unsigned : ((after 64 (0x4130815D * 2 ^ 32 + 0xFA020000) (put 4 1 ∘ put 5 0x80000000)).map
    fun t => (t.preds 0 0).toNat) = some 4 := by decide +kernel

/-- R127: fmul w12, w11, w7 under rz. 1.5 x 1.5 = 2.25. -/
theorem test_fmul : regAfter 64 (0x5860B0EE * 2 ^ 32 + 0xFA200000) (put 11 0x3FC00000 ∘ put 7 0x3FC00000) 12
    = some 0x40100000 := by decide +kernel

/-- R50: cvt.f32.e4m3 w11, w10: 0x38 is 1.0. -/
theorem test_cvt : regAfter 32 0x8458A10E (put 10 0x38) 11 = some 0x3F800000 := by decide +kernel

/-- R105: a taken branch 16 bytes below heads a new chain there; guard !p2, p2 false. -/
theorem test_br : ((after 32 0xC2BFFFFC id).bind fun t => t.thr? 0 0).map (fun th => (th.pc.toNat, th.head.toNat))
    = some (0x0FFFFFF0, 0x0FFFFFF0) := by decide +kernel

/-- R106: jmpi to an address that is no multiple of 4 faults: class 1, kind 17, and with no handler the thread ends with
FAULT (R113). -/
theorem test_jmpi_fault : ((after 32 0xCBE0000E (put 0 2)).map fun t => ((t.core 0).ended, (t.thr? 0 0).isNone))
    = some ([(0, 1)], true) := by decide +kernel

/-- R118: gets w2, $alloc. -/
theorem test_gets : regAfter 32 0xCC1100CE id 2 = some 256 := by decide +kernel

/-- R119: win to 8 moves the window: w0 is then entry 8. -/
theorem test_win : ((after 32 0xCC00110E (put 8 77)).map fun t => (t.reg 0 0 0).toNat) = some 77 := by decide +kernel

/-- R153: abset 1, w12 with w12 = 0x400, w13 = 16. -/
theorem test_abset : (((after 32 0xE008C08E (put 12 0x400 ∘ put 13 16)).bind fun t => t.thr? 0 0).map
    fun th => (th.win.ar1.base.toNat, th.win.ar1.lim.toNat)) = some (0x400, 16) := by decide +kernel

/-- R152: ixset ix2, w9 drops bits 31:16. -/
theorem test_ixset : (((after 32 0xE010904E (put 9 0x12345)).bind fun t => t.thr? 0 0).map fun th => th.win.ix2.toNat)
    = some 0x2345 := by decide +kernel

/-- R113: with $evec set a fault enters the handler. -/
theorem test_handler : (((after 32 0xCBE0000E (put 0 2 ∘ fun s => s.modThr 0 0 fun th => { th with evec := 0x40 })).bind
    fun t => t.thr? 0 0).map fun th => (th.handler, th.ecause.toNat, th.pc.toNat, th.epc.toNat))
    = some (true, 0x111, 0x40, 0x10000000) := by decide +kernel

/-- R194: exit ends the thread with EXIT. -/
theorem test_exit : ((after 32 0xD8800000 id).map fun t => ((t.core 0).ended, (t.core 0).threads.isEmpty))
    = some ([(0, 0)], true) := by decide +kernel

/-- R121: tagrd of 0xFFFF8000 is 0b10 (R23). -/
theorem test_tagrd : regAfter 32 0xCC08514E (put 5 0xFFFF8000) 1 = some 2 := by decide +kernel


/-! ### Witnesses: states and operands that meet the hypotheses of the statements -/

/-- The conditions of Solo for the thread at position 0 of core 0. -/
def soloB (i : Instr) (pre : State → Nat → Nat → Except Stop Unit) (s : State) : Bool :=
  match s.thr? 0 0 with
  | none => false
  | some th =>
    s.cur.core == 0 && s.cur.members == [0] && guardHolds th.win.preds i.guard && th.log.isNone && s.cur.upset.isNone
    && bits (s.ten (s.core 0).tenancy).rr.toNat 63 62 == 0
    && (match startUnit i pre s 0 0 th with | .ok _ => true | .error _ => false)

/-- A state that meets soloB meets Solo. -/
theorem solo_of {i : Instr} {pre : State → Nat → Nat → Except Stop Unit} {s : State} (h : soloB i pre s = true) :
    ∃ th, Solo i pre s 0 0 th := by
  unfold soloB at h
  split at h
  · cases h
  · rename_i th ht
    simp only [Bool.and_eq_true, beq_iff_eq, Option.isNone_iff_eq_none] at h
    obtain ⟨⟨⟨⟨⟨⟨h1, h2⟩, h3⟩, h4⟩, h5⟩, h6⟩, h7⟩ := h
    refine ⟨th, h1, h2, ht, h3, h4, h5, h6, ?_⟩
    split at h7
    · assumption
    · cases h7

/-- The unit runs alone in s. -/
abbrev Ready (i : Instr) (s : State) : Prop := soloB i noPre s = true

/-- A thread with entry k of its window equal to v. -/
def having (k v : Nat) (th : Thread) : Thread := { th with win := th.win.setEnt k (BitVec.ofNat 32 v) }

/-- The thread of the witnesses: 64 registers of 0. -/
def th0 : Thread := Thread.blank 0 placePc 0 (Window.launch 64 .zero)

/-- A running machine with one thread, whose core and state f and g have changed. -/
def one (th : Thread) (f : Core → Core := id) (g : State → State := id) : State :=
  let s := State.reset.placeWord []
  g { s with
    cores := [(0, f { s.core 0 with threads := [(0, th)] })]
    cur := { core := 0, part := 0, members := [0], word := 0, len := 1, upset := none } }

/-- Units without a condition but those of Solo, on the witnesses' thread. -/
def allMeet (is : List Instr) : Bool := is.all fun i => soloB i noPre (one th0)

/-- W. -/
def W : Option Mode := some { plain with w := true }

/-- A unit of two operands, and of one, at the ends of the window. -/
def two (f : Dst → Src → Src → Guard → Bool → Instr) : List Instr := [f (.w 63) (.w 0) (.w 63) T false, f .zr .it (.b 3) T true]
def uno (f : Dst → Src → Guard → Bool → Instr) : List Instr := [f (.w 63) (.w 63) T false, f .zr .it T true]
def twoW (f : Dst → Src → Src → Guard → Bool → Instr) : List Instr := [f (.w 62) (.w 0) (.w 62) T false]
def unoW (f : Dst → Src → Guard → Bool → Instr) : List Instr := [f (.w 62) (.w 62) T false]

/-- IntegerTwoSource. -/
theorem witness_integer_two : allMeet
    (two (.iadd none) ++ two (.isub none) ++ two (.imul none) ++ twoW (.imulw none) ++ two (.and none) ++ two (.or none)
    ++ two (.xor none) ++ two (.shl none) ++ two (.shr none) ++ two (.sar none) ++ two (.imin none) ++ two (.imax none)
    ++ two (.sel none) ++ twoW (.iadd W) ++ twoW (.isub W) ++ twoW (.imul W) ++ twoW (.and W) ++ twoW (.or W)
    ++ twoW (.xor W) ++ twoW (.shl W) ++ twoW (.shr W) ++ twoW (.sar W) ++ twoW (.imin W) ++ twoW (.imax W)) = true := by
  decide +kernel

/-- UniUnits. -/
theorem witness_uni : allMeet
    (uno (.mov none) ++ uno (.not none) ++ uno (.neg none) ++ uno (.abs none) ++ uno (.popc none) ++ uno (.clz none)
    ++ uno (.ctz none) ++ uno (.brev none) ++ uno (.sxb none) ++ uno (.sxh none) ++ uno (.zxb none) ++ uno (.zxh none)
    ++ uno (.bswap none) ++ unoW (.mov W) ++ unoW (.not W) ++ unoW (.neg W) ++ unoW (.abs W) ++ unoW (.popc W)
    ++ unoW (.clz W) ++ unoW (.ctz W) ++ unoW (.brev W) ++ unoW (.sxb W) ++ unoW (.sxh W) ++ unoW (.zxb W)
    ++ unoW (.zxh W) ++ unoW (.bswap W)) = true := by
  decide +kernel

/-- ImmediateUnits. -/
theorem witness_immediate : allMeet
    [.iaddi none none none (.w 63) (.w 63) 0xFFF, .iaddi (some 0xFFFFF) none W (.w 62) (.w 62) 0, .andi none none (.w 0) .it 1,
     .ori (some 1) none .zr (.w 1) 2, .xori none none (.w 1) (.w 2) 3, .shli none none (.w 1) (.w 2) 31,
     .shri none none (.w 1) (.w 2) 31, .sari none none (.w 1) (.w 2) 0, .shli none W (.w 2) (.w 2) 63,
     .shri none W (.w 2) (.w 2) 63, .sari none W (.w 2) (.w 2) 32, .lui none (.w 63) 0x7FFFF] = true := by
  decide +kernel

/-- PredicateUnits and Compares. -/
theorem witness_predicates : allMeet
    [.pand 7 0 true 6 false T false, .por 0 7 false 7 true T true, .pxor 6 6 false 0 true T false, .movp 0 7 true T false,
     .setp 6 true T false, .p2w (.w 63) T false, .w2p (.w 63) T true, .cmp none 0 6 (.w 63) .zr T .lt, .cmp W 7 7 (.w 62) .zr T .tst,
     .cmpi none none none 0 1 (.w 63) .le 0x7FF, .cmpi (some 0x1FFFFF) none W 0 1 (.w 62) .eq 0, .fcmp none 0 1 (.w 63) .zr T .un,
     .hcmp none 0 1 (.w 63) .zr T .lt] = true ∧ guardHolds 0 T = true ∧ ((6 : BitVec 3) ≠ 7) := by
  decide +kernel

/-- FloatArithmetic and FloatFunctions. -/
theorem witness_float : allMeet
    (two (.fadd none) ++ two (.fsub none) ++ two (.fmul none) ++ two (.ffma none) ++ two (.ffms none) ++ two (.fmin none)
    ++ two (.fmax none) ++ two (.hadd2 none) ++ two (.hmul2 none) ++ two (.hfma2 none) ++ two (.hmin2 none) ++ two (.hmax2 none)
    ++ uno (.fneg none) ++ uno (.fabs none) ++ uno (.fsqrt none) ++ uno (.frcp none) ++ uno (.frsq none) ++ uno (.fex2 none)
    ++ uno (.flg2 none) ++ uno (.fsin none) ++ uno (.fcos none) ++ uno (.fflr none) ++ uno (.fceil none) ++ uno (.ftrnc none)
    ++ uno (.frint none) ++ uno (.fcls none) ++ uno (.hneg2 none) ++ uno (.habs2 none) ++ uno (.hsqrt2 none)
    ++ uno (.hrcp2 none)) = true := by
  decide +kernel

/-- FloatFunctions: finite operands of each approximate function, and a sine beyond 2^20. -/
theorem witness_approximate :
    fp32.widen false 0x3FC00000 = .fin false 12582912 (-23) ∧ exactExp false 12582912 (-23) = none ∧ 2 ^ (12582912 : Nat).log2 ≠ 12582912
    ∧ (12582912 : Nat) ≠ 0 ∧ (Ex.fin false 1 10).lt (.fin false 12582912 (-23)) = false
    ∧ fp32.widen true 0x49C00000 = .fin false 12582912 (-3) ∧ (Ex.fin false 1 20).lt (.fin false 12582912 (-3)) = true
    ∧ fp32.widen true 0xC9C00000 = .fin true 12582912 (-3) := by decide +kernel

/-- FloatSpecialResults: a rounding without SAT, and a NaN in each place. -/
theorem witness_float_special : (rndOf none).sat = false ∧ (val fp32 none 0x7FC00000).isNan = true
    ∧ (val fp32 none 0xFFFFFFFF).isNan = true := by decide +kernel

/-- ConvertUnits: each kind of minor. -/
theorem witness_convert : allMeet
    [.cvt none (.w 63) (.w 63) .f32e4m3 T false, .cvt none (.w 63) (.w 62) .f16x2f32 T false,
     .cvt none (.w 63) (.w 62) .bf16x2f32 T false, .cvt none (.w 62) (.w 63) .f32x2f16x2 T false,
     .cvt none (.w 63) (.w 62) .e2m1sf32 T false] = true := by decide +kernel

/-- A thread with array 0 at base and limit, and an index. -/
def arr0 (base lim ix : Nat) (th : Thread) : Thread :=
  { th with win := { th.win with ar0 := .mk (BitVec.ofNat 32 base) (BitVec.ofNat 16 lim), ix0 := BitVec.ofNat 16 ix } }

/-- A machine whose thread holds the pair lo, hi in w2 and w3. -/
def pr (lo hi : Nat) (f : Core → Core := id) (g : State → State := id) : State := one (having 2 lo (having 3 hi th0)) f g

/-- The conditions of axFree. -/
def freeElems (s : State) (ds : List Dst) (fs : List Src) : Bool :=
  ds.all (fun d => match s.dstOwned 0 0 d with | .ok _ => true | .error _ => false)
  && (match s.srcsPresent 0 0 fs with | .ok _ => true | .error _ => false)

/-- The conditions of Met for the thread th at position 0 of core 0. -/
def metB (i : Instr) (s : State) (th : Thread) : Bool :=
  s.cur.core == 0 && s.cur.members == [0] && decide (s.thr? 0 0 = some th) && guardHolds th.win.preds i.guard
  && th.log.isNone && s.cur.upset.isNone && th.prog.isNone

/-- ArrayUnits: the last element below the limit and the first at it; settings at each edge of ABSET's range. -/
theorem witness_arrays :
    let i := Instr.movx (.w 1) false 0 T false
    let j := Instr.stx false 0 (.w 1) T false
    let k := Instr.abset true (.w 2) T false
    let s := one (arr0 0xFFFF8 2 1 th0)
    let t' := arr0 0x100 2 2 th0
    let s' := one t'
    let lo (v : State) : Nat := ((v.src64 0 0 (.w 2)).setWidth 32).toNat
    let hi (v : State) : Nat := (v.src64 0 0 (.w 2) >>> 32).toNat
    Ready i s ∧ Ready j s ∧ checkPresent (s.core 0) 0xFFFFC 4 = .ok () ∧ checkOwned (s.core 0) 0xFFFFC 4 = .ok ()
    ∧ arrElem (.mk 0xFFFF8 2) 1 = 0xFFFFC ∧ checkSpPoison (s.core 0) 0xFFFFC 4 = .ok ()
    ∧ freeElems s [.w 1] [] = true ∧ freeElems s [] [.w 1] = true ∧ freeElems s [.ax false] [.ax false] = true
    ∧ metB i s' t' = true ∧ metB j s' t' = true ∧ checkWindow t'.win i.srcs i.dsts = .ok () ∧ checkBounds t' i.srcs [] = .ok ()
    ∧ checkWindow t'.win j.srcs j.dsts = .ok () ∧ checkBounds t' j.srcs [] = .ok () ∧ (t'.ar false).lim.toNat ≤ (t'.ix 0).toNat
    ∧ allMeet [.movxIndex (.w 1) 3 T false, .ixset 1 (.w 63) T false, .ixadd 2 .zr T true] = true
    ∧ Ready k (pr 0xC0004 0xFFFF) ∧ lo (pr 0xC0004 0xFFFF) + 4 * hi (pr 0xC0004 0xFFFF) = 1048576
    ∧ Ready k (pr 2 0) ∧ lo (pr 2 0) % 4 ≠ 0 ∧ Ready k (pr 0x100000 0) ∧ 1048576 ≤ lo (pr 0x100000 0)
    ∧ Ready k (pr 0 0x10000) ∧ 65535 < hi (pr 0 0x10000)
    ∧ Ready k (pr 0xFFFFC 2) ∧ 1048576 < lo (pr 0xFFFFC 2) + 4 * hi (pr 0xFFFFC 2) := by
  decide +kernel

/-- A translation of the first GiB to itself, of an attribute. -/
def gib (attr : BitVec 2) : TlbEntry := { vpn := 0, psz := 2, ppn := 0, attr, w := true, x := true }

/-- The core holds that translation. -/
def withTlb (attr : BitVec 2) (k : Core) : Core := { k with tlb := [gib attr] }

/-- A machine whose w2 and w3 hold v and u, with a translation held. -/
def held (attr : BitVec 2) (v : Nat) (g : State → State := id) : State := pr v 0 (withTlb attr) g

/-- The pages of the first GiB have an attribute. -/
def paged (attr : BitVec 2) (s : State) : State := { s with attr := [(0, attr), (1, attr), (2, attr), (0x1000, attr)] }

/-- A scratchpad line with its attributes changed. -/
def lineAt (l : Nat) (f : LineAttr → LineAttr) (k : Core) : Core := { k with attrs := tset k.attrs l (f .reset) }

/-- How many bytes a load has bound, without poison. -/
def bytesOf (r : Got) : Option Nat := match r with | .bytes bs false _ => some bs.length | _ => none

/-- ScratchpadLoadsAndStores, ScratchpadAtomics and the in-range clauses of StoreFrame: the last aligned access. -/
theorem witness_scratchpad :
    let s (v : Nat) := pr v 0
    Ready (.lds none (.w 4) (.w 2) .b64 T 0) (s 0xFFFF8) ∧ Ready (.lds (some 0xFFFFFF) .zr (.w 2) .b8 T 0) (s 0x100000)
    ∧ Ready (.lds (some 8) (.w 4) (.w 2) .b64 T 0) (s 0xFFFF0) ∧ (8 : BitVec 24).toNat % 8 = 0
    ∧ (ea (some 0xFFFFFF) (.w 2) 0 1 (s 0x100000) 0 0).toNat = 0xFFFFF
    ∧ Ready (.sts none (.w 4) (.w 2) .b64 T 31) (s 0xFFF00) ∧ (ea none (.w 2) 31 8 (s 0xFFF00) 0 0).toNat + 8 = 1048576
    ∧ checkPresent ((s 0xFFFF8).core 0) 0xFFFF8 8 = .ok () ∧ checkSpPoison ((s 0xFFFF8).core 0) 0xFFFF8 8 = .ok ()
    ∧ freeElems (s 0xFFFF8) [.w 4] [.w 2, .w 4] = true ∧ checkOwned ((s 0xFFFF8).core 0) 0xFFFF8 8 = .ok () ∧ Memory.wf ((s 0xFFFF8).core 0).sp = true
    ∧ Ready (.atoms none none (.w 4) (.w 2) .cas T 0) (s 0xFFFFC)
    ∧ Ready (.atoms none W (.w 4) (.w 2) .cas T 0) (s 0xFFFF8) ∧ Ready (.atoms none none .zr (.w 2) .add T 0) (s 0xFFFFC)
    ∧ Ready (.atoms none none (.ax false) (.w 2) .exch T 0) (one (arr0 0x200 4 3 (having 2 0xFFFFC th0)))
    ∧ freeElems (one (arr0 0x200 4 3 (having 2 0xFFFFC th0))) [.ax false] [.w 2, .ax false] = true
    ∧ freeElems (s 0xFFFFC) [.zr] [.w 2, .zr] = true := by
  decide +kernel

/-- The conditions of Beat for the thread th at position 0 of core 0, beat k of a block at addr. -/
def beatB (i : Instr) (b : Src) (off : BitVec 4) (s : State) (th : Thread) (addr k : Nat) : Bool :=
  s.cur.core == 0 && s.cur.members == [0] && decide (s.thr? 0 0 = some th) && guardHolds th.win.preds i.guard
  && s.cur.upset.isNone && bits (s.ten (s.core 0).tenancy).rr.toNat 63 62 == 0
  && (match startUnit i noPre s 0 0 th with | .ok _ => true | .error _ => false)
  && match th.log with
    | none => k == 0 && addr == (blockAddr b off s 0 0).toNat && freeElems s [] [b]
    | some l => l.kind == 3 && l.pc == th.pc && addr == l.ea.toNat && k == l.beat && decide (0 < k)

/-- A thread whose block unit has completed its first beat at an address. -/
def beaten (ea : Nat) (th : Thread) : Thread :=
  { th with log := some { pc := th.pc, ea := wd ea, kind := 3, sz := 0, dst := 0, beat := 1, data := 0, ent := 0, inst := 0, phase := .walking, spray := 0, walk := none } }

/-- BlockTransfers: blocks of the scratchpad that end at its last byte, of one beat and of two; lines that are absent and
owned. -/
theorem witness_blocks :
    let i := Instr.ldm none 0 (.w 2) 39 true 15
    let j := Instr.stm none 0 (.w 2) 39 true 15
    let th (v : Nat) : Thread := having 2 v (having 3 0 th0)
    let u := beaten 0xFFF60 (th 0)
    let l (own pres : Bool) := pr 0xFFE70 0 (lineAt 8190 fun a => { a with own, pres })
    let free (x : Except Stop Unit) : Bool := match x with | .ok _ => true | .error _ => false
    beatB i (.w 2) 15 (pr 0xFFE70 0) (th 0xFFE70) 0xFFF60 0 = true ∧ beatB j (.w 2) 15 (pr 0xFFE70 0) (th 0xFFE70) 0xFFF60 0 = true
    ∧ 0xFFF60 % 16 = 0 ∧ 0xFFF60 + 4 * 40 = 1048576 ∧ beatB i (.w 2) 15 (one u) u 0xFFF60 1 = true
    ∧ beatB j (.w 2) 15 (one u) u 0xFFF60 1 = true ∧ (one u).lowerMember 0 0 = false
    ∧ checkPresent ((one u).core 0) 0xFFFE0 32 = .ok () ∧ checkSpPoison ((one u).core 0) 0xFFFE0 32 = .ok ()
    ∧ checkOwned ((one u).core 0) 0xFFFE0 32 = .ok () ∧ 32 * 1 < 40 ∧ min 32 (40 - 32 * 1) = 8
    ∧ checkPresent ((pr 0xFFE70 0).core 0) 0xFFF60 128 = .ok () ∧ checkOwned ((pr 0xFFE70 0).core 0) 0xFFF60 128 = .ok ()
    ∧ beatB i (.w 2) 15 (l true false) (th 0xFFE70) 0xFFF60 0 = true
    ∧ free (checkPresent ((l true false).core 0) 0xFFF60 128) = false ∧ free (checkOwned ((l true true).core 0) 0xFFF60 128) = false := by
  decide +kernel

/-- BlockTransfers: blocks of global memory through a translation that is held, first and second beat; a page that is not
mapped. -/
theorem witness_global_blocks :
    let i := Instr.ldm none 0 (.w 2) 39 false 0
    let j := Instr.stm none 0 (.w 2) 39 false 0
    let th : Thread := having 2 0x10000 (having 3 0 th0)
    let s := held 0 0x10000
    let b := beaten 0x10000 th
    let u := one b (withTlb 0)
    let own (k : Nat) := if k = 0 then s.modCore 0 (·.ownEnts 0 ((List.range 40).map (th.win.wbase + 0 + ·))) else u
    let f (k : Nat) := found (if k = 0 then s else u) 0 0 (0x10000 + 128 * k) (gib 0)
    beatB i (.w 2) 0 s th 0x10000 0 = true ∧ beatB j (.w 2) 0 s th 0x10000 0 = true
    ∧ beatB i (.w 2) 0 u b 0x10000 1 = true ∧ beatB j (.w 2) 0 u b 0x10000 1 = true
    ∧ s.cached 0 0 0x10000 = some (gib 0) ∧ s.checkEntry (gib 0) 0x10000 .load = .ok (gib 0) ∧ u.cached 0 0 0x10080 = some (gib 0)
    ∧ s.checkEntry (gib 0) 0x10000 .store = .ok (gib 0) ∧ u.checkEntry (gib 0) 0x10080 .store = .ok (gib 0)
    ∧ th.pend = [] ∧ (s.core 0).late = [] ∧ s.fwds = [] ∧ s.delay = false ∧ s.checkStage 0 0x10000 128 = .ok ()
    ∧ u.checkStage 0 0x10080 32 = .ok ()
    ∧ bytesOf ((found (own 0) 0 0 0x10000 (gib 0)).loadNow 0 0x10000 0 128 true) = some 128
    ∧ bytesOf ((found (own 1) 0 0 0x10080 (gib 0)).loadNow 0 0x10080 0 32 true) = some 32
    ∧ ((List.range 2).all fun k => ((f k).laneStores 0 0 ((f k).unitKey 0 0) 160 ((f k).regionAddr 0 0 0x10000) 0x10000
        fun l => some ((f k).blockStart 0 l (.w 2) 0).1).isEmpty) = true := by
  decide +kernel

/-- AlignmentAndBoundsFaults: one byte off, and an aligned access whose last byte lies past the scratchpad's end. -/
theorem witness_alignment :
    let s (v : Nat) := pr v 0
    (∀ i ∈ [Instr.lds none (.w 4) (.w 2) .b64 T 0, .ldg none (.w 4) (.w 2) .b64 T 0, .sts none (.w 4) (.w 2) .b64 T 0,
      .stg none (.w 4) (.w 2) .b64 T 0, .atoms none W (.w 4) (.w 2) .add T 0, .atomg none W (.w 4) (.w 2) .add T 0],
      Ready i (s 0x1001) ∧ Ready i (s 0x100000))
    ∧ (∀ i ∈ [Instr.ldm none 0 (.w 2) 39 true 0, .stm none 0 (.w 2) 39 true 0], Ready i (s 0x1008) ∧ Ready i (s 0xFFF70))
    ∧ Ready (.ldm none 0 (.w 2) 39 false 0) (s 0x1008) ∧ Ready (.stm none 0 (.w 2) 39 false 0) (s 0x1008)
    ∧ (blockAddr (.w 2) 0 (s 0x1008) 0 0).toNat % 16 ≠ 0 ∧ (blockAddr (.w 2) 0 (s 0xFFF70) 0 0).toNat % 16 = 0
    ∧ 1048576 < (blockAddr (.w 2) 0 (s 0xFFF70) 0 0).toNat + 4 * 40
    ∧ (ea none (.w 2) 0 8 (s 0x1001) 0 0).toNat % 8 ≠ 0 ∧ (ea none (.w 2) 0 8 (s 0x100000) 0 0).toNat % 8 = 0
    ∧ 1048576 < (ea none (.w 2) 0 8 (s 0x100000) 0 0).toNat + 8
    ∧ Ready (.lds (some 4) (.w 4) (.w 2) .b64 T 0) (s 0x1004) ∧ (4 : BitVec 24).toNat % 8 ≠ 0
    ∧ (ea (some 4) (.w 2) 0 8 (s 0x1004) 0 0).toNat % 8 = 0 := by
  decide +kernel

/-- No other lane of the unit still has to apply its access (lanesAlone). -/
def alone (s : State) (n va pa : Nat) (f : Nat → Nat) : Bool := (s.laneStores 0 0 (s.unitKey 0 0) n va pa fun u => some (f u)).isEmpty

/-- GlobalLoads, GlobalStores, StoreFrame and GlobalAtomics: through a held translation, CAUSAL and ATOMIC. -/
theorem witness_global :
    let s := held 0 0x10000
    let a := held 1 0x10000 (paged 1)
    let pa := (gib 0).pa 0x10000
    Ready (.ldg none (.w 4) (.w 2) .b64 T 0) s ∧ Ready (.stg none (.w 4) (.w 2) .b64 T 0) s
    ∧ s.cached 0 (0) 0x10000 = some (gib 0) ∧ regionVa 0 (ea none (.w 2) 0 8 s 0 0) = 0x10000
    ∧ s.checkEntry (gib 0) 0x10000 .load = .ok (gib 0) ∧ s.checkEntry (gib 0) 0x10000 .store = .ok (gib 0)
    ∧ (found s 0 0 0x10000 (gib 0)).seesPoison 0 pa 0 8 = false ∧ s.checkStage 0 pa 8 = .ok () ∧ th0.pend = []
    ∧ s.check = [] ∧ Memory.wf s.mem = true ∧ freeElems s [.w 4] [.w 2, .w 4] = true
    ∧ alone (found s 0 0 0x10000 (gib 0)) 8 0x10000 pa (fun u => (ea none (.w 2) 0 8 s 0 u).toNat) = true
    ∧ (found s 0 0 0x10000 (gib 0)).laneWaits 0 0 4 0x10000 pa (fun u => (ea none (.w 2) 0 4 s 0 u).toNat) = false
    ∧ alone (found a 0 0 0x10000 (gib 1)) 8 0x10000 pa (fun u => (ea none (.w 2) 0 8 a 0 u).toNat) = true
    ∧ (found a 0 0 0x10000 (gib 1)).laneWaits 0 0 8 0x10000 pa (fun u => (ea none (.w 2) 0 8 a 0 u).toNat) = false
    ∧ (found a 0 0 0x10000 (gib 1)).laneWaits 0 0 4 0x10000 pa (fun u => (ea none (.w 2) 0 4 a 0 u).toNat) = false
    ∧ Ready (.stg none (.w 4) (.w 2) .b64 T 0) a ∧ Ready (.atomg none none (.w 4) (.w 2) .min T 0) a
    ∧ a.cached 0 (0) 0x10000 = some (gib 1) ∧ a.checkEntry (gib 1) 0x10000 .store = .ok (gib 1)
    ∧ a.checkEntry (gib 1) 0x10000 .atomic = .ok (gib 1) ∧ a.checkStage 0 pa 8 = .ok () ∧ a.atomicReady (dieOf 0) pa = true
    ∧ a.replayable 0 = false ∧ a.check = [] ∧ a.poisonedAt pa 4 = false ∧ a.rmwReady (dieOf 0) pa 1 = true
    ∧ a.atomicBound (dieOf 0) pa 4 = true
    ∧ Ready (.atomg none none (.w 4) (.w 2) .min T 0) s ∧ s.weirHolds 0 6 = false ∧ s.checkEntry (gib 0) 0x10000 .atomic = .ok (gib 0)
    ∧ Ready (.atomg none W (.w 4) (.w 2) .add T 0) a ∧ Ready (.atomg none none .zr (.w 2) .add T 0) a
    ∧ Ready (.atomg none none (.ax false) (.w 2) .add T 0) (one (arr0 0x200 4 3 (having 2 0x10000 th0)))
    ∧ a.poisonedAt pa 8 = false ∧ a.atomicBound (dieOf 0) pa 8 = true ∧ freeElems s [.w 4] [.w 2, .w 4] = true
    ∧ s.rmwReady (dieOf 0) pa 0 = true ∧ s.delay = false ∧ (s.core 0).late = [] ∧ (a.core 0).late = [] := by
  decide +kernel

/-- GlobalStores: a store that is put off; of two late stores the second is applied first, and a load of its bytes waits for
it. -/
theorem witness_late :
    let s := held 0 0x10000 fun s => { s with delay := true }
    let w (tag pa : Nat) : LateStore := { tag, unit := (0, 0, wd tag), uid := th0.uid, va := pa, pa, attr := 0, bytes := [7, 8] }
    let u := one th0 fun k => { k with late := [w 5 0x20000, w 6 0x20002] }
    Ready (.stg none (.w 4) (.w 2) .b64 T 0) s ∧ s.delay = true ∧ s.replayable 0 = false ∧ (s.core 0).late = []
    ∧ s.cached 0 0 0x10000 = some (gib 0) ∧ s.checkEntry (gib 0) 0x10000 .store = .ok (gib 0)
    ∧ s.checkStage 0 ((gib 0).pa 0x10000) 8 = .ok () ∧ freeElems s [] [.w 2, .w 4] = true
    ∧ alone (found s 0 0 0x10000 (gib 0)) 8 0x10000 ((gib 0).pa 0x10000) (fun v => (ea none (.w 2) 0 8 s 0 v).toNat) = true
    ∧ (u.core 0).late[1]? = some (w 6 0x20002) ∧ (∀ v ∈ (u.core 0).late.take 1, v.meets 0x20002 2 = false)
    ∧ (u.core 0).byUid th0.uid = some (0, th0) ∧ cellGet (u.applyLate 0 1).mem 0x20003 = 8
    ∧ cellGet (u.applyLate 0 1).mem 0x20000 = 0 ∧ ((u.applyLate 0 1).core 0).late = [w 5 0x20000]
    ∧ u.replOwed 0 th0 0x20001 2 = true ∧ u.replOwed 0 { th0 with uid := th0.uid + 1 } 0x20001 2 = false := by
  decide +kernel

/-- UnresolvedAccessesAreDeferred: no translation held. -/
theorem witness_unresolved :
    let s := pr 0x50000000 0
    Ready (.ldg none (.w 4) (.w 2) .b64 T 0) s ∧ Ready (.stg none (.w 4) (.w 2) .b8 T 0) s
    ∧ freeElems s [] [.w 2, .w 4] = true ∧ s.cached 0 0 0x50000000 = none ∧ (ea none (.w 2) 0 8 s 0 0).toNat % 8 = 0 := by
  decide +kernel

/-- A call's target allows it at once. -/
def ruled (r : Except Stop Ruled) : Bool := match r with | .ok (.ok _) => true | _ => false

/-- How a budget word reads: its registers. -/
def budget (r : Except Stop (Budget × State)) : Option (Option Nat) :=
  match r with | .ok (.some n, _) => some (some n) | .ok (.none, _) => some none | _ => none

/-- A budget word of 8 * (k + 1) registers at 0x40000. -/
def budgetAt (k : Nat) (s : State) : State := { s with mem := cellsWrite s.mem 0x40000 (toBytes 4 (0xFC000000 + k)) }

/-- BranchesAndCalls: targets with and without a budget word; a word that fits, one that does not fit the allocation
and one above 256 registers. -/
theorem witness_branches :
    Ready (.br T 0x200000) (one th0) ∧ Ready (.call T 5) (one th0) ∧ Ready (.jmpi .zr (.w 2) T) (pr 0x20000 0)
    ∧ Ready (.jmpi (.w 0) (.w 2) T) (pr 2 0) ∧ ruled ((one th0).budgetRule 0 0 0x20000) = true
    ∧ ruled ((one th0).budgetRule 0 0 (th0.pc + 4 * (5 : BitVec 22).signExtend 32)) = true
    ∧ budget ((one th0).budgetWord 0 0 0x40000) = some none ∧ budget ((one th0).budgetWord 0 0 0x40004) = some none
    ∧ budget ((one th0 id (budgetAt 7)).budgetWord 0 0 0x40004) = some (some 64)
    ∧ budget ((one th0 id (budgetAt 8)).budgetWord 0 0 0x40004) = some (some 72)
    ∧ budget ((one th0 id (budgetAt 31)).budgetWord 0 0 0x40004) = some (some 256)
    ∧ th0.win.wbase + 64 ≤ th0.win.alloc ∧ th0.win.alloc < th0.win.wbase + 72 ∧ 256 < 8 + 256
    ∧ checkCopy ((one th0).core 0) 0 th0 (writeEnts th0.win [.f (.w 0) 1]) = .ok () := by
  decide +kernel

/-- A pending load of a thread: entries, kind and source. -/
def pend (ents : List Nat) (engine : Nat) (src : LoadSrc) : Pend :=
  { id := 4, pc := 0, reg := 0, engine, acqs := 0, ents, ax := none, latch := false, sz := .b32, src, spray := 0 }

/-- A gauge with its owner, counts and marks at 0x1000. -/
def gaugeAt (e a owner : Nat) (marks : BitVec 8) (k : Core) : Core :=
  k.setGauge 0x1000 { expected := wd e, arrived := wd a, phase := 3, owner := BitVec.ofNat 16 owner, marks }

/-- A thread whose AWAIT of a kind, an offset and a target has been met. -/
def metThr (kind : BitVec 2) (o : Nat) (target : Word) (th : Thread) : Thread :=
  { th with mark := some { head := th.head, kind, key := BitVec.ofNat 64 o, arg := target } }

/-- NopFenceWaitcAndIssueHolds: with and without an error mark. -/
theorem witness_nop_fence_waitc :
    allMeet [.nop T false, .fence .acq .t T false, .fence .full .s T false, .fence .rel .x T true, .waitc .cp 127 T false] = true
    ∧ mark .cp th0 = none ∧ Ready (.waitc .mx 0 T false) (one { th0 with errs := [(1, [7, 3, 0x100, 2, 9])] })
    ∧ mark .mx { th0 with errs := [(1, [7, 3, 0x100, 2, 9])] } = some [7, 3, 0x100, 2, 9] := by
  decide +kernel

/-- AwaitUnits: gauges met and unmet, as owner and not, SHORT and OVER; stamps one below and at the target; lines present
and absent, with and without a copy in flight. -/
theorem witness_await :
    let i := Instr.awaitG (.w 2) T false
    let s (e a owner : Nat) (m : BitVec 8) := pr 0x1000 0 (gaugeAt e a owner m)
    let g (e a owner : Nat) (m : BitVec 8) : Gauge := ((s e a owner m).core 0).gauge 0x1000
    let j := Instr.awaitSt (.w 2) T false
    let st (v : Nat) := pr 0x1000 5 fun k => (lineAt 32 (fun a => { a with own := true }) k).spPut 0x1000 (toBytes 8 v)
    let k := Instr.awaitPr (.w 2) T false
    let l (p : Bool) (n : BitVec 4) := pr 0xFFFFF 0 (lineAt 8191 fun a => { a with pres := p, pend := n })
    Ready i (s 4 4 0 0) ∧ (g 4 4 0 0).metFor 0 = true ∧ (g 4 4 0 0).short = false ∧ (g 4 4 0 0).over = false
    ∧ th0.marked 0 0x1000 0 = false ∧ th0.errs = []
    ∧ Ready i (s 4 5 7 0) ∧ (g 4 5 7 0).metFor 0 = true ∧ (g 4 5 7 0).owner.toNat ≠ 0
    ∧ Ready i (s 4 3 0 0) ∧ (g 4 3 0 0).metFor 0 = false ∧ ¬ (g 4 3 0 0).expected.toNat < (g 4 3 0 0).arrived.toNat
    ∧ Ready i (s 4 3 0 2) ∧ (g 4 3 0 2).short = true
    ∧ Ready i (s 4 5 0 1) ∧ (g 4 5 0 1).over = true ∧ (g 4 5 0 1).short = false ∧ (g 4 5 0 1).owner.toNat = 0
    ∧ Ready i (one (metThr 0 0xFFFF0 0 (having 2 0xFFFF0 th0))) ∧ (metThr 0 0xFFFF0 0 th0).marked 0 0xFFFF0 0 = true
    ∧ Ready j (st 5) ∧ stampReached (wd (((st 5).core 0).stamp 0x1000)) 5 = true ∧ (((st 5).core 0).lineAttr 32).own = true
    ∧ Ready j (st 4) ∧ stampReached (wd (((st 4).core 0).stamp 0x1000)) 5 = false ∧ th0.marked 1 0x1000 5 = false
    ∧ Ready j (one (metThr 1 0x1000 5 (having 2 0x1000 (having 3 5 th0)))) ∧ (metThr 1 0x1000 5 th0).marked 1 0x1000 5 = true
    ∧ Ready j (pr 0x1000 5) ∧ (((pr 0x1000 5).core 0).lineAttr 32).own = false
    ∧ Ready k (l true 0) ∧ (((l true 0).core 0).lineAttr (0xFFFFF / 128)).pres = true
    ∧ Ready k (l false 0) ∧ (((l false 0).core 0).lineAttr (0xFFFFF / 128)).pres = false
    ∧ (((l false 0).core 0).lineAttr (0xFFFFF / 128)).pend = 0
    ∧ Ready k (l false 1) ∧ (((l false 1).core 0).lineAttr (0xFFFFF / 128)).pend = 1
    ∧ th0.marked 2 0xFFFFF 0 = false ∧ Ready k (one (metThr 2 0xFFFFF 0 (having 2 0xFFFFF th0)))
    ∧ (metThr 2 0xFFFFF 0 th0).marked 2 0xFFFFF 0 = true := by
  decide +kernel

/-- The tenancy's control register. -/
def withCtl (v : Word) (s : State) : State := s.modTen 0 fun x => { x with ctl := v }

/-- A thread in handler mode, and one with a handler. -/
def thH : Thread := { th0 with handler := true, epc := 0x40 }
def thE : Thread := { th0 with evec := 0x200 }

/-- TrapsAndReturns: with a handler, in one, and with debugging off and on. -/
theorem witness_traps :
    Ready (.trap 127 T) (one thE) ∧ thE.handler = false ∧ thE.evec ≠ 0 ∧ ((one thE).part 0 0).stepping thE.uid = false
    ∧ Ready (.bkpt 0 T) (one th0 id (withCtl 0x40000001)) ∧ bitOf (0x40000001 : Word).toNat 26 = false
    ∧ bitOf ((one th0 id (withCtl 0x40000001)).ten ((one th0).core 0).tenancy).ctl.toNat 26 = false
    ∧ Ready (.bkpt 0 T) (one th0) ∧ bitOf ((one th0).ten ((one th0).core 0).tenancy).ctl.toNat 26 = true
    ∧ soloB (.eret T) handlerOnly (one thH) = true ∧ (one th0).thr? 0 0 = some th0 ∧ th0.handler = false ∧ th0.log = none
    ∧ (one th0).cur.core = 0 ∧ (one th0).cur.members = [0] ∧ (one th0).cur.upset = none := by
  decide +kernel

/-- TakingTraps: a thread with a handler, one without, one in its handler; a core whose node is not replayable. -/
theorem witness_taking_traps :
    (one thE).thr? 0 0 = some thE ∧ thE.log = none ∧ thE.handler = false ∧ thE.evec ≠ 0
    ∧ ((one thE).part 0 (Machine.posPart 0)).stepping thE.uid = false ∧ (one thE).replayable 0 = false
    ∧ (one th0).thr? 0 0 = some th0 ∧ th0.evec = 0 ∧ (one thH).thr? 0 0 = some thH ∧ thH.handler = true ∧ thH.log = none
    ∧ (one th0).replayable 0 = false ∧ (one thH).replayable 0 = false := by
  decide +kernel

/-- SystemRegisters: an ordinary register, the first and the last frame register in handler mode, a wide one, $time; SETS with
sampling allowed. -/
theorem witness_system_registers :
    soloB (.gets (.w 4) 0 T false) (framePriv 0) (one th0) = true ∧ sysRegWide 0 = false
    ∧ soloB (.gets (.w 4) 0x40 T false) (framePriv 0x40) (one thH) = true
    ∧ soloB (.gets (.w 63) 0x47 T false) (framePriv 0x47) (one thH) = true ∧ sysRegWide 0x47 = false
    ∧ soloB (.gets (.w 62) 0x0B T false) (framePriv 0x0B) (one th0) = true
    ∧ (∃ r : BitVec 7, sysRegWide r = true ∧ r ≠ 0x0B ∧ soloB (.gets (.w 62) r T false) (framePriv r) (one thH) = true)
    ∧ ((one th0).core 0).ctx.map (·.index) = some 0 ∧ ((one th0).nodeOf 0).map (fun nd => (nd.gang, decide (nd.shape < 256))) = some (1, true)
    ∧ soloB (.sets 0x40 (.w 1) T false) (setsPre 0x40 (.w 1)) (one thH) = true
    ∧ soloB (.sets 0x47 (.w 1) T false) (setsPre 0x47 (.w 1)) (one thH) = true
    ∧ soloB (.sets 0x18 (.w 2) T false) (setsPre 0x18 (.w 2)) (pr 0x80A00000 0 id (withCtl 0x42000001)) = true := by
  decide +kernel

/-- PrivilegeFaults: the first frame register outside handler mode; no permission to sample, and a reserved bit. -/
theorem witness_privilege :
    let s := one th0
    let p := pr 0x01000001 0 id (withCtl 0x42000001)
    s.thr? 0 0 = some th0 ∧ th0.handler = false ∧ guardHolds th0.win.preds T = true ∧ th0.log = none ∧ s.cur.core = 0
    ∧ s.cur.members = [0] ∧ s.cur.upset = none ∧ checkWindow th0.win [.f (.w 2) 1] [] = .ok ()
    ∧ checkBounds th0 [.f (.w 2) 1] [] = .ok () ∧ checkWindow th0.win [] [.f (.w 63) 1] = .ok () ∧ sysRegWide 0x40 = false
    ∧ checkBounds th0 [] [.f (.w 63) 1] = .ok () ∧ ((0x41 : BitVec 7) ≠ 0x18 ∧ (0x41 : BitVec 7) ≠ 0x40 ∧ (0x41 : BitVec 7) ≠ 0x47)
    ∧ thH.handler = true ∧ bitOf ((one th0 id (withCtl 0x40000001)).ten 0).ctl.toNat 25 = false
    ∧ bitOf (p.ten (p.core 0).tenancy).ctl.toNat 25 = true ∧ bits (p.src 0 0 (.w 2)).toNat 30 24 ≠ 0
    ∧ bits (p.src 0 0 (.w 2)).toNat 19 0 ≠ 0 := by
  decide +kernel

/-- A lane whose other allocations leave n entries free. -/
def lane0 (n : Nat) (k : Core) : Core :=
  { k with ghosts := [{ part := 0, lane := 0, uid := 9, n := k.freeEnts 0 0 - n, win := Window.launch 0 .zero, oc := [1], owing := [] }] }

/-- WindowUnits: the last legal move and the first that is not; a growth inside the allocation, one the lane can make and
one it cannot, and illegal sizes on each side. -/
theorem witness_window :
    let i := Instr.wgrow (.w 63) (.w 2) T false
    let j := Instr.wgrow (.w 64) (.w 2) T false
    let ok (s : State) (th : Thread) : Prop := checkWindow th.win [] [.f (.w 63) 1] = .ok () ∧ checkBounds th [] [.f (.w 63) 1] = .ok ()
      ∧ checkCopy (s.core 0) 0 th (writeEnts th.win [.f (.w 63) 1]) = .ok () ∧ checkElems (s.core 0) th [] [.f (.w 63) 1] = .ok ()
    Ready (.win 7 T false) (one th0) ∧ 56 + 8 ≤ th0.win.alloc ∧ Ready (.win 8 T false) (one th0) ∧ ¬ 64 + 8 ≤ th0.win.alloc
    ∧ Ready (.winReg (.w 2) T false) (pr 56 0) ∧ Ready (.winReg (.w 2) T false) (pr 57 0) ∧ 57 % 8 ≠ 0
    ∧ Ready i (pr 0 0) ∧ Ready i (pr 264 0) ∧ Ready i (pr 12 0)
    ∧ Ready i (pr 64 0) ∧ ok (pr 64 0) (having 2 64 (having 3 0 th0))
    ∧ Ready i (pr 256 0 (lane0 191)) ∧ (pr 256 0 (lane0 191)).canGrow 0 0 192 (having 2 256 (having 3 0 th0)) = false
    ∧ ok (pr 256 0 (lane0 191)) (having 2 256 (having 3 0 th0))
    ∧ Ready i (pr 256 0 (lane0 192)) ∧ (pr 256 0 (lane0 192)).canGrow 0 0 192 (having 2 256 (having 3 0 th0)) = true
    ∧ (∃ th', ((pr 256 0 (lane0 300)).growTo 0 0 256).thr? 0 0 = some th' ∧ ok ((pr 256 0 (lane0 300)).growTo 0 0 256) th')
    ∧ Ready j (pr 64 0) ∧ checkWindow th0.win [] [.f (.w 64) 1] = .error (.trap 1 1 [64, 64] false) := by
  refine ⟨?_, ?_, ?_, ?_, ?_, ?_, ?_, ?_, ?_, ?_, ?_, ?_, ?_, ?_, ?_, ?_, ?_, ⟨_, rfl, ?_⟩, ?_, ?_⟩ <;> decide +kernel

/-- TagCounterTimeUnits: counters with TNCTL.CNT on, off, and the first unlisted event. -/
theorem witness_tag_counter_time :
    allMeet [.tagrd (.w 63) 0 T false, .time (.w 62) T false, .cntrd (.w 62) 44 T false, .cntrd (.w 62) 45 T false] = true
    ∧ bitOf ((one th0).ten ((one th0).core 0).tenancy).ctl.toNat 24 = true
    ∧ Ready (.cntrd (.w 62) 0 T false) (one th0 id (withCtl 0x40000001))
    ∧ bitOf ((one th0 id (withCtl 0x40000001)).ten ((one th0).core 0).tenancy).ctl.toNat 24 = false := by
  decide +kernel

/-- An object at 0x10000: kind, flags, announced and applied tickets, value; its ring entries for a record at 0x10800. -/
def objAt (kind flags ann app v : Nat) (s : State) : State :=
  let m := cellsWrite s.mem 0x10000 [BitVec.ofNat 8 kind, BitVec.ofNat 8 flags]
  let m := cellsWrite m 0x10008 (toBytes 8 ann ++ toBytes 8 app)
  let m := cellsWrite m (0x10040 + 8 * ((app + 1) % 16)) (toBytes 8 0x10800)
  { s with mem := cellsWrite m 0x100C0 (toBytes 8 v) }

/-- A record at 0x10800: state, op, object, operand. -/
def recAt (st op obj x : Nat) (s : State) : State :=
  let m := cellsWrite s.mem 0x10800 [BitVec.ofNat 8 st, BitVec.ofNat 8 op]
  { s with mem := cellsWrite m 0x10808 (toBytes 8 obj ++ toBytes 8 x) }

/-- The first GiB is mapped ATOMIC. -/
def atomicMap (s : State) : State := paged 1 { s with mem := cellsWrite s.mem 0x400000 (toBytes 8 0x1F) }

/-- A machine whose thread has ea in w2, and an object and a record in ATOMIC pages. -/
def hob (ea : Nat) (f : State → State) (th : Thread := th0) : State := one (having 2 ea th) id fun s => f (atomicMap s)

/-- The conditions of NearFor. -/
def nearFor (acc : Acc) (q s : State) (e : TlbEntry) (va n : Nat) : Bool :=
  decide ((q.translate 0 0 va acc).1 = .ok e) && homeDie (e.pa va) == dieOf 0 && e.attr == 1 && s.check.isEmpty
  && !s.poisonedAt (e.pa va) n

/-- The conditions of Near. -/
def nearB (s : State) (va n : Nat) : Bool := nearFor .helped s s (gib 1) va n

/-- The page of the object and the record, as a lane's register holds it. -/
def page1 : TlbEntry := (gib 1).page64 0x10000

/-- The conditions of Near for the object at 0x10000, once the core knows the record at 0x10800. -/
def thenB (s : State) : Bool := nearFor .helped (seen s 0 0 0x10800) s page1 0x10000 256

def freeB (s : State) : Bool := !s.replayable 0 && !s.weirHolds (s.core 0).tenancy 6 && s.storesWf

/-- The node is replayable. -/
def replaying (s : State) : State := s.modNode 0 fun nd => { nd with flags := 1 }

/-- HobObjects: a thread whose acquire waits for a load that has been performed. -/
theorem witness_settle :
    let u : Thread := { th0 with acqWait := [9], pend := [pend [] 0 (.bound 5)] }
    (one u).thr? 0 0 = some u ∧ u.acqWait ≠ [] ∧ (∀ p ∈ u.pend, p.settled = false → p.id ∉ u.acqWait) := by
  decide +kernel

/-- HobObjects: a fresh object; HobFaults: one that is poisoned, one with pending tickets, and parameters R159 refuses. -/
theorem witness_hob_objects :
    let s := hob 0x10000 (objAt 0 0 3 3 0)
    let ob (s : State) := cellsRead s.mem 0x10000 256
    freeB s = true ∧ nearB s 0x10000 256 = true ∧ freeElems s [] [.w 2, .w 4] = true ∧ hobEa (.w 2) s 0 0 % 256 = 0 ∧ hobVa (.w 2) s 0 0 th0 = 0x10000
    ∧ Ready (.hinit (.w 4) (.w 2) T false) s ∧ obAnnounced (ob s) = obApplied (ob s) ∧ obFlags (ob s) % 2 = 0
    ∧ (∃ p < 6, initOk 0x10000 p (ob s) = true) ∧ Ready (.hpeek (.w 4) (.w 2) T false) s ∧ Ready (.hpois (.w 4) (.w 2) T false) s
    ∧ soloB (.hclr (.w 2) T false) handlerOnly (hob 0x10000 (objAt 1 1 3 3 0) thH) = true
    ∧ nearB (hob 0x10000 (objAt 1 1 3 3 0) thH) 0x10000 256 = true ∧ freeB (hob 0x10000 (objAt 1 1 3 3 0) thH) = true
    ∧ obFlags (ob (hob 0x10000 (objAt 1 1 3 3 0))) % 2 = 1
    ∧ obAnnounced (ob (hob 0x10000 (objAt 1 0 4 3 0))) ≠ obApplied (ob (hob 0x10000 (objAt 1 0 4 3 0)))
    ∧ nearB (hob 0x10000 (objAt 1 0 4 3 0)) 0x10000 256 = true ∧ initOk 0x10000 7 (ob s) = false := by
  decide +kernel

/-- The object at 0x10000 has n element slots. -/
def capAt (n : Nat) (s : State) : State := { s with mem := cellsWrite s.mem 0x10002 (toBytes 2 n) }

/-- The record of an agent of the device: a fetch-and-add of 5 that holds ticket 4 of the object at 0x10000. -/
def ownAt (res : Option (Nat × Nat × Nat)) : OwnRec := { key := .gone, pa := 0x10000, ticket := 4, op := 1, operand := 5, res }

/-- HobAnnouncesAndApplies: a ring with room and a full one; no pending ticket, one of kinds 1 and 5, one of kind 3 whose
effect writes an element, and one of an agent of the device. -/
theorem witness_hob_announce :
    let ok (s : State) : Bool := freeB s && nearB s 0x10800 32 && thenB s
    let ok' (s : State) : Bool := freeB s && nearB s 0x10000 256 && nearFor .helped (seen s 0 0 0x10000) s page1 0x10800 32
    let i := Instr.hann (.w 4) (.w 2) T false
    let j := Instr.happ (.w 4) (.w 2) T false
    let a (ann kind : Nat) := hob 0x10800 (objAt kind 0 ann 3 9 ∘ recAt 0 1 0x10000 5)
    let b (ann kind : Nat) := hob 0x10000 (objAt kind 0 ann 3 9 ∘ recAt 1 1 0x10000 5)
    let q := hob 0x10000 (capAt 2 ∘ objAt 3 0 4 3 0 ∘ recAt 1 1 0x10000 5)
    let o (res : Option (Nat × Nat × Nat)) := hob 0x10000 fun s => { objAt 1 0 4 3 9 s with own := [ownAt res] }
    let ob (s : State) := cellsRead s.mem 0x10000 256
    let r (s : State) := cellsRead s.mem 0x10800 32
    Ready i (a 3 1) ∧ ok (a 3 1) = true ∧ fieldAt (r (a 3 1)) 0 1 ≠ 1 ∧ fieldAt (r (a 3 1)) 8 8 = 0x10000
    ∧ obKind (ob (a 3 1)) = 1 ∧ opListed 1 (fieldAt (r (a 3 1)) 1 1) = true ∧ obPending (ob (a 3 1)) ≠ 16
    ∧ Ready i (a 19 5) ∧ ok (a 19 5) = true ∧ obKind (ob (a 19 5)) = 5 ∧ opListed 5 1 = true ∧ obPending (ob (a 19 5)) = 16
    ∧ freeElems (a 3 1) [.w 4] [.w 2] = true ∧ obFlags (ob (a 3 1)) % 2 = 0 ∧ obFlags (ob (a 19 5)) % 2 = 0
    ∧ 0x10800 + 32 ≤ 2 ^ 57 ∧ 0x10000 + 256 ≤ 0x10800
    ∧ Ready j (b 3 1) ∧ ok' (b 3 1) = true ∧ obPending (ob (b 3 1)) = 0
    ∧ Ready j (b 4 1) ∧ ok' (b 4 1) = true ∧ obPending (ob (b 4 1)) ≠ 0 ∧ (b 4 1).own = []
    ∧ Ready j q ∧ ok' q = true ∧ obPending (ob q) ≠ 0 ∧ (opEffect (ob q) 1 5 0).put.map (·.1) = some 0 ∧ nearFor .helped (seen (seen q 0 0 0x10000) 0 0 0x10800) q page1 0x10100 8 = true
    ∧ (∀ x ∈ (o (some (0, 9, 9))).own, x.pa = 0x10000 → x.ticket = 4 → x.res.isSome = true)
    ∧ Ready j (o none) ∧ freeB (o none) = true ∧ nearB (o none) 0x10000 256 = true ∧ obPending (ob (o none)) ≠ 0
    ∧ (o none).own.find? (fun x => x.pa == 0x10000 && x.ticket == 4 && x.res.isNone) = some (ownAt none)
    ∧ fieldAt (ob (b 4 1)) (64 + 8 * (ticketAfterSpec (obApplied (ob (b 4 1))) % 16)) 8 % 2 ^ 57 = 0x10800
    ∧ wordOp 1 (fieldAt (r (b 4 1)) 1 1) 9 5 = some (0, 9, 14) ∧ wordOp 5 1 9 5 = some (0, 9, 4) ∧ wordOp 5 1 4 5 = some (2, 4, 4)
    ∧ wordOp 1 7 9 5 = some (6, 0, 9) ∧ wordOp 3 1 9 5 = none := by
  decide +kernel

/-- The record at 0x10800 holds a ticket. -/
def tickAt (n : Nat) (s : State) : State := { s with mem := cellsWrite s.mem 0x10804 (toBytes 4 n) }

/-- One pass of HRUN or of a push for a ticket of the object at 0x10000, which leaves the thread as it is: whether it found
the ticket applied. -/
def passed? (s : State) (tick : Nat) : Option Bool :=
  match s.runPass (s.agent 0 0) 0x10000 tick with
  | .ok (d, _, u) => if u.thr? 0 0 = s.thr? 0 0 ∧ u.cur = s.cur then some d else none
  | .error _ => none

/-- HobRunsAndResults: a record applied and one whose ticket is; a pass that applies it, one that leaves it pending and one
that finds it applied. -/
theorem witness_hob_run :
    let i := Instr.hrun (.w 4) (.w 2) T false
    let j := Instr.hres (.w 4) (.w 2) T false
    let s (st : Nat) := hob 0x10800 (objAt 1 0 4 3 9 ∘ recAt st 1 0x10000 5)
    let d (tick : Nat) := hob 0x10800 (tickAt tick ∘ objAt 1 0 4 3 9 ∘ recAt 1 1 0x10000 5)
    let t (tick : Nat) : Thread := { having 2 0x10800 th0 with prog := some { phase := 0, count := 2, obj := 0x10000, tick, ea := 0x10800 } }
    let m (ann : Nat) := hob 0x10800 (tickAt 4 ∘ objAt 1 0 ann 3 9 ∘ recAt 1 1 0x10000 5)
      { th0 with prog := some { phase := 0, count := 2, obj := 0x10000, tick := ann, ea := 0x10800 } }
    hobEa (.w 2) (s 2) 0 0 % 32 = 0 ∧ freeB (s 2) = true ∧ Ready i (s 2) ∧ nearB (s 2) 0x10800 32 = true
    ∧ fieldAt (cellsRead (s 2).mem 0x10800 32) 0 1 = 2
    ∧ freeElems (s 2) [.w 4] [.w 2] = true ∧ th0.prog = none
    ∧ Ready i (d 3) ∧ freeB (d 3) = true ∧ nearB (d 3) 0x10800 32 = true ∧ thenB (d 3) = true
    ∧ fieldAt (cellsRead (d 3).mem 0x10800 32) 0 1 = 1 ∧ fieldAt (cellsRead (d 3).mem 0x10800 32) 8 8 = 0x10000
    ∧ ticketAfter (obApplied (cellsRead (d 3).mem 0x10000 256)) (fieldAt (cellsRead (d 3).mem 0x10800 32) 4 4) = false
    ∧ Ready i (m 4) ∧ passed? (m 4) 4 = some true ∧ Ready i (m 5) ∧ passed? (m 5) 5 = some false ∧ passed? (m 4) 3 = some true
    ∧ (m 4).thr? 0 0 = some (t 4) ∧ (t 4).prog.isSome = true ∧ (t 4).prog = some { phase := 0, count := 2, obj := 0x10000, tick := 4, ea := 0x10800 }
    ∧ Ready j (s 2) ∧ Ready j (s 1) ∧ fieldAt (cellsRead (s 1).mem 0x10800 32) 0 1 ≠ 2
    ∧ nearFor .load (s 1) (s 1) (gib 1) 0x10800 32 = true ∧ nearFor .load (s 2) (s 2) (gib 1) 0x10800 32 = true
    ∧ ((s 1).core 0).late = [] ∧ (having 2 0x10800 th0).pend = [] := by
  decide +kernel

/-- HobFaults: one byte off; a replayable node; each refusal of HANN. -/
theorem witness_hob_faults :
    let askew (ea : Nat) := hob ea (objAt 1 0 3 3 0)
    let rep (ea : Nat) (th : Thread) := hob ea (fun s => replaying (objAt 1 0 3 3 0 (recAt 0 1 0x10000 0 s))) th
    let n (kind op : Nat) := hob 0x10800 fun s => replaying (objAt kind 0 3 3 9 (recAt 0 op 0x10000 5 s))
    let a (k f st op obj : Nat) := hob 0x10800 (objAt k f 3 3 9 ∘ recAt st op obj 5)
    let ok (s : State) : Bool := freeB s && nearB s 0x10800 32 && thenB s
    let i := Instr.hann (.w 4) (.w 2) T false
    let is := [Instr.hinit (.w 4) (.w 2) T false, .happ (.w 4) (.w 2) T false, .hpeek (.w 4) (.w 2) T false,
      .hpois (.w 4) (.w 2) T false]
    let js := [Instr.hrun (.w 4) (.w 2) T false, .hres (.w 4) (.w 2) T false]
    (∀ x ∈ is, Ready x (askew 0x10080) ∧ Ready x (rep 0x10000 th0)) ∧ (∀ x ∈ i :: js, Ready x (askew 0x10810))
    ∧ (∀ x ∈ js, Ready x (rep 0x10800 th0)) ∧ soloB (.hclr (.w 2) T false) handlerOnly (rep 0x10000 thH) = true
    ∧ freeElems (rep 0x10000 th0) [.w 4] [] = true ∧ freeElems (a 1 0 1 1 0x10000) [.w 4] [] = true
    ∧ (rep 0x10000 th0).replayable 0 = true ∧ ((rep 0x10000 th0).translate 0 0 0x10000 .helped).1 = .ok (gib 1)
    ∧ ((rep 0x10800 th0).translate 0 0 0x10800 .load).1 = .ok (gib 1) ∧ th0.prog = none
    ∧ Ready i (n 1 1) ∧ (n 1 1).replayable 0 = true ∧ ((n 1 1).nodeOf 0).isSome = true ∧ freeElems (n 1 1) [.w 4] [.w 2] = true
    ∧ ((n 1 1).translate 0 0 0x10800 .helped).1 = .ok (gib 1) ∧ (n 1 1).check = [] ∧ (n 1 1).poison = []
    ∧ (n 1 1).overlay 0 0x10800 (cellsRead (n 1 1).mem 0x10800 32) = cellsRead (n 1 1).mem 0x10800 32
    ∧ fieldAt (cellsRead (n 1 1).mem 0x10800 32) 8 8 % 2 ^ 57 = 0x10000
    ∧ (n 1 1).walkFor ((n 1 1).core 0).tenancy 0x10000 .load = .ok (gib 1)
    ∧ (n 1 1).overlay 0 0x10000 (cellsRead (n 1 1).mem 0x10000 1) = [1#8] ∧ (n 5 2).overlay 0 0x10000 (cellsRead (n 5 2).mem 0x10000 1) = [5#8]
    ∧ fieldAt (cellsRead (n 5 2).mem 0x10800 32) 1 1 = 2 ∧ fieldAt (cellsRead (n 1 2).mem 0x10800 32) 1 1 = 2
    ∧ Ready i (a 1 0 1 1 0x10000) ∧ ok (a 1 0 1 1 0x10000) = true ∧ fieldAt (cellsRead (a 1 0 1 1 0).mem 0x10800 32) 0 1 = 1
    ∧ Ready i (a 1 0 0 1 0x10001) ∧ Ready i (a 1 0 0 1 (2 ^ 57)) ∧ ok (a 1 0 0 1 (2 ^ 57)) = true
    ∧ Ready i (a 6 0 0 1 0x10000) ∧ obKind (cellsRead (a 6 0 0 1 0x10000).mem 0x10000 256) = 6
    ∧ Ready i (a 0 0 0 1 0x10000) ∧ obKind (cellsRead (a 0 0 0 1 0x10000).mem 0x10000 256) = 0
    ∧ Ready i (a 5 0 0 0xFF 0x10000) ∧ opListed 5 0xFF = false ∧ Ready i (a 1 1 0 1 0x10000) ∧ opListed 1 1 = true
    ∧ ok (a 1 1 0 1 0x10000) = true ∧ obFlags (cellsRead (a 1 1 0 1 0x10000).mem 0x10000 256) % 2 = 1 := by
  decide +kernel

/-- NopFenceWaitcAndIssueHolds: a thread held by each condition, and one that nothing holds. -/
theorem witness_issue_holds :
    let i := Instr.iadd none (.w 1) (.w 2) (.w 3) T false
    let l := Instr.ldg none (.w 4) (.w 2) .b32 T 0
    let f := Instr.fence .full .x T false
    let p := pend [4] 0 (.global 0x10000 0x10000 0)
    let u : Thread := { th0 with pend := [p] }
    let b := held 0 0x10000 fun s => s.modTen 0 fun x => { x with budgets := [(0, 0), (6, 0)] }
    let b' := hob 0x10000 fun s => (objAt 1 0 3 3 0 s).modTen 0 fun x => { x with budgets := [(6, 0)] }
    (one th0).thr? 0 0 = some th0 ∧ th0.yround = none ∧ th0.log = none ∧ guardHolds th0.win.preds T = true
    ∧ ({ th0 with ocCp := 5 } : Thread).oc .cp = 5 ∧ (4 : BitVec 7).toNat < 5 ∧ th0.oc .cp ≤ (0 : BitVec 7).toNat
    ∧ p.engine ≠ 1 ∧ 4 ∈ readEnts th0.win (Instr.mov none (.w 1) (.w 4) T false).srcs
    ∧ 4 ∈ writeEnts th0.win (Instr.mov none (.w 4) (.w 1) T false).dsts ∧ u.yround = none ∧ guardHolds u.win.preds T = true
    ∧ (Instr.cpy none (.w 2)).cls = some .cp ∧ 255 ≤ ({ th0 with ocCp := 255 } : Thread).oc .cp
    ∧ l.isGlobal = true ∧ b.weirHolds (b.core 0).tenancy 0 = true ∧ b.stopsAnyway 0 0 (having 2 0x10000 (having 3 0 th0)) l = false
    ∧ b.thr? 0 0 = some (having 2 0x10000 (having 3 0 th0))
    ∧ (Instr.hpeek (.w 4) (.w 2) T false).isStep = true ∧ b'.weirHolds (b'.core 0).tenancy 6 = true
    ∧ b'.stopsAnyway 0 0 (having 2 0x10000 th0) (.hpeek (.w 4) (.w 2) T false) = false
    ∧ (p.engine = 0 ∧ p.isBound = false) ∧ isStoreUnit (.stg none (.w 2) (.w 4) .b32 T 0) = true
    ∧ p.id ∈ ({ u with relWait := { loads := [4], late := [], repl := [], home := [] } } : Thread).relWait.loads
    ∧ l.accesses = true ∧ ({ th0 with acqWait := [3] } : Thread).acqWait ≠ []
    ∧ ((List.replicate 31 p).filter fun p => !p.latch).length = 31
    ∧ th0.pend = [] ∧ th0.lats = [] ∧ th0.acqWait = [] ∧ ((one th0).core 0).late = [] ∧ (one th0).tileRecs = [] ∧ (one th0).fwds = []
    ∧ (one th0).weirHolds ((one th0).core 0).tenancy 0 = false ∧ (one th0).canIssue 0 0 th0 f = true
    ∧ (one u).canIssue 0 0 u f = false := by
  decide +kernel

/-- Whether the next unit of the thread f gives is a MERGE at which it stops, and whether it can issue. -/
def rowOf (s : State) (f : Thread → Thread) : Option (Bool × Bool) :=
  match s.thr? 0 0 with
  | none => none
  | some th =>
    match s.fetchUnit 0 (f th) with
    | (.unit (.ok i _) _, u) => some ((f th).mergesAt i, u.canIssue 0 0 (f th) i)
    | _ => none

/-- NopFenceWaitcAndIssueHolds: a thread's row follows its next unit, iadd w16, w8, w9. -/
theorem witness_rows :
    rowOf (State.reset.withFetchWord 32 0x0480812E) (fun th => { th with st := .held }) = some (false, true)
    ∧ rowOf (State.reset.withFetchWord 32 0x0480812E) (fun th => { th with pend := [pend [8] 0 (.global 0 0 0)] })
      = some (false, false) := by
  decide +kernel

/-- The conditions of Joint for the threads ps of core 0. -/
def jointB (i : Instr) (pre : State → Nat → Nat → Except Stop Unit) (s : State) (ps : List Nat) : Bool :=
  s.cur.core == 0 && s.cur.members == ps && !ps.isEmpty && s.cur.upset.isNone
  && bits (s.ten (s.core 0).tenancy).rr.toNat 63 62 == 0
  && ps.all fun t => match s.thr? 0 t with
    | none => false
    | some th => guardHolds th.win.preds i.guard && th.log.isNone
        && (match checkUnit i pre s 0 t th with | .ok _ => true | .error _ => false)

/-- A spray of two threads, in lanes 0 and 1. -/
def duo (a b : Thread) (f : Core → Core := id) (g : State → State := id) : State :=
  let s := one a
  g { s with
    cores := [(0, f { s.core 0 with threads := [(0, a), (1, { b with uid := 1 })], nextUid := 2 })]
    cur := { s.cur with members := [0, 1] } }

/-- A header of 32 x 32 elements of a format, with its pitch, scale format, block size and scale offset. -/
def tile (efmt pitch : Nat) (sfmt : Nat := 0) (sblk : Nat := 0) (soff : Nat := 0) : Hdr :=
  { ver := 1, efmt, sfmt, sblk, sparse := 0, order := 0, swz := 0, fill := 0, rows := 32, cols := 32, pitch, soff
    moff := 0, res := 0, crc := 0 }

/-- A slot of a header and a binding. -/
def slotFor (h : Hdr) (bind : Nat) (dirty : Bool := false) : Slot := { hdr := h.image, bind := BitVec.ofNat 64 bind, dirty }

/-- Slots of an A tile, a cistern tile, a register-resident A tile, an I32 tile in the scratchpad and in registers, and a
quantised tile. -/
def slots (k : Core) : Core :=
  { k with slots := [(0, slotFor (tile 5 32) 0x4001), (1, slotFor (tile 14 128) 3), (2, slotFor (tile 5 32) 2),
      (3, slotFor (tile 14 128) 0x8001 true), (4, slotFor (tile 14 128) 2), (5, slotFor (tile 4 16 3 2 0x1000) 0x10001)] }

/-- An image of the tile at an offset in the scratchpad, as HLD reads it. -/
def imageIn (o : Nat) (h : Hdr) (crc : Nat) (k : Core) : Core := k.spPut o (toBytes 32 (h.low + (h.sum + crc) % 2 ^ 16 * 2 ^ 240))

/-- A thread whose registers 8..15 hold a header's image, w2 and w3 the pair lo, hi. -/
def imageThr (h : Hdr) (lo hi : Nat) : Thread :=
  (List.range 8).foldl (fun th j => having (8 + j) (h.low / 2 ^ (32 * j)) th) (having 2 lo (having 3 hi th0))

/-- HeaderUnits: an image with the right crc whose data lies at the last place of the scratchpad, one in global memory, a slot filled
from registers, a DIRTY and a CLEAN slot, EMPTY ones, a wrong crc and a version that R70 refuses. -/
theorem witness_headers :
    let s := duo (having 2 0xFFFC0 th0) th0 (imageIn 0xFFFC0 (tile 5 32) 0)
    let m := duo (having 2 0x20000 th0) th0 (withTlb 0) fun s =>
      { s with mem := cellsWrite s.mem 0x20000 ((imageIn 0xFFFC0 (tile 5 32) 0 (one th0 |>.core 0)).spRead 0xFFFC0 32) }
    let r := duo (imageThr (tile 5 32) 0x4001 0) th0
    let e := duo th0 th0 slots
    let bad := pr 0xFFFC0 0 (imageIn 0xFFFC0 (tile 5 32) 1)
    let old := pr 0xFFFC0 0 (imageIn 0xFFFC0 { tile 5 32 with ver := 2 } 0)
    let bs (s : State) := (s.core 0).spRead 0xFFFC0 32
    jointB (.hld none (.w 2) 31 true) noPre s [0, 1] = true ∧ checkPresent (s.core 0) 0xFFFC0 32 = .ok ()
    ∧ (Hdr.of (imageOf (bs s))).crc = crc16 ((bs s).take 30)
    ∧ (Hdr.of (imageOf (bs s))).anyFault (slotOf true 0xFFFC0 (bs s)).bind = none
    ∧ jointB (.hld none (.w 2) 0 false) noPre m [0, 1] = true
    ∧ (match m.xlate 0 0 0x20000 .load with
      | .ok (x, u) => decide (x = gib 0) && !u.partsOwed 0 [0, 1] 0x20000 32 && (match u.loadNow 0 0x20000 0 32 true with
        | .bytes y false _ => decide ((Hdr.of (imageOf y)).crc = crc16 (y.take 30)
            ∧ (Hdr.of (imageOf y)).anyFault (slotOf false 0x20000 y).bind = none)
        | _ => false)
      | _ => false) = true
    ∧ (∀ e ∈ (m.core 0).threads, e.2.pend = [])
    ∧ jointB (.hset none 8 (.w 2) 31) noPre r [0, 1] = true
    ∧ (Hdr.of (imageOf (eightRegs r 0 0 8))).anyFault (r.src64 0 0 (.w 2)) = none
    ∧ soloB (.hget none 8 (.w 2) 3) (slotPre 3) (one th0 slots) = true
    ∧ jointB (.hst none 3) (hstPre 3) e [0, 1] = true ∧ jointB (.hev none 3) noPre e [0, 1] = true
    ∧ jointB (.hev none 1) noPre e [0, 1] = true ∧ jointB (.hev none 9) noPre e [0, 1] = true
    ∧ (e.core 0).slot 9 = none ∧ (e.core 0).slot 3 = some (slotFor (tile 14 128) 0x8001 true)
    ∧ (slotFor (tile 14 128) 0x8001).kind = 1 ∧ imageAt (slotFor (tile 14 128) 0x8001) = 0x7FE0
    ∧ checkPresent (e.core 0) 0x7FE0 32 = .ok () ∧ (slotFor (tile 14 128) 3).kind = 3
    ∧ checkWindow th0.win (Instr.hst none 9).srcs (Instr.hst none 9).dsts = .ok ()
    ∧ checkWindow th0.win (Instr.hget none 8 (.w 2) 9).srcs (Instr.hget none 8 (.w 2) 9).dsts = .ok ()
    ∧ Ready (.hld none (.w 2) 31 true) bad ∧ (Hdr.of (imageOf (bs bad))).crc ≠ crc16 ((bs bad).take 30)
    ∧ Ready (.hld none (.w 2) 31 true) old ∧ (Hdr.of (imageOf (bs old))).crc = crc16 ((bs old).take 30)
    ∧ (Hdr.of (imageOf (bs old))).anyFault (slotOf true 0xFFFC0 (bs old)).bind = some (0, 2) := by
  decide +kernel

/-- BracketsAndMatrixStatus: no bracket, one without operations, and one with an operation outstanding. -/
theorem witness_brackets :
    let b (ops : List Nat) : Bracket := {
      addr := 0x40, tag := 7, topen := 5, pc := 0, tid := 0, ops, mx := false, cins := [], couts := [], bin := 0, bout := 0
      nmma := 0, units := 0, cinAt := none, cinEnd := 0, mmaAt := none, mmaEnd := 0, coutAt := none, last := 0, uid := 0 }
    let t (ops : List Nat) : Thread := { th0 with bracket := some (b ops) }
    allMeet [.mxstat none (.w 62), .tclose none] = true ∧ th0.bracket = none ∧ Ready (.topen none (.w 2) (.w 3)) (pr 64 7)
    ∧ Ready (.topen none .zr (.w 3)) (one (t [])) ∧ Ready (.tclose none) (one (t [])) ∧ Ready (.tclose none) (one (t [9]))
    ∧ (b []).ops = [] ∧ (b [9]).ops ≠ [] := by
  decide +kernel

/-- MatrixUnitsIssue: every unit with slots that it accepts. -/
theorem witness_matrix :
    let ok (i : Instr) (u : MxUse) : Bool := jointB i (mxPre u i) (duo th0 th0 slots) [0, 1]
    let f (x : BitVec 7) (y h : BitVec 5) (n : Nat) : Bool :=
      match (matrixUnits none none x y h)[n]? with | some (i, u) => ok i u | none => false
    f 0 0 0 0 = true ∧ f 0 0 0 1 = true ∧ f 0 1 0 2 = true ∧ f 32 1 2 3 = true ∧ f 0 1 0 4 = true ∧ f 32 1 2 5 = true
    ∧ f 0 0 1 6 = true ∧ f 0 3 1 7 = true ∧ f 32 4 1 8 = true ∧ f 0 1 3 9 = true ∧ f 32 1 4 10 = true ∧ f 0 5 1 11 = true
    ∧ [0, 1].Nodup := by
  decide +kernel

/-- A copy request at an offset. -/
def reqAt (src dst len ctl aux0 aux1 : Nat) (k : Core) : Core :=
  k.spPut 0x2000 (toBytes 8 src ++ toBytes 8 dst ++ toBytes 4 len ++ toBytes 4 ctl ++ toBytes 4 aux0 ++ toBytes 4 aux1)

/-- A request as it is read. -/
def req (s : State) : Req := Req.of ((s.core 0).spRead 0x2000 32)

/-- A copy of 16 bytes from memory to the scratchpad, with so many lines left. -/
def copy (lines : List Nat) : Copy :=
  { id := 6, uid := 0, gather := false, pc := 0, inst := 0, q := 0x2000, srcSp := false, dstSp := true, src := 0x20000, dst := 0, len := 16
    pitch := 0, srcSlot := none, dstSlot := none, dstNum := 0, rows := [], stamp := none, gauge := none, lines, stored := []
    moved := 0, err := none, held := none }

/-- Each cause of the copy-request fault can be decided. -/
def wrongDec (k : Core) (r : Req) (rows : Option Nat) : (j : Nat) → Decidable (wrong k r rows j)
  | 0 => isFalse id
  | 1 => by change Decidable (_ ∨ _); infer_instance
  | 2 => by change Decidable (_ ∨ _); infer_instance
  | 3 => by change Decidable (_ ∨ _); dsimp only [pastEnd]; infer_instance
  | 4 => by change Decidable (_ ∨ _); infer_instance
  | 5 => by change Decidable (_ ∧ _); infer_instance
  | 6 => by change Decidable (∃ n ∈ rows, _); infer_instance
  | _ + 7 => isFalse id

/-- The causes of the copy-request fault that hold of a request. -/
def causes (k : Core) (r : Req) (rows : Option Nat) : List Nat :=
  (List.range 7).filter fun j => (wrongDec k r rows j).decide

/-- A request is wrong for the causes that hold of it, and for no other. -/
theorem wrong_of {k : Core} {r : Req} {rows : Option Nat} {js : List Nat} (h : causes k r rows = js) (j : Nat) :
    wrong k r rows j ↔ j ∈ js := by
  subst h
  simp only [causes, List.mem_filter, List.mem_range, decide_eq_true_eq]
  exact ⟨fun w => ⟨match j with | 0 | 1 | 2 | 3 | 4 | 5 | 6 => by decide | _ + 7 => w.elim, w⟩, fun w => w.2⟩

/-- Whether a request names no slots, or two whose headers agree. -/
def agreed (s : State) (rows : Option Nat) : Option Bool :=
  match handleFault (s.core 0) (req s) rows with
  | .ok (none, none) => some false | .ok (some _, some _) => some true | _ => none

/-- CopyUnits: from memory to the last byte of the scratchpad, with the greatest length; a request wrong for each cause, of a copy
and of a gather; lines with 15 copies in flight; a spout of 64 copies; a gather by address, and one by handle whose index reaches
past the source's rows. -/
theorem witness_copies :
    let s := pr 0x2000 1 (reqAt 0x100000 0 0x100000 2 0 0)
    let c (src dst len ctl aux0 aux1 : Nat) : State :=
      pr 0x2000 1 (lineAt 0x60 (fun a => { a with own := true }) ∘ reqAt src dst len ctl aux0 aux1)
    let w := pr 0x2000 1 (lineAt 0 (fun a => { a with pend := 15, pres := false }) ∘ reqAt 0x100000 0 16 2 0 0)
    let g := pr 0x2000 1 (reqAt 0x100000 0 16 2 0x3000 64)
    let gw := pr 0x2000 1 (lineAt 0 (fun a => { a with pend := 15, pres := false }) ∘ reqAt 0x100000 0 16 2 0x3000 64)
    let h := pr 0x2000 32 fun k =>
      let k := (reqAt 0 6 0 24 0x3000 0 (slots k)).spPut 0x3000 (toBytes 4 32)
      { k with slots := tset k.slots 6 (slotFor (tile 5 32) 0x8001) }
    let one (s : State) (rows : Option Nat) : List Nat := causes (s.core 0) (req s) rows
    let i := Instr.cpy none (.w 2)
    let j := Instr.cpyg none (.w 2) (.w 3)
    let same (s : State) : Bool := match readReq s 0 0x2000 with
      | .ok x => decide (x.src = (req s).src ∧ x.dst = (req s).dst ∧ x.len = (req s).len ∧ x.ctl = (req s).ctl ∧ x.aux0 = (req s).aux0)
      | .error _ => false
    let free (s : State) : Bool :=
      match checkPresent (s.core 0) 0x3000 4, checkSpPoison (s.core 0) 0x3000 4 with | .ok _, .ok _ => true | _, _ => false
    (∀ v ∈ [s, w], Ready i v ∧ same v = true ∧ agreed v none = some false ∧ one v none = [])
    ∧ (∀ v ∈ [g, gw, h], Ready j v ∧ same v = true ∧ one v (some (v.src 0 0 (.w 3)).toNat) = [] ∧ free v = true)
    ∧ agreed g (some 1) = some false ∧ agreed h (some 32) = some true
    ∧ [one (c 0x100000 0 16 2 0 8) none, one (c 0x100000 0 0 2 0 0) none, one (c 0x100000 0x100000 16 2 0 0) none,
      one (c 0 0 0 12 0 0) none, one (c 0 0 0 56 0x3000 0) none] = [[1], [2], [3], [4], [5]] ∧ Ready i (c 0 0 0 12 0 0)
    ∧ [one (c 0x100000 0 16 66 0x3000 64) (some 1), one (c 0x100000 0 65537 2 0x3000 0) (some 1), one (c 0x100000 0xFFFF8 16 2 0x3000 0) (some 1),
      one (c 0 0 0 8 0x3000 0) (some 1), one (c 0x100000 0 16 34 0x3000 0) (some 1), one (c 0x100000 0 16 2 0x3002 0) (some 1)]
      = [[1], [2], [3], [4], [5], [6]]
    ∧ Ready j (c 0 0 0 8 0x3000 0)
    ∧ (((req w).copy 0x2000 none none none).dstSp && (w.core 0).lineFull ((req w).copy 0x2000 none none none).allLines) = true
    ∧ (((req gw).copy 0x2000 none none (some [0])).dstSp && (gw.core 0).lineFull ((req gw).copy 0x2000 none none (some [0])).allLines) = true
    ∧ 64 ≤ ((pr 0x2000 1 fun k => { reqAt 0x100000 0 16 2 0 0 k with copies := List.replicate 64 (copy []) }).core 0).copies.length
    ∧ (g.core 0).copies = [] ∧ (g.core 0).lineFull ((req g).copy 0x2000 none none (some [0])).allLines = false
    ∧ fieldAt ((h.core 0).spRead 0x3000 128) 0 4 = 32 ∧ (tile 5 32).rows = 32 := by
  decide +kernel

/-- GaugesAndPresence: the last gauge of the scratchpad; whole lines, and part of one. -/
theorem witness_gauges :
    let g := pr 0xFFFF0 1
    let l := pr 0xFFF80 128
    (∀ i ∈ [Instr.garm none (.w 2) (.w 3), .gadd none (.w 2) (.w 3), .gtst none (.w 4) (.w 2)], Ready i g)
    ∧ checkOwned (g.core 0) 0xFFFF0 16 = .ok () ∧ checkPresent (g.core 0) 0xFFFF0 16 = .ok ()
    ∧ checkSpPoison (g.core 0) 0xFFFF0 16 = .ok ()
    ∧ (∀ i ∈ [Instr.prclr none (.w 2) (.w 3), .prclrOwn none (.w 2) (.w 3), .prclrRel none (.w 2) (.w 3)], Ready i l)
    ∧ (l.src 0 0 (.w 2)).toNat + (l.src 0 0 (.w 3)).toNat = 1048576
    ∧ Ready (.prclr none (.w 2) (.w 3)) (pr 0xFFF81 128) ∧ Ready (.prclr none (.w 2) (.w 3)) (pr 0xFFF80 127) := by
  decide +kernel

/-- ThreadUnits: entries one byte off, without a budget word and with one; sizes at each edge; a thread with 7 and with 8
pending template stores; a lane with room and one without. -/
theorem witness_threads :
    let i := Instr.spawn none (.w 63) (.w 2) 31 3
    let r := Instr.yieldReg none (.w 2)
    let j := Instr.tstw none 62 (.w 2) .b64 true
    let st : TStore := { v := 0, base := 0, stride := 0, sz := .b8, sp := true }
    let t (n : Nat) : Thread := { th0 with stores := List.replicate n st }
    let th := having 2 256 (having 3 0 th0)
    Ready i (pr 0x40001 0) ∧ Ready i (pr 0x40000 5) ∧ budget ((pr 0x40000 5).budgetWord 0 0 0x40000) = some none
    ∧ Ready i (pr 0x40004 5 id (budgetAt 3)) ∧ budget ((pr 0x40004 5 id (budgetAt 3)).budgetWord 0 0 0x40004) = some (some 32)
    ∧ (((one th0).part 0 3).binFor 0x40000 64 ((one th0).cycle + 64)).isSome = true
    ∧ (((one th0).core 0).binLane 3 { entry := 0x40000, alloc := 64, due := 0, tids := [] }).isSome = true
    ∧ allMeet [.exit none, .yield none] = true ∧ Ready r (pr 0 0) ∧ Ready r (pr 264 0) ∧ Ready r (pr 57 0)
    ∧ Ready r (pr 64 0) ∧ Ready r (pr 256 0 (lane0 192)) ∧ (pr 256 0 (lane0 192)).canGrow 0 0 192 th = true
    ∧ Ready r (pr 256 0 (lane0 191)) ∧ (pr 256 0 (lane0 191)).canGrow 0 0 192 th = false
    ∧ Ready j (one (t 7)) ∧ (t 7).stores.length = 7 ∧ Ready j (one (t 8)) ∧ (t 8).stores.length = 8 := by
  decide +kernel

/-- FreezeAndStamp: a prologue, an item, a sub-item and one below it; a thread that holds a template, with counts at each
edge. -/
theorem witness_freeze :
    let at1 : Thread := { th0 with item0 := 0 }
    let at3 : Thread := { th0 with item0 := 0, item1 := 0, item2 := 0 }
    let x : Template := { level := 1, win := th0.win, item0 := 0, item1 := 0xFFFFFFFF, region := 0, start := 0, stores := []
                          holder := some 0, next := 0, total := 0, first := 0, stride := 1, frozen := 0, evicted := [] }
    let holds (k : Core) : Core := { k with p0 := { k.p0 with tmpls := [(1, x)] } }
    let h (n : Nat) : Thread := { having 2 n at1 with held := some 1 }
    let i := Instr.freeze none
    let j := Instr.stamp none (.w 2)
    Ready i (one th0) ∧ ((one th0).nodeOf 0).isSome = true ∧ freezeFault (one th0) 0 th0 = .ok () ∧ th0.freezeLevel = 0
    ∧ (∀ e ∈ freezeNeeds 0 th0, ((one th0).core 0).laneOpen 0 th0 e.1 e.2 = true)
    ∧ Ready i (one at1) ∧ freezeFault (one at1) 0 at1 = .ok () ∧ at1.freezeLevel = 1
    ∧ (∀ e ∈ freezeNeeds 0 at1, ((one at1).core 0).laneOpen 0 at1 e.1 e.2 = true) ∧ ((one at1).part 0 0).freeTmpl = some 1
    ∧ Ready i (one at3) ∧ at3.freezeLevel = 3 ∧ freezeFault (one at3) 0 at3 = .error (.trap 1 24 [1] false)
    ∧ Ready j (one th0) ∧ th0.held = none ∧ (h 0).held = some 1 ∧ (h 0).busy = false
    ∧ (∀ n ∈ [0, 1, 65536, 65537], Ready j (one (h n) holds) ∧ ((one (h n) holds).src 0 0 (.w 2)).toNat = n)
    ∧ tget? ((one (h 1) holds).part 0 0).tmpls 1 = some x ∧ freezeFault (one (h 1) holds) 0 (h 1) = .error (.trap 1 24 [2] false)
    ∧ ({ at1 with ocCp := 1 } : Thread).busy = true
    ∧ freezeFault (one { at1 with ocCp := 1 }) 0 { at1 with ocCp := 1 } = .error (.trap 1 24 [3] false) := by
  decide +kernel

/-- A node on cores 0 and 1, with an empty core 1. -/
def gang (f : Core → Core := id) (s : State) : State :=
  let s := s.modNode 0 fun nd => { nd with cores := [0, 1], gang := 2 }
  { s with cores := tset s.cores 1 (f { s.core 0 with threads := [], ctx := (s.core 0).ctx.map fun x => { x with index := 1 } }) }

/-- CrossLaneUnits: two lanes; MIGR of a busy thread, to no core of the node, to a core that is draining, and to one with
room. -/
theorem witness_cross_lane :
    let s := duo th0 th0
    let i := Instr.migr none (.w 4) (.w 2)
    let m (dst : Nat) (f : Core → Core) := pr dst 0 id (gang f)
    (∀ i ∈ [Instr.merge none, .elect none (.w 4), .redx none (.w 4) (.w 2) .fadd, .shfl none none (.w 4) (.w 2) 31 .down,
      .shfl (some (.w 3)) none (.w 4) (.w 2) 0 .idx, .ballot none (.w 4) (.w 2)], jointB i noPre s [0, 1] = true)
    ∧ List.Pairwise (fun a b => posLane a < posLane b) [0, 1] ∧ [0, 1].Nodup
    ∧ jointB i noPre (one { th0 with ocMx := 1 }) [0] = true ∧ ({ th0 with ocMx := 1 } : Thread).busy = true
    ∧ jointB i noPre (m 2 id) [0] = true ∧ 2 ∉ [0, 1] ∧ th0.busy = false ∧ th0.held = none ∧ th0.bracket = none
    ∧ jointB i noPre (m 1 fun k => { k with draining := true }) [0] = true
    ∧ ((m 1 fun k => { k with draining := true }).core 1).draining = true
    ∧ (m 1 id).trafficHeld ((m 1 id).core 0).tenancy .migr = false ∧ jointB i noPre (m 1 id) [0] = true ∧ ((m 1 id).nodeOf 0).map (·.cores) = some [0, 1] ∧ ((m 1 id).core 1).draining = false
    ∧ ((m 1 id).core 1).migrPart [(0, having 2 1 (having 3 0 th0))] = some 0 := by
  decide +kernel

/-- A ring with its control block at 0x1000, a tail, and credits for handle 5. -/
def ringed (tail cr : Nat) (k : Core) : Core :=
  { k.spPut 0x100C (toBytes 4 tail) with
    rings := [{ cb := 0x1000, base := 0, size := 4096, handle := 5, sender := 0, receiver := 0, armEntry := 0 }]
    credits := [(5, cr)] }

/-- RingUnits: credits one beat short and just enough, lengths at each edge, an unknown handle; an acknowledgement of the
bytes there are and of more; marks reached and not. -/
theorem witness_rings :
    let snd (o len h cr : Nat) := pr o (len + h * 2 ^ 16) (ringed 0 cr)
    let i := Instr.send none (.w 4) (.w 2) 3
    let j := Instr.rack none (.w 2) (.w 3)
    let k := Instr.rarm none (.w 8) (.w 2)
    let arm (e m : Nat) := one (having 8 0x1000 (having 2 e (having 3 m th0))) (ringed 32 0)
    Ready i (snd 0xFFFF0 32 5 0) ∧ 1048576 < 0xFFFF0 + 32 ∧ Ready i (snd 8 16 5 0) ∧ Ready i (snd 0 0 5 0) ∧ Ready i (snd 0 4112 5 0)
    ∧ Ready i (snd 0 16 6 16) ∧ tget? ((snd 0 16 6 16).core 0).credits 6 = none
    ∧ Ready i (snd 0xFF000 4096 5 4095) ∧ Ready i (snd 0xFF000 4096 5 4096) ∧ (snd 0 16 5 16).replayable 0 = false
    ∧ tget? ((snd 0xFF000 4096 5 4096).core 0).credits 5 = some 4096
    ∧ Ready j (pr 0x1000 32 (ringed 32 0)) ∧ Memory.wf ((pr 0x1000 32 (ringed 32 0)).core 0).sp = true
    ∧ (((pr 0x1000 32 (ringed 32 0)).core 0).ringAt 0x1000).isSome = true
    ∧ ((pr 0x1000 32 (ringed 32 0)).core 0).ringField 0x1000 12 = 32 ∧ Ready j (pr 0x1000 48 (ringed 32 0))
    ∧ Ready j (pr 0x1000 8 (ringed 32 0)) ∧ Ready j (pr 0x1020 0 (ringed 32 0))
    ∧ ((pr 0x1020 0 (ringed 32 0)).core 0).ringAt 0x1020 = none
    ∧ Ready k (arm 0x40 32) ∧ pastMark 32 32 = true ∧ Ready k (arm 0x40 33) ∧ pastMark 32 33 = false ∧ Ready k (arm 0x42 0)
    ∧ Memory.wf ((arm 0x40 32).core 0).sp = true := by
  decide +kernel

/-- NextAndFabricWrites: a dispenser of kind 1, one that is poisoned and one of another kind; a stamp whose line no engine
owns; requests of FABW that are issued and refused. -/
theorem witness_next_fabw :
    let n (kind flags : Nat) (own : Bool) := one (having 4 0x10000 (having 2 0xFFFF0 (having 3 9 th0)))
      (lineAt 8191 fun a => { a with own }) fun s => objAt kind flags 3 3 0 (atomicMap s)
    let v := one (having 4 0x10000 (having 2 0xFFFF0 (having 3 9 th0)))
      (lineAt 8191 fun a => { a with own := true, pres := false, pend := 15 }) fun s => objAt 1 0 3 3 0 (atomicMap s)
    let i := Instr.next none (.w 4) (.w 2)
    let j := Instr.fabw none (.w 2) 3
    let f (len : Nat) := pr 0x2000 0 (reqAt 0 0x100000 len 4 0 0)
    let ob (s : State) := cellsRead s.mem 0x10000 256
    Ready i (n 1 0 false) ∧ (((n 1 0 false).core 0).lineAttr (0xFFFF0 / 128)).own = false
    ∧ Ready i (n 1 0 true) ∧ nearB (n 1 0 true) 0x10000 256 = true ∧ (n 1 0 true).replayable 0 = false
    ∧ (((n 1 0 true).core 0).lineAttr (0xFFFF0 / 128)).own = true ∧ obKind (ob (n 1 0 true)) = 1
    ∧ Ready i (n 1 1 true) ∧ obFlags (ob (n 1 1 true)) % 2 = 1 ∧ nearB (n 1 1 true) 0x10000 256 = true
    ∧ Ready i (n 0 0 true) ∧ obKind (ob (n 0 0 true)) = 0 ∧ Ready i (n 6 0 true) ∧ obKind (ob (n 6 0 true)) = 6
    ∧ ((n 1 0 true).core 0).lineFull [0xFFFF0 / 128] = false
    ∧ Ready i v ∧ nearB v 0x10000 256 = true ∧ v.replayable 0 = false ∧ (v.core 0).lineFull [0xFFFF0 / 128] = true
    ∧ ((v.core 0).lineAttr (0xFFFF0 / 128)).own = true ∧ obKind (ob v) = 1 ∧ obFlags (ob v) % 2 = 0
    ∧ Ready j (f 0x100000) ∧ fabwCause ((f 0x100000).core 0) (req (f 0x100000)) = none
    ∧ Ready j (f 0) ∧ fabwCause ((f 0).core 0) (req (f 0)) = some 2 ∧ (f 0).replayable 0 = false
    ∧ (match readReq (f 16) 0 0x2000 with | .ok _ => true | .error _ => false) = true := by
  decide +kernel

/-- The object at 0x10000 is a registered launch queue and a sluice shadow. -/
def bound (s : State) : State :=
  let s := { s with mem := cellsWrite (cellsWrite (cellsWrite s.mem 0x20000 (toBytes 8 0x10000)) 0x20008 [0x80]) 0x21000
                      (toBytes 8 0x10000 ++ toBytes 8 0x30000 ++ [0, 0, 0x80]) }
  s.modTen 0 fun x => { x with qtab := 0x20000, sluice := 0x21001 }

/-- What an announcement that leaves the thread th answers. -/
def told (th : Thread) (r : HRes (Nat × State)) : Option Nat :=
  match r with | .ok (k, u) => if u.thr? 0 0 = some th then some k else none | .error _ => none

/-- PushUnits: before the announcement, with each refusal and with a full ring; after it, with the ticket pending and applied; and
with the record applied. -/
theorem witness_push :
    let p (kind op st x : Nat) (f : State → State) (g : Core → Core) :=
      one (having 2 0x10800 th0) g fun s => f (objAt kind 0 3 3 0 (recAt st op 0x10000 x (atomicMap s)))
    let th := having 2 0x10800 th0
    let i := Instr.pxpush none (.w 4) (.w 2)
    let j := Instr.launch none (.w 4) (.w 2)
    let r (s : State) := cellsRead s.mem 0x10800 32
    let ob (s : State) := cellsRead s.mem 0x10000 256
    let q (l : Bool) : Coll := { id := 7, uid := 0, tid := 0, pc := th0.pc, inst := 0, op := .pxpush l 0x10000 0x10800 none false
                                 gauge := none, done := false, err := none, held := none }
    let on (l : Bool) (k : Core) : Core := { k with colls := [q l] }
    let full := one (having 2 0x10800 th0) id fun s => bound (objAt 3 0 19 3 0 (recAt 0 1 0x10000 0 (atomicMap s)))
    let t (tick : Nat) : Thread := { having 2 0x10800 th0 with prog := some { phase := 1, count := 0, obj := 0x10000, tick, ea := 0x10800 } }
    let m (tick : Nat) := one (t tick) (on false) fun s => bound (tickAt 4 (objAt 3 0 tick 3 0 (recAt 1 1 0x10000 0 (atomicMap s))))
    let near (tick : Nat) : Bool :=
      match (m tick).runPass ((m tick).agent 0 0) 0x10000 tick with | .ok (_, _, u) => nearFor .load u u page1 0x10800 32 | .error _ => false
    let ok (s : State) : Bool := freeB s && nearB s 0x10800 32 && thenB s
    let both (s : State) : State := seen (seen s 0 0 0x10800) 0 0 0x10000
    ok (p 3 1 0 0 bound id) = true ∧ Ready i (p 3 1 0 0 bound id) ∧ ((p 3 1 0 0 bound id).core 0).pushOf th 0x10800 = none
    ∧ pushFault (p 3 1 0 0 bound id) 0 0x10800 false (r (p 3 1 0 0 bound id)) (ob (p 3 1 0 0 bound id)) = .ok ()
    ∧ told th ((both (p 3 1 0 0 bound id)).announce ((p 3 1 0 0 bound id).agent 0 0) 0x10800) = some 4
    ∧ Ready i full ∧ ok full = true ∧ (full.core 0).pushOf th 0x10800 = none ∧ told th ((both full).announce (full.agent 0 0) 0x10800) = some 0
    ∧ pushFault full 0 0x10800 false (r full) (ob full) = .ok ()
    ∧ (∀ tick ∈ [4, 5], Ready i (m tick) ∧ (m tick).thr? 0 0 = some (t tick) ∧ ok (m tick) = true
      ∧ ((m tick).core 0).pushOf (t tick) 0x10800 = some (q false) ∧ passed? (m tick) tick = some (tick == 4))
    ∧ near 4 = true
    ∧ Ready j (p 3 1 0 128 bound id)
    ∧ pushFault (p 3 1 0 128 bound id) 0 0x10800 true (r (p 3 1 0 128 bound id)) (ob (p 3 1 0 128 bound id)) = .ok ()
    ∧ Ready i (p 1 1 0 0 bound id) ∧ obKind (ob (p 1 1 0 0 bound id)) ≠ 3 ∧ Ready i (p 3 2 0 0 bound id)
    ∧ Ready i (p 3 1 0 0 id id) ∧ (p 3 1 0 0 id id).isShadow 0 0x10000 = false
    ∧ Ready j (p 3 1 0 0 id id) ∧ (p 3 1 0 0 id id).isLaunchQueue 0 0x10000 = false ∧ Ready j (p 3 1 0 127 bound id)
    ∧ ok (p 3 1 0 127 bound id) = true ∧ th0.prog = none
    ∧ Ready i (p 3 1 2 0 bound (on false)) ∧ ok (p 3 1 2 0 bound (on false)) = true
    ∧ ((p 3 1 2 0 bound (on false)).core 0).pushOf th 0x10800 = some (q false)
    ∧ fieldAt (r (p 3 1 2 0 bound (on false))) 0 1 = 2
    ∧ nearFor .load (seen (p 3 1 2 0 bound (on false)) 0 0 0x10800) (p 3 1 2 0 bound (on false)) page1 0x10800 32 = true
    ∧ Ready j (p 3 1 2 0 bound (on true)) ∧ ((p 3 1 2 0 bound (on true)).core 0).pushOf th 0x10800 = some (q true) := by
  decide +kernel

/-- What load k of the thread finds when its data arrives: its earlier loads are bound, then it. -/
def arrives? (s : State) (k : Nat) : Option DWord := do
  let th ← s.thr? 0 0
  let p ← th.pend[k]?
  match s.bindList 0 0 (readBefore th k p) with
  | (true, x) => match x.bind 0 0 p with
    | .ok v u => if (u.thr? 0 0).isSome then some v else none
    | _ => none
  | _ => none

/-- A deferred access of a kind. -/
def logOf (kind : Nat) (ea : Word) : OpLog :=
  { pc := 0, ea, kind, sz := 4, dst := 0, beat := 0, data := 0, ent := 0, inst := 0, phase := .walking, spray := 0
    walk := none }

/-- Whether a walk misses a page and leaves its thread as it is. -/
def misses? (s : State) (th : Thread) (l : OpLog) : Bool :=
  match s.logWalk 0 0 th l with | (.page, u) => decide (u.thr? 0 0 = some th) | _ => false

/-- What a deferred load finds, and whether a deferred store can be performed. -/
def deferredLoad? (s : State) (th : Thread) (l : OpLog) : Option DWord := do
  let p ← th.pend.find? (·.engine == 3)
  match s.logWalk 0 0 th l with
  | (.ok e, u) =>
    let pa := e.pa (regionVa th.region l.ea)
    match u.bindList 0 0 (overlapping (th.pend.takeWhile (·.id != p.id)) pa (ldBytes p.sz)) with
    | (true, y) => match y.bind 0 0 { p with src := .global (regionVa th.region l.ea) pa e.attr } with
      | .ok v x => if (x.thr? 0 0).isSome then some v else none
      | _ => none
    | _ => none
  | _ => none

def deferredStore? (s : State) (th : Thread) (l : OpLog) : Bool :=
  match s.logWalk 0 0 th l with
  | (.ok e, u) =>
    let va := regionVa th.region l.ea
    (u.laneStores 0 0 (0, l.spray, l.pc) (stOfCode l.sz) va (e.pa va) fun _ => none).isEmpty
    && (match u.checkStage 0 (e.pa va) (stOfCode l.sz) with | .ok _ => true | .error _ => false)
    && (match u.storeNow 0 0 (e.pa va) e.attr (toBytes (stOfCode l.sz) l.data.toNat) with
      | (true, x) => (x.thr? 0 0).isSome
      | _ => false)
  | _ => false

/-- LoadsComplete: one entry, a pair, an ax element and no destination, and a load behind one of the same bytes; a deferred
load and store whose page is missing, and ones whose page is found. -/
theorem witness_loads :
    let t (ents : List Nat) (src : LoadSrc) : Thread := { th0 with pend := [pend ents 0 src] }
    let two : Thread := { th0 with pend := [{ pend [5] 0 (.global 64 64 0) with id := 3 }, pend [6] 0 (.global 66 66 0)] }
    let ax : Thread := { th0 with pend := [{ pend [] 0 (.bound 9) with ax := some 0x100 }] }
    let d (kind : Nat) (ea : Word) : Thread := { th0 with log := some (logOf kind ea), pend := [pend [5] 3 (.bound 0)] }
    let f : Thread := { d 1 0x50000000 with st := .parked, wait := { th0.wait with key := 0x5000, reason := 2 } }
    let s (t : Thread) := one t (withTlb 0)
    arrives? (s (t [5] (.bound 9))) 0 = some 9 ∧ arrives? (s (t [5, 6] (.global 64 64 0))) 0 = some 0
    ∧ (∀ p ∈ ax.pend, ((s ax).core 0).axBefore 0 p = false) ∧ ax.pend.take 0 = []
    ∧ arrives? (s (t [] (.bound 9))) 0 = some 9 ∧ arrives? (s ax) 0 = some 9 ∧ arrives? (s two) 1 = some 0
    ∧ (readBefore two 1 (pend [6] 0 (.global 66 66 0))).length = 1 ∧ readBefore (t [5] (.bound 9)) 0 (pend [5] 0 (.bound 9)) = []
    ∧ (t [] (.bound 9)).pend[1]? = none
    ∧ (∀ k ∈ [1, 2], misses? (s (d k 0x50000000)) (d k 0x50000000) (logOf k 0x50000000) = true)
    ∧ misses? (s f) f (logOf 1 0x50000000) = true ∧ f.wait.key.toNat = regionVa f.region 0x50000000 / 2 ^ 16
    ∧ deferredLoad? (s (d 1 64)) (d 1 64) (logOf 1 64) = some 0 ∧ deferredStore? (s (d 2 64)) (d 2 64) (logOf 2 64) = true := by
  decide +kernel

/-- A matrix operation of partition 0. -/
def mx (kind : MxKind) (running : Bool) (err : Option EngErr) : MxOp :=
  { id := 3, kind, part := 0, uids := [0], tids := [0], ents := [], pc := 0, inst := 0, mode := none, srcNum := 0
    src := some (if kind = .accz then slotFor (tile 13 128) 3 else slotFor (tile 5 32) 0x4001), dstNum := 1
    dst := some (slotFor (tile 14 128) 3), reg := none, buf := [], pos := 0, fetched := running && kind == .mma, fresh := false
    won := false, running, err, held := none, retried := false }

/-- A core with one matrix operation, and weights in its active bank. -/
def withMx (op : MxOp) (k : Core) : Core :=
  { k with mxq := [op], bank0 := .ready (tile 5 32).image 0x4001 (List.replicate 32 (List.replicate 32 0)) }

/-- What an engine read answers with the state unchanged. -/
def reads? (s : State) (r : EngRead) : Bool := match r with | .ok _ u => decide (u = s) | _ => false

/-- What a gather of a copy's source answers, with the core unchanged. -/
def gathers? (s : State) (r : EngRead ⊕ List Host.Cell × State) : Bool :=
  match r with | .inr (_, u) => decide (u.core 0 = s.core 0) | _ => false

/-- EnginesProceed: a line in flight of several, the last one of a copy with a stamp, a copy whose lines have all come,
fetching, arbitration with nothing ready and behind a running operation, retirement of each kind and with an error. -/
theorem witness_engines :
    let c0 (x : Copy) := one th0 fun k => { lineAt 0 (fun a => { a with pend := 1, pres := false }) (withTlb 0 k) with copies := [x] }
    let s := c0 (copy [0])
    let more := c0 { copy [0, 1] with len := 256 }
    let last := c0 { copy [0] with stamp := some 0x1000 }
    let r := one { th0 with ocCp := 1 } fun k => { k with copies := [copy []] }
    let m (op : MxOp) := one { th0 with ocMx := 1 } (withMx op)
    let f := mx .mma false none
    let won := { mx .wsw false none with won := true }
    let b := one { th0 with ocMx := 1 } fun k => { withMx won k with mxq := [won, { mx .mma true none with id := 4, part := 1 }] }
    let ls (s : State) (x : Copy) : Bool := decide ((s.core 0).copies.find? (·.id == 6) = some x)
      && gathers? s (s.engGather 0 0 6 false (cutLines (runsOf ((x.lineMap 0).flatMap fun e => e.2.addrs))) [])
      && decide ((s.core 0).badTag x (x.lineMap 0) = none) && x.err.isNone && x.held.isNone && x.dstSp && x.gauge.isNone
    ls s (copy [0]) = true ∧ s.weirHolds 0 4 = false ∧ s.weirHolds 0 0 = false
    ∧ ls more { copy [0, 1] with len := 256 } = true ∧ ls last { copy [0] with stamp := some 0x1000 } = true
    ∧ (r.core 0).copies.find? (·.id == 6) = some (copy []) ∧ (r.core 0).copyDone (copy []) = true
    ∧ (r.core 0).byUid 0 = some (0, { th0 with ocCp := 1 }) ∧ r.thr? 0 0 = some { th0 with ocCp := 1 }
    ∧ ((one th0).core 0).mxHead 0 = none ∧ ((m f).core 0).mxHead 0 = some f ∧ mxOp? ((m f).core 0) 3 = some f ∧ f.canFetch = true
    ∧ f.layout = some (tile 5 32 |> fun h => { h with crc := h.sum }, 1, 0x4000, 32)
    ∧ ((tile 5 32).pieces 0x4000 32 (cellGet []))[0]? = some (true, 0x4000, 32) ∧ tagAccepts 0 0 = true
    ∧ reads? (m f) ((m f).engSpLoad 0 0x4000 32) = true ∧ 1 < ((tile 5 32).pieces 0x4000 32 (cellGet [])).length
    ∧ (m f).mxCandidate 0 f = false ∧ (mx .mma true none).isMma = true
    ∧ ((m (mx .mma true none)).core 0).mxHead 0 = some (mx .mma true none)
    ∧ (m (mx .wsw true none)).core 0 = withMx (mx .wsw true none) ((one { th0 with ocMx := 1 }).core 0)
    ∧ (mx .wsw false none).running = false ∧ (m (mx .wsw false none)).weirHolds 0 5 = false ∧ (mx .wsw false none).fresh = false
    ∧ (m won).core 0 = withMx won ((one { th0 with ocMx := 1 }).core 0) ∧ (m won).mxCandidate 0 won = true ∧ ((m won).core 0).mxClear won = true
    ∧ (b.core 0).mxq.find? (·.won) = some won ∧ mxOp? (b.core 0) 3 = some won ∧ b.mxCandidate 0 won = true ∧ (b.core 0).mxClear won = false
    ∧ (mx .accz true none).src.isSome = true ∧ (mx .mma true none).fetched = true ∧ (mx .mma true none).retried = false
    ∧ (m (mx .mma true none)).upset = none ∧ ((m (mx .mma true none)).core 0).activeBank.isReady = true
    ∧ ((m (mx .mma true none)).core 0).accPoison 0 1024 = none
    ∧ cdiv ({ mx .mma true none with buf := [(0x4000, 0x38)] } : MxOp).estimate 1024 ≠ 0
    ∧ ((m (mx .mma false (some { kind := 29, arg := 0, more := [] }))).core 0).byUid 0 = some (0, { th0 with ocMx := 1 }) ∧ th0.errs = []
    ∧ (mx .mma false none).uids = [th0.uid] := by
  decide +kernel

/-- A template at a level with one item still to be stamped. -/
def tmpl (level : Nat) : Template :=
  { level, win := th0.win, item0 := 0, item1 := 0, region := 0, start := 0x80, stores := [], holder := none, next := 0, total := 1, first := 0
    stride := 1, frozen := 0, evicted := [] }

/-- A thread parked for n registers, and one parked for a page. -/
def waits (n : Nat) : Thread :=
  { th0 with st := .parked, need := n, wait := { key := 0, arg := wd n, akind := 0, met := false, halted := false, evicted := false, reason := 3 } }
def faulted (key token : Nat) : Thread :=
  { having 0 1 th0 with
    st := .parked
    wait := { key := BitVec.ofNat 64 key, arg := wd token, akind := 0, met := false, halted := false, evicted := false, reason := 2 } }

/-- Messages in flight. -/
def msgs (ms : List Msg) (s : State) : State := { s with msgs := ms }

/-- ThreadsArise: a bin one cycle before its time and at it; a MERGE group; items of both nested levels; a waiter that can
be served, one whose lane another thread's registers fill; messages of each kind; a waiting item. -/
theorem witness_threads_arise :
    let b (due : Nat) := one { th0 with st := .bin } fun k =>
      { k with p0 := { k.p0 with bins := [(2, { entry := 0, alloc := 64, due, tids := [0] })] } }
    let g : Group := { pc := placePc, region := 0, since := 0 }
    let m := one { th0 with st := .merged } fun k => { k with p0 := { k.p0 with groups := [g] } }
    let t (l : Nat) := one th0 fun k => { k with p0 := { k.p0 with tmpls := [(1, tmpl l)] } }
    let w := one (waits 8)
    let cl : Claim := { age := 0, pos := 1, need := 8, tmpl := none }
    let e := one (waits 8) fun k => { lane0 4 k with threads := [(0, waits 8), (32, faulted 0 0)] }
    let x : Later := { entry := 0x20000, item := 5, part := 0 }
    let q := one th0 fun k => { k with backlog := [x] }
    tget? ((b 1).part 0 0).bins 2 = some { entry := 0, alloc := 64, due := 1, tids := [0] } ∧ (b 1).cycle < 1
    ∧ tget? ((b 0).part 0 0).bins 2 = some { entry := 0, alloc := 64, due := 0, tids := [0] } ∧ 0 ≤ (b 0).cycle
    ∧ (m.part 0 0).groups = [g] ∧ m.mergeDue 0 0 g = true ∧ (m.core 0).threads = [(0, { th0 with st := .merged })]
    ∧ ((one th0).core 0).stampNext 0 = none ∧ ((t 1).core 0).stampNext 0 = some (1, tmpl 1, 0)
    ∧ ((t 2).core 0).stampNext 0 = some (1, tmpl 2, 0) ∧ tget? ((t 2).part 0 0).tmpls 1 = some (tmpl 2)
    ∧ (w.core 0).oldest 0 0 = some cl ∧ (w.core 0).canGrant 0 0 cl = true ∧ w.thr? 0 0 = some (waits 8)
    ∧ (waits 8).wait.halted = false ∧ (waits 8).wait.met = false ∧ (waits 8).saved = false ∧ ((one th0).core 0).oldest 0 0 = none
    ∧ (e.core 0).oldest 0 0 = some cl ∧ (e.core 0).partRuns 0 = false ∧ (e.core 0).freeEnts 0 0 < 8
    ∧ (e.core 0).evictThread 0 0 cl = some (32, faulted 0 0) ∧ e.backArea 0 + 2048 * 32 + 2048 ≤ 2 ^ 40
    ∧ (q.core 0).backlog = [x] ∧ (q.tryItem 0 x).1 = true := by
  decide +kernel

/-- ThreadsArise: migrated threads at a core that runs and at one that is draining; continuations for another context and for
the core's own; a template that a lane's registers can be given back to. -/
theorem witness_threads_arrive :
    let x : Later := { entry := 0x20000, item := 5, part := 0 }
    let mv := one { th0 with st := .bin } id (msgs [.migr 1 0 (.w 4) [0] [0]])
    let dr := one { th0 with st := .bin } (fun k => { k with draining := true }) fun s =>
      msgs [.migr 1 0 (.w 4) [0] [0]] { s with cores := tset s.cores 1 { s.core 0 with draining := false } }
    let ct (ten : Nat) := one th0 id (msgs [.continuation 0 ten 0x20000 [5] 0])
    let tp := one th0 fun k => { k with p0 := { k.p0 with tmpls := [(1, { tmpl 1 with win := Window.launch 8 .zero, evicted := [0] })] } }
    mv.msgs[0]? = some (.migr 1 0 (.w 4) [0] [0]) ∧ mv.thr? 0 0 = some { th0 with st := .bin } ∧ (mv.core 0).draining = false
    ∧ dr.msgs[0]? = some (.migr 1 0 (.w 4) [0] [0]) ∧ dr.thr? 0 0 = some { th0 with st := .bin } ∧ (dr.core 0).draining = true
    ∧ dr.thr? 1 0 = some { th0 with st := .bin } ∧ (1, 0) ≠ (0, 0)
    ∧ (ct 3).msgs[0]? = some (.continuation 0 3 0x20000 [5] 0) ∧ ((ct 3).core 0).ctx.map (·.ten) = some 0
    ∧ (ct 0).msgs[0]? = some (.continuation 0 0 0x20000 [5] 0) ∧ ((({ ct 0 with msgs := [] } : State).observe 0).core 0).backlog = []
    ∧ ((({ ct 0 with msgs := [] } : State).observe 0).tryItem 0 x).1 = true
    ∧ ((one th0).core 0).backlog = []
    ∧ (tp.core 0).oldest 0 0 = some { age := 0, pos := 0, need := 8, tmpl := some 1 }
    ∧ (tp.core 0).canGrant 0 0 { age := 0, pos := 0, need := 8, tmpl := some 1 } = true := by
  decide +kernel

/-- A collective operation numbered 2. -/
def coll (op : CoOp) : Coll :=
  { id := 2, uid := 0, tid := 0, pc := 0, inst := 0, op, gauge := none, done := false, err := none, held := none }

def withColl (op : CoOp) (k : Core) : Core := { k with colls := [coll op] }

/-- What a step of NEXT on its dispenser answers. -/
def owned (r : HRes (Nat × Nat × Nat × State)) : Option (Nat × Nat) := match r with | .ok (st, v, _) => some (st, v) | .error _ => none

/-- What a batch's first element, 9, finds on its queue at 0x10000, with no message but the batch in flight after it. -/
def pushed (s : State) : Option Nat :=
  match s.ownOp { ten := 0, die := homeDie ((gib 1).pa 0x10000), core := none, pos := none } (.batch 0 3 0) 0x10000 1 9 with
  | .ok (st, _, _, u) => if u.msgs = s.msgs then some st else none
  | .error _ => none

/-- MessagesArrive: credits, a payload, a dispenser, fabric writes to a tenancy that consents and to one that does not, an
acknowledgement with beats left, a refusal, and a sluice with nothing sent and with elements to send again. -/
theorem witness_messages :
    let cr := one th0 (fun k => { k with credits := [(5, 16)] }) (msgs [.credit 0 5 32])
    let s := one th0 (withColl (.send 0xFF000 4096 5 2 []))
    let n := one th0 (withColl (.next 0x1000 0x10000 9 none 2)) fun s => objAt 1 0 3 3 7 (atomicMap s)
    let f := one th0 id fun s => msgs [.fabw 0 0 2 3 0 0 0x20000 [1, 2] none] { s with device := 0 }
    let ok (s : State) : State := s.modTen 0 fun x => { x with peer := 0x8 }
    let a := one th0 (withColl (.fabw 0x2000 0 0 64 true 0 0 none 0 64 [16, 48]))
    let st (u : List (Nat × DWord)) (at_ : Option Nat) : SluiceSt :=
      { unsent := u, sent := 0, inFlight := false, retryAt := at_, disabled := false, held := none }
    let q (u : List (Nat × DWord)) (at_ : Option Nat) := one th0 id fun s =>
      (bound (atomicMap s)).modTen 0 fun x => { x with sluices := [(0, st u at_)] }
    tget? (cr.core 0).credits 5 = some 16 ∧ cr.msgs[0]? = some (.credit 0 5 32) ∧ (cr.core 0).coll 2 = none
    ∧ (s.core 0).coll 2 = some (coll (.send 0xFF000 4096 5 2 [])) ∧ (s.core 0).sendBehind (coll (.send 0xFF000 4096 5 2 [])) 5 = false
    ∧ s.weirHolds 0 2 = false ∧ min (4096 - 0) (128 - (0xFF000 + 0) % 128) = 128 ∧ reads? s (s.engSpLoad 0 0xFF000 128) = true
    ∧ (n.core 0).coll 2 = some (coll (.next 0x1000 0x10000 9 none 2)) ∧ owned (n.ownOp (n.agent 0 0) (.next 2) 0x10000 1 1) = some (0, 7)
    ∧ f.msgs[0]? = some (.fabw f.device.toNat 0 2 3 0 0 0x20000 [1, 2] none) ∧ f.accepts 0 3 = false ∧ (ok f).accepts 0 3 = true
    ∧ (ok f).walkAll 0 .store (pagePieces 4 0x20000 2) = .inr [(0x20000, 0, 2)]
    ∧ (∀ x ∈ [0x50000000], (match (ok f).walkAll 0 .store (pagePieces 4 x 2) with | .inl _ => true | .inr _ => false) = true)
    ∧ (a.core 0).coll 2 = some (coll (.fabw 0x2000 0 0 64 true 0 0 none 0 64 [16, 48]))
    ∧ (one th0).sluiceEntry 0 0 = none ∧ (q [] none).sluiceEntry 0 1 = none
    ∧ ((q [(0, 9)] (some 0)).sluiceEntry 0 0).map (fun x => (x.enabled, x.device)) = some (true, (q [] none).device.toNat)
    ∧ ((q [(0, 9)] (some 0)).sluiceSt 0 0) = st [(0, 9)] (some 0) ∧ (q [(0, 9)] (some 0)).weirHolds 0 2 = false
    ∧ cr.trafficHeld 0 .credit = false ∧ s.trafficHeld 0 (.bulk 4) = false ∧ 0 + 128 < 4096
    ∧ f.trafficHeld 0 .ack = false
    ∧ (q [(0, 9)] (some 0)).trafficHeld 0 (.bulk 2) = false ∧ (q [(0, 9)] (some 0)).time.toNat = 0
    ∧ (q [] none).walkFor 0 0x10000 .helped = .ok (gib 1) ∧ ((q [] none).sluiceSt 0 0).unsent = []
    ∧ (one th0 id (msgs [.batch 0 3 0 0 0 0x10000 [9] none 0])).accepts 0 3 = false := by
  decide +kernel

/-- MessagesArrive: a payload's last beat, with a ring and with none, a fabric write with a stamp, a last acknowledgement, and
batches that are done, pushed and turned away for a full queue. -/
theorem witness_messages_end :
    let ok (s : State) : State := s.modTen 0 fun x => { x with peer := 0x8 }
    let r : Ring := { cb := 0x1000, base := 0x4000, size := 4096, handle := 5, sender := 0, receiver := 0, armEntry := 0 }
    let d (rs : List Ring) := one th0 fun k => { withColl (.send 0 16 5 2 []) k with rings := rs }
    let fs := one th0 id fun s => msgs [.fabw 0 0 2 3 0 0 0x20000 [1, 2] (some 0x1000)] { ok (atomicMap s) with device := 0 }
    let a1 := one th0 (withColl (.fabw 0x2000 0 0 64 true 0 0 none 0 64 [16]))
    let b (applied : Nat) (u : List DWord) (v : Nat) := one th0 id fun s =>
      { msgs [.batch 0 3 0 0 0 0x10000 u none applied] (ok (capAt 2 (objAt 3 0 4 3 v (atomicMap s)))) with
        own := [{ key := .batch 0 3 0, pa := 0x10000, ticket := 4, op := 1, operand := 9, res := none }] }
    (∀ rs ∈ [[r], []], ((d rs).core 0).coll 2 = some (coll (.send 0 16 5 2 [])) ∧ reads? (d rs) ((d rs).engSpLoad 0 0 16) = true
      ∧ ((d rs).core 0).sendBehind (coll (.send 0 16 5 2 [])) 5 = false ∧ ((d rs).core 0).rings = rs)
    ∧ r.cb + 32 ≤ r.base ∧ (16 ≤ r.size) ∧ (cellGet ((d [r]).core 0).sp (r.cb + 22)).getLsbD 0 = false
    ∧ fs.trafficHeld 0 .ack = false ∧ fs.beatsBefore 0 0 0 2 = false ∧ fs.accepts 0 3 = true
    ∧ fs.stampOk 0 0 (some 0x1000) = true ∧ fs.msgs[0]? = some (.fabw fs.device.toNat 0 2 3 0 0 0x20000 [1, 2] (some 0x1000))
    ∧ fs.walkAll 0 .store (pagePieces 4 0x20000 2) = .inr [(0x20000, 1, 2)]
    ∧ fs.refused = [] ∧ (fs.device.toNat, 0, 2) ∈ ({ fs with refused := [(0, 0, 2)] } : State).refused
    ∧ (a1.core 0).coll 2 = some (coll (.fabw 0x2000 0 0 64 true 0 0 none 0 64 [16]))
    ∧ (∀ e ∈ [b 1 [9] 0, b 0 [9] 0, b 0 [9] (2 ^ 64 - 2)], e.walkFor 0 0x10000 .helped = .ok (gib 1) ∧ e.accepts 0 3 = true
      ∧ e.stampOk 0 0 none = true ∧ e.trafficHeld 0 .helped = false)
    ∧ pushed (b 0 [9] 0) = some 0 ∧ pushed (b 0 [9] (2 ^ 64 - 2)) = some 1 := by
  decide +kernel

/-- DiesNodesAndTables: a CAUSAL write that must wait and one that is next; a fill served and one whose home lags; a
forward; a node still running and one that has ended; waiters on a token and on a page; an invalidation that is BUSY. -/
theorem witness_dies :
    let w (n : Nat) : Inbound := { src := 1, clock := [0, wd n, 0, 0, 0, 0, 0, 0], pa := 64, bytes := [1], key := (1, 1) }
    let d (n : Nat) : State := { one th0 with dies := [(2, { Die.reset with inbound := [w n] })] }
    let gl : GuestLine := { data := [], keys := [], poison := [] }
    let f (sv : Option (GuestLine × List Word)) (c0 : Word) : Fill := { line := 3, clock := [c0, 0, 0, 0, 0, 0, 0, 0], served := sv, late := [] }
    let fs (x : Fill) : State := { one th0 with dies := [(2, { Die.reset with fills := [x] })] }
    let z : List Word := [0, 0, 0, 0, 0, 0, 0, 0]
    let r : ReplFwd := { die := 1, pa := 64, bytes := [7], tag := 1 }
    let p := one (faulted 5 9)
    let done : State := { one th0 with nodes := (one th0).nodes.map fun e => (e.1, { e.2 with cores := [], retired := true }), cores := [] }
    let busy := (one th0).modTen 0 fun x => { x with inv := 2 ^ 63 }
    ((d 1).die 2).inbound[0]? = some (w 1) ∧ (d 1).deliverable 2 (w 1) = true ∧ homeDie 64 ≠ 2 ∧ ((d 1).die 2).guests = []
    ∧ (d 2).deliverable 2 (w 2) = false
    ∧ ((fs (f (some (gl, z)) 0)).die 2).fills[0]? = some (f (some (gl, z)) 0) ∧ covers ((fs (f (some (gl, z)) 0)).vc 2) z = true
    ∧ (f none 1).served = none ∧ covers ((fs (f none 1)).vc (homeDie (3 * 128))) (f none 1).clock = false
    ∧ ({ one th0 with fwds := [r] } : State).fwds = [r] ∧ r.bytes ≠ []
    ∧ (tget? (one th0).nodes 0).isSome = true ∧ ((tget? (one th0).nodes 0).map ((one th0).nodeDone 0)) = some false
    ∧ ((tget? done.nodes 0).map fun nd => done.nodeDone 0 nd && nd.staged.isEmpty && nd.commits.isEmpty && nd.arrivals.isEmpty && nd.retired) = some true
    ∧ p.cores = [(0, p.core 0)] ∧ (p.core 0).ctx.map (·.ten) = some 0 ∧ (p.core 0).threads = [(0, faulted 5 9)]
    ∧ (faulted 5 9).st = .parked ∧ (faulted 5 9).wait.reason = 2 ∧ (faulted 5 9).wait.arg = 9 ∧ (faulted 5 9).wait.key.toNat = 5
    ∧ (faulted 5 9).log = none ∧ (busy.ten 0).inv.getLsbD 63 = true ∧ ((one th0).ten 0).inv.getLsbD 63 = false
    ∧ ((one th0).sweepDone 0 && !(one th0).trafficHeld 0 .sweep) = true ∧ ((one th0).ten 0).frHeld = [] ∧ ((one th0).ten 0).frOver = none
    ∧ (∃ x : BitVec 41, (faulted 5 9).wait.key.toNat = x.toNat) := by
  refine ⟨?_, ?_, ?_, ?_, ?_, ?_, ?_, ?_, ?_, ?_, ?_, ?_, ?_, ?_, ?_, ?_, ?_, ?_, ?_, ?_, ?_, ?_, ?_, ?_, ?_, ?_, ?_, 5, ?_⟩ <;>
    decide +kernel

/-- DiesNodesAndTables: a CAUSAL write delivered where a guest copy is held and where its home is; a node whose contexts have
ended, with its record at the start of a page. -/
theorem witness_dies_more :
    let w : Inbound := { src := 1, clock := [0, 1, 0, 0, 0, 0, 0, 0], pa := 64, bytes := [1], key := (1, 1) }
    let d (e : Nat) (gs : Tbl GuestLine) : State := { one th0 with dies := [(e, { Die.reset with inbound := [w], guests := gs })] }
    let gl : GuestLine := { data := [], keys := [], poison := [] }
    let e := atomicMap { one th0 with nodes := (one th0).nodes.map fun e => (e.1, { e.2 with cores := [], record := 0x20000 }), cores := [] }
    (∀ x ∈ [d 2 [(0, gl)], d 0 []], x.storesWf = true ∧ Memory.wf x.mem = true)
    ∧ ((d 2 [(0, gl)]).die 2).inbound[0]? = some w ∧ (d 2 [(0, gl)]).deliverable 2 w = true ∧ homeDie w.pa ≠ 2
    ∧ ((d 0 []).die 0).inbound[0]? = some w ∧ (d 0 []).deliverable 0 w = true ∧ homeDie w.pa = 0
    ∧ keyLt (tget (0, 0) (d 0 []).keys w.pa) w.key = true
    ∧ ((tget? e.nodes 0).map fun nd => e.nodeDone 0 nd && nd.staged.isEmpty && nd.commits.isEmpty && nd.arrivals.isEmpty
      && !nd.retired && decide (e.walkFor nd.ten nd.record .store = .ok (gib 1)) && decide ((gib 1).pa nd.record = 0x20000)
      && (e.die (dieOf (nd.cores.headD 0))).inbound.isEmpty) = some true := by
  decide +kernel

/-- HostRequests: a tenancy with cascades that names master 7, and one that names no master; pages mapped and not; an
object without pending tickets; masters at each edge of those that may ask for the key. -/
theorem witness_hosts :
    let h := one th0 id fun s => (objAt 1 0 3 3 0 (atomicMap s)).modTen 0 fun x => { x with host := 0xFFFF0007 }
    h.haltedAt = 0 ∧ ({ h with haltedAt := 7 } : State).haltedAt ≠ 0 ∧ (h.ten 0).budgets = [] ∧ 0x1007F % 128 + 1 ≤ 128
    ∧ h.reqs = [] ∧ (h.ten 1).ctl.toNat % 2 ^ 24 = 0 ∧ (h.ten 0).ctl.toNat % 2 ^ 24 ≠ 0 ∧ h.named 0 7 = true ∧ h.named 0 8 = false
    ∧ h.named 0 0xFFFF = false ∧ h.weirHolds 0 0 = false ∧ h.weirHolds 0 6 = false ∧ h.check = []
    ∧ h.trafficHeld 0 .host = false ∧ h.trafficHeld 0 .helped = false
    ∧ 0x1FFFF % 2 ^ 16 + 1 ≤ 2 ^ 16 ∧ h.walkFor 0 0x1FFFF .load = .ok (gib 1) ∧ h.walkFor 0 0x50000000 .load = .page
    ∧ h.storesWf = true ∧ 0x1007F % 128 + 1 ≤ 128 ∧ h.walkFor 0 0x1007F .store = .ok (gib 1)
    ∧ 0x10001 % 256 ≠ 0 ∧ h.walkFor 0 0x10000 .helped = .ok (gib 1) ∧ h.poisonedAt 0x10000 256 = false
    ∧ obPending (cellsRead h.mem 0x10000 256) = 0 ∧ h.running = true ∧ State.reset.running = false
    ∧ 1024 ≤ (1024 : BitVec 16).toNat ∧ (1023 : BitVec 16).toNat < 1024 := by
  decide +kernel

/-- RegistersTimeAndStart: core 191, a unit's cursor, corrections of 1 ms and of 1 ns more, a difference in the check bits that
is one of the check bits' own, a machine that has not been started, and an image older than its fuses allow. -/
theorem witness_registers :
    (191 < 192) ∧ State.reset.running = false ∧ (one th0).cur.core = 0 ∧ (one th0).cur.members = [0] ∧ th0.log = none
    ∧ 1000001 > 1000000 ∧ ¬ 1000000 > 1000000 ∧ (one th0).check = [] ∧ eccDecode 0x001 = .check
    ∧ State.reset.startRec = [] ∧ State.reset.repairs = []
    ∧ ¬ ({ State.reset.fuses with svnMin := 1 } : Fuses).svnMin.toNat ≤ ({ svn := 0, keyDigest := 0, text := [], sig := 0 } : Image).svn.toNat := by
  decide +kernel

/-- ControlAndWatch: cores with and without a context; a gang of one core that runs, and one that has drained; a save that
the core's CRSAVE names; debugging on and off, a partition that is halted; watches, periods, rotations and samples due
and not. -/
theorem witness_control :
    let s := one th0
    let v : State → Save := fun s => { addr := 0, addrs := [0], head := [], node := 0, index := 0, core := s.core 0, clock := 0 }
    let r : State := { s with saves := [v s], cores := [(0, { s.core 0 with ctx := none, threads := [] })] }
    let halt := one { th0 with st := .parked, wait := { th0.wait with reason := 1 } } fun k => { k with p0 := { k.p0 with halted := true } }
    let w (d : Nat) (z : Bool) : Watch := { pa := 0x10000, va := 0x10000, ten := 0, deadline := d, waiting := z, since := 0 }
    let late (t : Nat) (f : Tenancy → Tenancy) : State := { s.modTen 0 f with time := BitVec.ofNat 64 t }
    let g : Thread := { th0 with
                        st := .parked, gwSince := some 0
                        wait := { key := 0x1000, arg := 0, akind := 0, met := false, halted := false, evicted := false, reason := 4 } }
    let gw := one g (gaugeAt 4 3 0 0) fun s => { s.modTen 0 fun x => { x with gwdlim := 1 } with time := 1000 }
    let smp (n : Nat) (ts : Tbl Thread) := one th0 (fun k => { k with p0 := { k.p0 with smpNext := n }, threads := ts }) fun s =>
      s.modTen 0 fun x => { x with smpctl := 0x80000000 }
    s.nodeOf 1 = none ∧ (s.nodeOf 0).map (·.cores) = some [0] ∧ (s.core 0).draining = false
    ∧ ((one th0 fun k => { k with draining := true }).core 0).drained = true ∧ s.inFlight 0 = false ∧ s.saves = []
    ∧ (s.core 0).crheld = none ∧ bits (s.core 0).crsave.toNat 51 16 * 2 ^ 16 + 0x4B4000 ≤ 2 ^ 40
    ∧ 2 ^ 40 < bits ((one th0 fun k => { k with crsave := 2 ^ 40 }).core 0).crsave.toNat 51 16 * 2 ^ 16 + 0x4B4000
    ∧ r.saves.map (·.addr) = [bits (r.core 0).crsave.toNat 51 16 * 2 ^ 16] ∧ (tget? r.nodes 0).map (·.gang) = some 1
    ∧ (r.core 0).ctx = none ∧ bitOf (r.ten 0).ctl.toNat (cascadeOf 0) = true
    ∧ s.dbgAllowed 0 = true ∧ s.dbgAllowed 190 = false ∧ (s.part 0 0).halted = false
    ∧ (halt.part 0 0).halted = true ∧ halt.dbgAllowed 0 = true
    ∧ (late 5 id).watchDue (w 6 false) = false ∧ (late 5 id).watchDue (w 5 true) = false ∧ (late 5 id).watchDue (w 5 false) = true
    ∧ gw.gaugeDue 0 g = true ∧ (gw.core 0).gaugeStuck g = true ∧ gw.thr? 0 0 = some g
    ∧ (late 1023 id).periodDue 0 = false ∧ (late 1024 id).periodDue 0 = true
    ∧ (late 1000 id).rotationDue 0 0 = false ∧ (late 1000 fun x => { x with cev := 0xFF }).rotationDue 0 0 = true
    ∧ ((late 1000 fun x => { x with cev := 0xFF }).eventsOn 0).length = 8
    ∧ s.sampleDue 0 0 = false ∧ (smp 0 []).sampleDue 0 0 = true ∧ (smp 1 []).sampleDue 0 0 = false := by
  decide +kernel

/-- ControlAndWatch: saves that RESUME refuses and a CRSAVE that names none, at a core of a tenancy and at one of none; samples
with a ring that has room, that is full and that is absent. -/
theorem witness_control_more :
    let s := one th0
    let v : Save := { addr := 0, addrs := [0], head := [], node := 0, index := 0, core := s.core 0, clock := 0 }
    let r (n : Nat) : State := { s with saves := [{ v with index := n }], cores := [(0, { s.core 0 with ctx := none, threads := [] })] }
    let p (b : DWord) (tail : Word) := one th0 id fun s => s.modTen 0 fun x => { x with smpctl := 0x80000000, smpb := b, smpTail := tail }
    s.saves = [] ∧ s.ownerOf 0 = some 0 ∧ State.reset.ownerOf 0 = none ∧ State.reset.saves = []
    ∧ bits (s.core 0).crsave.toNat 51 16 * 2 ^ 16 = 0 ∧ cellsSlice s.mem 0 0x10000 = [] ∧ s.check = []
    ∧ (∀ x ∈ [({ v with head := [(0, 1)] } : Save)], x.head ≠ cellsSlice s.mem 0 0x10000)
    ∧ refusal (r 1) 0 0 1 1 = some 2 ∧ refusal (r 0) 0 0 0 9 = some 2 ∧ refusal (r 0) 0 0 0 8 = none
    ∧ refusal s 0 0 0 1 = some 1 ∧ refusal (r 0) 0 1 0 1 = some 1 ∧ refusal (r 0) 0 0 0 1 = none
    ∧ refusal { r 0 with cores := (1, s.core 0) :: (r 0).cores } 0 0 0 8 = some 3 ∧ s.fallenOn 1 = none
    ∧ (∀ x ∈ [p 0x30004 0, p 0x30004 16, p 0 0], x.sampleDue 0 0 = true ∧ (x.core 0).threads = [(0, th0)]
      ∧ x.trafficHeld (x.core 0).tenancy .sample = false ∧ Memory.wf x.mem = true ∧ (x.ten (x.core 0).tenancy).smpLost = 0)
    ∧ bits (0x30004 : DWord).toNat 4 0 = 4 ∧ bits (0 : DWord).toNat 4 0 = 0 := by
  decide +kernel

/-- StepRunsDecodedUnit: the words that withFetchWord places are the unit that the next step picks, by either plan; an
event of the plan, one that is due, and a prefix with its word. -/
theorem witness_step :
    let s := State.reset.withFetchWord 64 (0x5860B0EE * 2 ^ 32 + 0xFA200000)
    let r := s.tick
    let q := prepared r 0 0
    let i := decodeUnit false [0xFA200000, 0x5860B0EE]
    let fetched (r : List Word ⊕ Fetched × State) : Option (List Word) := match r with | .inl ws => some ws | .inr _ => none
    s.plan = [] ∧ s.slotsFrom s.turn = [0] ∧ ((r.core 0).ctx.any fun x => x.started && bitOf (r.ten x.ten).ctl.toNat (cascadeOf 0)) = true
    ∧ (((q.part 0 0).window.find? (fun id => q.sprayReady 0 ((q.core 0).members 0 id))).map fun id => (q.core 0).behind ((q.core 0).members 0 id)) = some [0]
    ∧ { s with plan := [.ev (.kill 0)] }.mayRun (.kill 0) = true
    ∧ ((q.thr? 0 0).bind fun th => fetched (q.fetchWords 0 th.region th.pc 4)) = some [0xFA200000, 0x5860B0EE]
    ∧ (match i with | .ok _ 2 => true | _ => false) = true ∧ isPrefix 0xFA200000 = true ∧ isPrefix 0x5860B0EE = false
    ∧ fetched (q.fetchWords 0 0 (placePc + 4) 3) = some [0x5860B0EE]
    ∧ (match (q.translateFetch 0 0x10000000).1 with | .ok e => e.attr == 0 && e.pa 0x10000000 == 0x10000000 | _ => false) = true
    ∧ homeDie 0x10000000 = dieOf 0 ∧ q.check = [] ∧ (q.nodeOf 0).map (·.staged.length) = some 0
    ∧ ({ s with plan := [.issue 0] } : State).plan = .issue 0 :: [] ∧ ({ s with plan := [.delay 0] } : State).plan = .delay 0 :: []
    ∧ ({ s with plan := [.apply 0 0] } : State).plan = .apply 0 0 :: [] ∧ ({ s with plan := [.ev (.kill 0)] } : State).plan = .ev (.kill 0) :: []
    ∧ State.reset.slotsFrom 0 = [] ∧ (State.reset.withFetchWord 32 0).storesWf = true := by
  decide +kernel

/-- An event that is due when no partition has a unit to issue: a period's end. -/
theorem witness_due :
    let s : State := { State.reset with tens := [(0, { Tenancy.reset with ctl := 0x40000001 })], time := 1024 }
    s.plan = [] ∧ s.slotsFrom s.turn = [] ∧ s.tick.dueEvent.isSome = true := by
  decide +kernel

/-- StoresStayCanonical: a step that stores, from a state in canonical form. -/
theorem witness_stores :
    let s := put 2 0x100 (State.reset.withFetchWord 32 0xACE0A0E0)
    s.storesWf = true ∧ (match step s with | .next _ => true | _ => false) = true := by
  decide +kernel

/-- GuardsAndChains: a guard that is false; chains that go on and that end. -/
theorem witness_chains :
    let i (c : Bool) := Instr.iadd none (.w 1) (.w 2) (.w 3) { neg := true, p := 7 } c
    let t (n : Nat) : Thread := { th0 with lats := List.replicate n (.val 0) }
    guardHolds th0.win.preds (i true).guard = false ∧ (i true).isUnit = true ∧ (one th0).cur.members = [0]
    ∧ (one (t 14)).thr? 0 0 = some (t 14) ∧ (t 14).lats.length < 15 ∧ (i true).chain = true ∧ (i false).chain = false
    ∧ 15 ≤ (t 15).lats.length ∧ (t 15).retry = 0 ∧ ((one (t 15)).part 0 0).stepping (t 15).uid = false := by
  decide +kernel

/-- RegisterFile: registers at the ends of the window and of the allocation, a shared entry, latches, indexes of items at
each level; the window and bounds faults. -/
theorem witness_register_file :
    let x : Template := { tmpl 1 with win := (having 5 77 th0).win }
    let t : Thread := { th0 with win := Window.launch 64 (.ref 1), tmpl := some 1 }
    let s := one t fun k => { k with p0 := { k.p0 with tmpls := [(1, x)] } }
    let i := Instr.iadd none (.w 64) (.w 1) (.w 2) T false
    let j := Instr.mov none (.w 1) (.ax false) T false
    let m := Instr.movx (.w 1) false 3 T false
    let n := Instr.mov none (.ax true) (.w 1) T false
    t.win.ent (t.win.wbase + 5) = .ref 1 ∧ tget? (s.part 0 0).tmpls 1 = some x ∧ x.win.ent (t.win.wbase + 5) = .own 77
    ∧ s.src 0 0 (.w 5) = 77
    ∧ th0.item1 = 0xFFFFFFFF ∧ th0.item2 = 0xFFFFFFFF ∧ ({ th0 with item2 := 3 } : Thread).item2 ≠ 0xFFFFFFFF
    ∧ ({ th0 with item1 := 3 } : Thread).item1 ≠ 0xFFFFFFFF
    ∧ ({ th0 with lats := [.val 1, .val 2, .val 3, .val 4] } : Thread).lats[(3 : BitVec 2).toNat]? = some (.val 4)
    ∧ (126 : BitVec 7).toNat < 127 ∧ Memory.wf ((one th0).core 0).sp = true
    ∧ i.isUnit = true ∧ guardHolds th0.win.preds i.guard = true ∧ th0.log = none ∧ (one th0).cur.upset = none
    ∧ checkWindow th0.win i.srcs i.dsts = .error (.trap 1 1 [64, 64] false)
    ∧ checkWindow th0.win j.srcs j.dsts = .ok () ∧ checkBounds th0 j.srcs [] = .error (.trap 1 2 [0, 0, 0] false)
    ∧ checkBounds th0 m.srcs [] = .ok () ∧ checkElemBounds th0 m = .error (.trap 1 2 [0, 3, 0, 0] false)
    ∧ checkElemBounds th0 n = .ok () ∧ checkBounds th0 [] n.dsts = .error (.trap 1 2 [1, 0, 0] false)
    ∧ checkWindow th0.win m.srcs m.dsts = .ok () ∧ checkWindow th0.win n.srcs n.dsts = .ok () ∧ m.elem = some (false, 3)
    ∧ (th0.ar false).lim.toNat ≤ (th0.ix 3).toNat ∧ th0.prog = none
    ∧ th0.win.alloc ≤ th0.win.wbase + 64 ∧ th0.win.wbase + 63 < th0.win.alloc
    ∧ (th0.ar false).lim.toNat ≤ th0.win.ix0.toNat := by
  decide +kernel

/-- R334..R336: the columns of R335 by its own numbers; of a 32-bit word one bit in error is corrected and two poison it. -/
theorem test_error_codes :
    [0, 1, 2, 3, 4, 255].map eccColumn = [3, 5, 6, 7, 9, 265] ∧ eccJudge 256 10 0x3FF = .bad
    ∧ eccRead 32 7 5 false 2 = (5, false, true) ∧ eccRead 32 7 5 false (2 ^ 32) = (5, false, true)
    ∧ (eccRead 32 7 5 false 3).2 = (true, false) ∧ eccDelta 256 10 1 = 0x203 ∧ eccJudge 256 10 0x203 = .data 0 := by
  decide +kernel

/-- R320's table: the links of a tree of 4 and a torus of 8. -/
theorem test_shape_links :
    shapeLinks 2 4 = [(1, 0), (2, 0), (3, 1)] ∧ (shapeLinks 3 8).take 4 = [(0, 1), (0, 4), (1, 2), (1, 5)]
    ∧ (3, 0) ∈ shapeLinks 3 8 ∧ shapeLinks 1 3 = [(0, 1), (1, 2), (2, 0)] := by
  decide

/-- RegisterUnitFrame: a unit that writes a register, one that writes predicates and one that writes an ax element, each of
which completes. -/
theorem witness_register_frame :
    let s := one (arr0 0x100 2 1 th0)
    let is := [Instr.iadd none (.w 5) (.w 1) (.w 2) T false, .setp 3 true T false, .mov none (.ax false) (.w 1) T false]
    (∀ i ∈ is, registerUnit i = true ∧ Ready i s ∧ (match exec i s with | .next _ => true | _ => false) = true)
    ∧ Memory.wf (s.core 0).sp = true ∧ elemsOut (arr0 0x100 2 1 th0) (.mov none (.ax false) (.w 1) T false) = [0x104]
    ∧ predUnit (.setp 3 true T false) = true ∧ elemsOut (arr0 0x100 2 1 th0) (.setp 3 true T false) = [] := by
  decide +kernel

/-- DecodeEncode: well-formed units with every prefix. -/
theorem witness_wf :
    (Instr.iaddi (some 0xFFFFF) (some { neg := true, p := 2 }) W (.w 118) (.w 0) 0xFFF).wf = true
    ∧ (Instr.shfl (some (.w 119)) (some T) .zr .it 0 .xor).wf = true ∧ (Instr.nop T false).wf = true := by
  decide

end Sys2Proof.Tests
end

section
/-! PROOFS. The predicate units (R100), predicates and guards (R22). -/

namespace Sys2Proof.Proofs

open Sys2Proof.Machine Sys2Proof.Claims

/-! ### Reading back a predicate (R22) -/

section
variable (ps : BitVec 7) {k j : BitVec 3} (v : Bool)

/-- Predicate 7 has no bit of its own; every other code numbers a bit of the seven. -/
theorem predCode_lt (h : k ≠ 7) : k.toNat < 7 := by bv_omega

@[simp] theorem predGet_seven : predGet ps 7 = true := rfl

@[simp] theorem predSet_seven : predSet ps 7 v = ps := rfl

theorem predGet_of_ne (h : k ≠ 7) : predGet ps k = ps.getLsbD k.toNat := if_neg h

/-- A write to predicate k sets its bit to v and keeps the others. -/
theorem getLsbD_predSet (h : k ≠ 7) {n : Nat} (hn : n < 7) :
    (predSet ps k v).getLsbD n = if n = k.toNat then v else ps.getLsbD n := by
  have hbit : (1#7 <<< k.toNat).getLsbD n = decide (n = k.toNat) := by
    rw [← BitVec.twoPow_eq, BitVec.getLsbD_twoPow]
    simp [predCode_lt h, eq_comm]
  rw [predSet, if_neg h]
  cases v with
  | true =>
    rw [if_pos rfl, BitVec.getLsbD_or, hbit]
    split <;> simp [*]
  | false =>
    rw [if_neg Bool.false_ne_true, BitVec.getLsbD_and, BitVec.getLsbD_not, hbit]
    split <;> simp [*]

theorem predGet_predSet_same (h : k ≠ 7) : predGet (predSet ps k v) k = v := by
  rw [predGet_of_ne _ h, getLsbD_predSet ps v h (predCode_lt h), if_pos rfl]

theorem predGet_predSet_ne (hjk : j ≠ k) : predGet (predSet ps k v) j = predGet ps j := by
  by_cases hk : k = 7
  · rw [hk, predSet_seven]
  by_cases hj : j = 7
  · rw [hj, predGet_seven, predGet_seven]
  have hne : j.toNat ≠ k.toNat := fun e => hjk (BitVec.eq_of_toNat_eq e)
  rw [predGet_of_ne _ hj, predGet_of_ne _ hj, getLsbD_predSet ps v hk (predCode_lt hj), if_neg hne]

/-- A guard on p7 holds unless it is negated: (!p7) never executes. -/
theorem guardHolds_seven : guardHolds ps { neg := v, p := 7 } = !v := Bool.true_bne v

end

/-- The predicate word of P2W has the predicates in bits 6:0 and bit 7 set (R100). -/
theorem predWord_eq_append (ps : BitVec 7) : predWord ps = (1#1 ++ ps).setWidth 32 := by
  apply BitVec.eq_of_toNat_eq
  have hcat : (1 <<< 7 ||| ps.toNat) = 1 <<< 7 + ps.toNat := (Nat.shiftLeft_add_eq_or_of_lt ps.isLt 1).symm
  simp only [predWord, BitVec.toNat_ofNat, BitVec.toNat_setWidth, BitVec.toNat_append, hcat]
  rw [Nat.add_comm]
  rfl

/-! ### From a unit's body to what the unit gives -/

section
variable {i : Instr} {pre : State → Nat → Nat → Except Stop Unit} {body : State → Nat → Nat → Res}

/-- A thread operation whose body always answers an effect and a latch completes with them. -/
theorem gives_of_body {eff : State → Nat → Nat → State} {l : State → Nat → Nat → Latch}
    (hx : ∀ s, exec i s = runThreads i pre body s) (hb : ∀ s c t, body s c t = .ok (eff s c t, .go (l s c t))) :
    Gives i pre always (fun s c t _ => eff s c t) (fun s c t _ => l s c t) := by
  intro s c t th solo _
  rw [hx, runThreads_one solo.members,
    runOne_ok solo.core solo.thread solo.guard solo.noLog solo.noUpset solo.checks solo.noRr, hb]
  rfl

/-- A unit that writes one predicate gives that write, and the value written as its latch (R18, R100). -/
theorem givesPreds_of_bodyPred {pd : BitVec 3} {f : BitVec 7 → Bool}
    (hx : ∀ s, exec i s = runThreads i noPre (bodyPred pd f) s) :
    GivesPreds i (fun s c t => predSet (s.preds c t) pd (f (s.preds c t))) (fun s c t => f (s.preds c t)) :=
  gives_of_body hx fun _ _ _ => rfl

/-- A unit that writes a 32-bit number to d gives it, as a word, to d and to the latch (R18). -/
theorem gives32_of_putN {d : Dst} {f : State → Nat → Nat → Nat}
    (hx : ∀ s, exec i s = runThreads i noPre (fun s c t => putN s c t false d (f s c t)) s) :
    Gives32 i d (fun s c t => BitVec.ofNat 32 (f s c t)) :=
  gives_of_body hx fun _ _ _ => rfl

end

/-! ### The predicate units (R100) -/

section
variable (pd pa pb : BitVec 3) (na nb v : Bool) (d : Dst) (a : Src) (g : Guard) (ch : Bool)

theorem pand_givesPreds : GivesPreds (.pand pd pa na pb nb g ch)
    (fun s c t => predSet (s.preds c t) pd
      ((predGet (s.preds c t) pa ^^ na) && (predGet (s.preds c t) pb ^^ nb)))
    (fun s c t => (predGet (s.preds c t) pa ^^ na) && (predGet (s.preds c t) pb ^^ nb)) :=
  givesPreds_of_bodyPred (f := fun ps => (predGet ps pa ^^ na) && (predGet ps pb ^^ nb)) fun _ => rfl

theorem por_givesPreds : GivesPreds (.por pd pa na pb nb g ch)
    (fun s c t => predSet (s.preds c t) pd
      ((predGet (s.preds c t) pa ^^ na) || (predGet (s.preds c t) pb ^^ nb)))
    (fun s c t => (predGet (s.preds c t) pa ^^ na) || (predGet (s.preds c t) pb ^^ nb)) :=
  givesPreds_of_bodyPred (f := fun ps => (predGet ps pa ^^ na) || (predGet ps pb ^^ nb)) fun _ => rfl

theorem pxor_givesPreds : GivesPreds (.pxor pd pa na pb nb g ch)
    (fun s c t => predSet (s.preds c t) pd
      ((predGet (s.preds c t) pa ^^ na) ^^ (predGet (s.preds c t) pb ^^ nb)))
    (fun s c t => (predGet (s.preds c t) pa ^^ na) ^^ (predGet (s.preds c t) pb ^^ nb)) :=
  givesPreds_of_bodyPred (f := fun ps => (predGet ps pa ^^ na) ^^ (predGet ps pb ^^ nb)) fun _ => rfl

theorem movp_givesPreds : GivesPreds (.movp pd pa na g ch)
    (fun s c t => predSet (s.preds c t) pd (predGet (s.preds c t) pa ^^ na))
    (fun s c t => predGet (s.preds c t) pa ^^ na) :=
  givesPreds_of_bodyPred (f := fun ps => predGet ps pa ^^ na) fun _ => rfl

theorem setp_givesPreds : GivesPreds (.setp pd v g ch)
    (fun s c t => predSet (s.preds c t) pd v) (fun _ _ _ => v) :=
  givesPreds_of_bodyPred (f := fun _ => v) fun _ => rfl

theorem p2w_gives32 : Gives32 (.p2w d g ch) d (fun s c t => (1#1 ++ s.preds c t).setWidth 32) := by
  have hput : Gives32 (.p2w d g ch) d (fun s c t => BitVec.ofNat 32 (predWord (s.preds c t)).toNat) :=
    gives32_of_putN fun _ => rfl
  simpa only [BitVec.ofNat_toNat, BitVec.setWidth_eq, predWord_eq_append] using hput

theorem w2p_gives : Gives (.w2p a g ch) noPre always
    (fun s c t _ => s.setPreds c t ((s.src c t a).setWidth 7))
    (fun s c t _ => .val (((s.src c t a).setWidth 7).setWidth 64)) :=
  gives_of_body (fun _ => rfl) fun _ _ _ => rfl

end

/-- Settles O4: each unit runs the body of R100 for its thread; the laws of one predicate bit give R22. -/
theorem predicateUnits : Obligations.PredicateUnits := by
  unfold Obligations.PredicateUnits
  refine ⟨fun pd pa pb na nb v d a g ch => ?_, fun ps k j v => ?_⟩
  · exact ⟨pand_givesPreds pd pa pb na nb g ch, por_givesPreds pd pa pb na nb g ch, pxor_givesPreds pd pa pb na nb g ch,
      movp_givesPreds pd pa na g ch, setp_givesPreds pd v g ch, p2w_gives32 d g ch, w2p_gives a g ch⟩
  · exact ⟨predGet_seven ps, predSet_seven ps v, predGet_predSet_same ps v, predGet_predSet_ne ps v, rfl,
      guardHolds_seven ps false, guardHolds_seven ps true⟩

end Sys2Proof.Proofs
end

section
/-! PROOFS. How a unit's body decides its end; traps, breakpoints and returns (R113, R115..R117). -/

namespace Sys2Proof.Proofs

open Sys2Proof.Machine Sys2Proof.Claims

/-! ### How a unit that runs for one thread ends -/

section
variable {i : Instr} {pre : State → Nat → Nat → Except Stop Unit} {body : State → Nat → Nat → Res}
  {s u : State} {c t : Nat} {th : Thread}

/-- A body that answers a stop stops the thread, from the state before the unit. -/
theorem runThreads_of_body_error {e : Stop} (solo : Solo i pre s c t th) (hb : body s c t = .error e) :
    runThreads i pre body s = .next (s.stopAt c t e) := by
  rw [runThreads_one solo.members,
    runOne_ok solo.core solo.thread solo.guard solo.noLog solo.noUpset solo.checks solo.noRr, hb]

/-- A body that answers a latch completes the unit with its effect. -/
theorem runThreads_of_body_go {l : Latch} (solo : Solo i pre s c t th) (hb : body s c t = .ok (u, .go l)) :
    runThreads i pre body s = .next (ran u c t i l) := by
  rw [runThreads_one solo.members,
    runOne_ok solo.core solo.thread solo.guard solo.noLog solo.noUpset solo.checks solo.noRr, hb]
  rfl

/-- A body that answers a jump takes the thread to its target. -/
theorem runThreads_of_body_jump {pc : Word} (solo : Solo i pre s c t th) (hb : body s c t = .ok (u, .jump pc)) :
    runThreads i pre body s = .next (u.jumpTo c t pc) := by
  rw [runThreads_one solo.members,
    runOne_ok solo.core solo.thread solo.guard solo.noLog solo.noUpset solo.checks solo.noRr, hb]

/-- A unit that is met and fails one of its access conditions stops its thread (R31). -/
theorem runThreads_of_checks_error {e : Stop} (met : Met i s c t th) (hk : startUnit i pre s c t th = .error e) :
    runThreads i pre body s = .next (s.stopAt c t e) := by
  obtain ⟨hcore, hmem, hthr, hguard, hlog, hupset, -⟩ := met
  rw [runThreads_one hmem, runOne_error hcore hthr hguard hlog hupset hk]

end

/-! ### Taking a trap with a handler (R113, R115) -/

section
variable {s : State} {c t : Nat} {th : Thread}

/-- Outside a handler and with $evec set, a trap enters the handler, whether or not a debug step then halts the
thread. -/
theorem takeTrap_enters_handler (cls kind : Nat) (info : List Word) (rpc ipc inst : Word) (ht : s.thr? c t = some th)
    (hh : th.handler = false) (hv : th.evec ≠ 0) :
    ∃ th', (s.takeTrap c t cls kind info rpc ipc inst).thr? c t = some th' ∧ th'.epc = rpc
      ∧ th'.ecause = BitVec.ofNat 16 (cls * 256 + kind) ∧ th'.einfo = (info ++ [0, 0, 0, 0]).take 4
      ∧ th'.handler = true ∧ th'.pc = th.evec := by
  have hnot : ¬ (th.handler = true ∨ th.evec = 0) := not_or.2 ⟨by simp [hh], hv⟩
  simp only [State.takeTrap, ht, if_neg hnot, thr?_setThr]
  refine ⟨_, rfl, ?_⟩
  split_ifs <;> exact ⟨rfl, rfl, rfl, rfl, rfl⟩

/-- A trap that restarts at the next unit ends its chain and is taken there (R115). -/
theorem stopAt_trap_after (cls kind : Nat) (info : List Word) (ht : s.thr? c t = some th) (hl : th.log = none) :
    s.stopAt c t (.trap cls kind info true)
      = (s.trapEnds c t th).takeTrap c t cls kind info (s.nextPc th) th.pc s.cur.word := by
  simp [State.stopAt, State.countRestart, ht, hl]

theorem trapEnds_thr? (s : State) (c t : Nat) (th : Thread) :
    (s.trapEnds c t th).thr? c t = some { th with rrCount := th.rrCount + th.rrChain + 1, rrChain := 0 } :=
  thr?_setThr ..

end

/-! ### TRAP, BKPT and ERET (R115..R117) -/

section
variable {n : BitVec 7} {g : Guard} {s : State} {c t : Nat} {th : Thread}

/-- An immediate of seven bits as an info word. -/
theorem wd_toNat (n : BitVec 7) : wd n.toNat = n.setWidth 32 := BitVec.ofNat_toNat 32 n

theorem trap_stops (solo : Solo (.trap n g) noPre s c t th) :
    exec (.trap n g) s = .next (s.stopAt c t (.trap 0 4 [n.setWidth 32] true)) :=
  runThreads_of_body_error solo (by rw [← wd_toNat]; rfl)

theorem trap_enters_handler (solo : Solo (.trap n g) noPre s c t th) (hh : th.handler = false) (hv : th.evec ≠ 0) :
    ∃ u th', exec (.trap n g) s = .next u ∧ u.thr? c t = some th' ∧ th'.epc = th.pc + wd (4 * s.cur.len)
      ∧ th'.ecause = 4 ∧ th'.einfo = [n.setWidth 32, 0, 0, 0] ∧ th'.handler = true ∧ th'.pc = th.evec := by
  have hstop := trap_stops solo
  rw [stopAt_trap_after 0 4 _ solo.thread solo.noLog] at hstop
  obtain ⟨th', hthr, hframe⟩ := takeTrap_enters_handler 0 4 [n.setWidth 32] (s.nextPc th) th.pc s.cur.word
    (trapEnds_thr? s c t th) hh hv
  exact ⟨_, th', hstop, hthr, hframe⟩

/-- Completing a unit leaves which core and partition issue. -/
theorem complete_cur (s : State) (c t : Nat) (i : Instr) (l : Latch) : (s.complete c t i l).cur = s.cur := by
  cases h : s.thr? c t with
  | none => simp [State.complete, h]
  | some th => obtain ⟨th', h1 | h1, -⟩ := complete_cases i l h <;> simp [h1]

theorem ran_cur (s : State) (c t : Nat) (i : Instr) (l : Latch) : (ran s c t i l).cur = s.cur := by
  rw [ran, complete_cur, countLane_cur]

/-- A breakpoint halts its partition exactly when debugging is on. -/
theorem bkptRuns_of_solo (solo : Solo (.bkpt n g) noPre s c t th) : bkptRuns n g s = s.debugOn c := by
  have hguard : guardHolds th.win.preds g = true := solo.guard
  simp [bkptRuns, solo.core, solo.members, solo.noUpset, solo.thread, hguard, Thread.stopsAt, solo.noLog]

theorem bkpt_stops (solo : Solo (.bkpt n g) noPre s c t th) (hd : s.debugOn c = false) :
    exec (.bkpt n g) s = .next (s.stopAt c t (.trap 0 5 [n.setWidth 32] true)) := by
  have hbody : bkptBody n s c t = .error (.trap 0 5 [n.setWidth 32] true) := by
    rw [← wd_toNat]; simp [bkptBody, hd, trp]
  change haltAfter (bkptRuns n g s) (runThreads (.bkpt n g) noPre (bkptBody n) s) = _
  rw [runThreads_of_body_error solo hbody, bkptRuns_of_solo solo, hd]
  rfl

theorem bkpt_halts (solo : Solo (.bkpt n g) noPre s c t th) (hd : s.debugOn c = true) :
    exec (.bkpt n g) s = .next ((ran s c t (.bkpt n g) (.val 0)).haltPart c s.cur.part) := by
  have hbody : bkptBody n s c t = .ok (s, .go (.val 0)) := by simp [bkptBody, hd, noLatch]
  change haltAfter (bkptRuns n g s) (runThreads (.bkpt n g) noPre (bkptBody n) s) = _
  rw [runThreads_of_body_go solo hbody, bkptRuns_of_solo solo, hd, haltAfter, if_pos rfl, ran_cur, solo.core]

theorem eret_jumps (solo : Solo (.eret g) handlerOnly s c t th) :
    exec (.eret g) s = .next ((s.setThr c t { th with handler := false }).jumpTo c t th.epc) :=
  runThreads_of_body_jump solo (by rw [eretBody, solo.thread]; rfl)

/-- ERET has no operands, so its privilege is the first condition that can fail. -/
theorem startUnit_eret_privilege (ht : s.thr? c t = some th) (hh : th.handler = false) :
    startUnit (.eret g) handlerOnly s c t th = .error (fault1 5 []) := by
  have hpriv : handlerOnly s c t = .error (fault1 5 []) := by simp [handlerOnly, ht, hh, flt, fault1]
  change (do handlerOnly s c t; _) = _
  rw [hpriv]
  rfl

end

/-- Settles O22: each unit's body, run for its thread; a trap taken with a handler fills the frame registers. -/
theorem trapsAndReturns : Obligations.TrapsAndReturns := by
  unfold Obligations.TrapsAndReturns
  refine ⟨fun n g s c t th => ⟨trap_stops, fun solo hh hv _ => trap_enters_handler solo hh hv, bkpt_stops, bkpt_halts⟩,
    fun g s c t th => eret_jumps, fun g s c t th met hh => ?_⟩
  obtain ⟨-, -, hthr, -⟩ := id met
  exact runThreads_of_checks_error met (startUnit_eret_privilege hthr hh)

end Sys2Proof.Proofs
end

section
/-! PROOFS. The window units (R119, R120). -/

namespace Sys2Proof.Proofs

open Sys2Proof.Machine Sys2Proof.Claims

/-! ### WIN (R119) -/

section
variable {f : State → Nat → Nat → Word} {s : State} {c t : Nat} {th : Thread}

/-- The immediate of WIN counts groups of eight registers. -/
theorem wd_eight_mul (m8 : BitVec 5) : wd (8 * m8.toNat) = 8 * m8.setWidth 32 := by
  unfold wd
  bv_omega

/-- A multiple of 8 that leaves eight registers inside the allocation becomes the window's base. -/
theorem winBody_of_fits (ht : s.thr? c t = some th) (hm : (f s c t).toNat % 8 = 0)
    (ha : (f s c t).toNat + 8 ≤ th.win.alloc) :
    winBody f s c t = .ok (s.setThr c t { th with win := { th.win with wbase := (f s c t).toNat } }, noLatch) := by
  have hin : ¬ ((f s c t).toNat % 8 ≠ 0 ∨ th.win.alloc < (f s c t).toNat + 8) := by omega
  simp only [winBody, ht, if_neg hin]

/-- Any other value is the window fault, with the value and the allocation. -/
theorem winBody_of_not_fits (ht : s.thr? c t = some th)
    (hn : ¬ ((f s c t).toNat % 8 = 0 ∧ (f s c t).toNat + 8 ≤ th.win.alloc)) :
    winBody f s c t = .error (fault1 1 [f s c t, wd th.win.alloc]) := by
  have hout : (f s c t).toNat % 8 ≠ 0 ∨ th.win.alloc < (f s c t).toNat + 8 := by omega
  simp only [winBody, ht, if_pos hout]
  rfl

end

/-! ### WGROW (R120) -/

/-- The checks of R31 that WGROW's destination meets after the growth decision. -/
def DestPasses (d : Dst) (u : State) (c t : Nat) (th : Thread) : Prop :=
  checkWindow th.win [] [.f d 1] = .ok () ∧ checkBounds th [] [.f d 1] = .ok ()
    ∧ checkCopy (u.core c) t th (writeEnts th.win [.f d 1]) = .ok () ∧ checkElems (u.core c) th [] [.f d 1] = .ok ()

/-- The sizes that an allocation can have. -/
def LegalSize (v : Word) : Prop := 8 ≤ v.toNat ∧ v.toNat ≤ 256 ∧ v.toNat % 8 = 0

/-- The legal sizes are those that do not meet WGROW's own fault. -/
theorem legalSize_iff {v : Word} : LegalSize v ↔ ¬ (v.toNat < 8 ∨ 256 < v.toNat ∨ v.toNat % 8 ≠ 0) := by
  unfold LegalSize
  omega

/-- What WGROW does after its growth decision: the checks of its destination, then its answer. -/
def wgrowAnswer (d : Dst) (ok : Bool) (u : State) (c t : Nat) (th : Thread) : Res := do
  checkWindow th.win [] [.f d 1]
  checkBounds th [] [.f d 1]
  checkCopy (u.core c) t th (writeEnts th.win [.f d 1])
  checkElems (u.core c) th [] [.f d 1]
  .ok (u.dst c t d (wd (b2n ok)), latch (wd (b2n ok)))

section
variable {d : Dst} {ok : Bool} {a : Src} {s u : State} {c t : Nat} {th th' : Thread}

theorem wgrowAnswer_of_passes (hd : DestPasses d u c t th) :
    wgrowAnswer d ok u c t th = .ok (u.dst c t d (wd (b2n ok)), latch (wd (b2n ok))) := by
  obtain ⟨hwin, hbounds, hcopy, helems⟩ := hd
  rw [wgrowAnswer, hwin, hbounds, hcopy, helems]
  rfl

theorem wgrowAnswer_of_window_error {e : Stop} (he : checkWindow th.win [] [.f d 1] = .error e) :
    wgrowAnswer d ok u c t th = .error e := by
  rw [wgrowAnswer, he]
  rfl

theorem wgrowBody_of_illegal (ht : s.thr? c t = some th) (hl : ¬ LegalSize (s.src c t a)) :
    wgrowBody d a s c t = .error (fault1 19 [s.src c t a]) := by
  simp [wgrowBody, ht, if_pos (not_not.1 (mt legalSize_iff.2 hl)), wd, flt, fault1]

/-- A legal size that the allocation holds already, or that the lane cannot give: the allocation stays, and the answer
says whether it holds the size. -/
theorem wgrowBody_of_keeps (ht : s.thr? c t = some th) (hl : LegalSize (s.src c t a))
    (hk : (s.src c t a).toNat ≤ th.win.alloc ∨ s.canGrow c t ((s.src c t a).toNat - th.win.alloc) th = false) :
    wgrowBody d a s c t = wgrowAnswer d (decide ((s.src c t a).toNat ≤ th.win.alloc)) s c t th := by
  have hstays : (decide (th.win.alloc < (s.src c t a).toNat)
      && s.canGrow c t ((s.src c t a).toNat - th.win.alloc) th) = false := by
    rw [Bool.and_eq_false_iff, decide_eq_false_iff_not, not_lt]
    exact hk
  simp only [wgrowBody, ht, if_neg (legalSize_iff.1 hl), hstays, Bool.or_false, Bool.false_eq_true, if_false,
    Option.getD_some]
  rfl

/-- A legal size that the lane can give: the allocation grows to it, and the grown thread's destination is checked. -/
theorem wgrowBody_of_grows (ht : s.thr? c t = some th) (hl : LegalSize (s.src c t a))
    (ha : th.win.alloc < (s.src c t a).toNat) (hc : s.canGrow c t ((s.src c t a).toNat - th.win.alloc) th = true)
    (hu : (s.growTo c t (s.src c t a).toNat).thr? c t = some th') :
    wgrowBody d a s c t = wgrowAnswer d true (s.growTo c t (s.src c t a).toNat) c t th' := by
  simp only [wgrowBody, ht, if_neg (legalSize_iff.1 hl), decide_eq_true ha, hc, Bool.and_true, Bool.or_true, if_true,
    hu, Option.getD_some]
  rfl

end

/-! ### The units that move and grow the window -/

section
variable {m8 : BitVec 5} {d : Dst} {a : Src} {g : Guard} {ch : Bool} {s : State} {c t : Nat} {th th' : Thread}

/-- A unit whose body is WIN's moves the window where the value fits. -/
theorem gives_winBody {i : Instr} {f : State → Nat → Nat → Word}
    (hx : ∀ s, exec i s = runThreads i noPre (winBody f) s) :
    Gives i noPre (fun s c t th => (f s c t).toNat % 8 = 0 ∧ (f s c t).toNat + 8 ≤ th.win.alloc)
      (fun s c t th => s.setThr c t { th with win := { th.win with wbase := (f s c t).toNat } }) noL := by
  intro s c t th solo ⟨hm, ha⟩
  rw [hx]
  exact runThreads_of_body_go solo (winBody_of_fits solo.thread hm ha)

/-- A unit whose body is WIN's raises the window fault where the value does not fit. -/
theorem stops_winBody {i : Instr} {f : State → Nat → Nat → Word}
    (hx : ∀ s, exec i s = runThreads i noPre (winBody f) s) :
    Stops i noPre (fun s c t th => ¬ ((f s c t).toNat % 8 = 0 ∧ (f s c t).toNat + 8 ≤ th.win.alloc))
      (fun s c t th => fault1 1 [f s c t, wd th.win.alloc]) := by
  intro s c t th solo hn
  rw [hx]
  exact runThreads_of_body_error solo (winBody_of_not_fits solo.thread hn)

/-- WIN's immediate form takes eight times its immediate. -/
theorem exec_win (s : State) : exec (.win m8 g ch) s
    = runThreads (.win m8 g ch) noPre (winBody fun _ _ _ => 8 * m8.setWidth 32) s := by
  rw [← wd_eight_mul]
  rfl

theorem wgrow_stops_illegal : Stops (.wgrow d a g ch) noPre (fun s c t _ => ¬ LegalSize (s.src c t a))
    (fun s c t _ => fault1 19 [s.src c t a]) :=
  fun _ _ _ _ solo hl => runThreads_of_body_error solo (wgrowBody_of_illegal solo.thread hl)

theorem wgrow_gives_held : Gives (.wgrow d a g ch) noPre
    (fun s c t th => LegalSize (s.src c t a) ∧ (s.src c t a).toNat ≤ th.win.alloc ∧ DestPasses d s c t th)
    (fun s c t _ => s.dst c t d 1) (fun _ _ _ _ => .val 1) := by
  intro s c t th solo ⟨hl, ha, hd⟩
  refine runThreads_of_body_go solo ?_
  rw [wgrowBody_of_keeps solo.thread hl (.inl ha), decide_eq_true ha, wgrowAnswer_of_passes hd]
  rfl

theorem wgrow_gives_refused : Gives (.wgrow d a g ch) noPre
    (fun s c t th => LegalSize (s.src c t a) ∧ th.win.alloc < (s.src c t a).toNat
      ∧ s.canGrow c t ((s.src c t a).toNat - th.win.alloc) th = false ∧ DestPasses d s c t th)
    (fun s c t _ => s.dst c t d 0) noL := by
  intro s c t th solo ⟨hl, ha, hc, hd⟩
  refine runThreads_of_body_go solo ?_
  rw [wgrowBody_of_keeps solo.thread hl (.inr hc), decide_eq_false (Nat.not_le.2 ha), wgrowAnswer_of_passes hd]
  rfl

theorem wgrow_grows (solo : Solo (.wgrow d a g ch) noPre s c t th) (hl : LegalSize (s.src c t a))
    (ha : th.win.alloc < (s.src c t a).toNat) (hc : s.canGrow c t ((s.src c t a).toNat - th.win.alloc) th = true)
    (hu : (s.growTo c t (s.src c t a).toNat).thr? c t = some th')
    (hd : DestPasses d (s.growTo c t (s.src c t a).toNat) c t th') :
    exec (.wgrow d a g ch) s
      = .next (ran ((s.growTo c t (s.src c t a).toNat).dst c t d 1) c t (.wgrow d a g ch) (.val 1)) := by
  refine runThreads_of_body_go solo ?_
  rw [wgrowBody_of_grows solo.thread hl ha hc hu, wgrowAnswer_of_passes hd]
  rfl

theorem wgrow_stops_kept {e : Stop} (solo : Solo (.wgrow d a g ch) noPre s c t th) (hl : LegalSize (s.src c t a))
    (hk : (s.src c t a).toNat ≤ th.win.alloc ∨ s.canGrow c t ((s.src c t a).toNat - th.win.alloc) th = false)
    (he : checkWindow th.win [] [.f d 1] = .error e) :
    exec (.wgrow d a g ch) s = .next (s.stopAt c t e) :=
  runThreads_of_body_error solo
    ((wgrowBody_of_keeps solo.thread hl hk).trans (wgrowAnswer_of_window_error he))

theorem wgrow_stops_grown {e : Stop} (solo : Solo (.wgrow d a g ch) noPre s c t th) (hl : LegalSize (s.src c t a))
    (ha : th.win.alloc < (s.src c t a).toNat) (hc : s.canGrow c t ((s.src c t a).toNat - th.win.alloc) th = true)
    (hu : (s.growTo c t (s.src c t a).toNat).thr? c t = some th') (he : checkWindow th'.win [] [.f d 1] = .error e) :
    exec (.wgrow d a g ch) s = .next (s.stopAt c t e) :=
  runThreads_of_body_error solo
    ((wgrowBody_of_grows solo.thread hl ha hc hu).trans (wgrowAnswer_of_window_error he))

end

/-- Settles O26: WIN by whether its value fits the allocation; WGROW by its growth decision, then its answer. -/
theorem windowUnits : Obligations.WindowUnits := by
  unfold Obligations.WindowUnits
  intro m8 d a g ch
  refine ⟨gives_winBody exec_win, stops_winBody exec_win, gives_winBody fun _ => rfl, stops_winBody fun _ => rfl,
    wgrow_stops_illegal, wgrow_gives_held, wgrow_gives_refused, ?_, ?_⟩
  · exact fun s c t th solo hl ha hc th' hu hd => wgrow_grows solo hl ha hc hu hd
  · exact fun s c t th solo hl => ⟨fun hk e he => wgrow_stops_kept solo hl hk he,
      fun ha hc th' hu e he => wgrow_stops_grown solo hl ha hc hu he⟩

end Sys2Proof.Proofs
end

section
/-! PROOFS. The array units (R21, R151..R153). -/

namespace Sys2Proof.Proofs

open Sys2Proof.Machine Sys2Proof.Claims

/-! ### Elements (R152) -/

section
variable {d : Dst} {n : Bool} {k : BitVec 2} {a : Src} {s : State} {c t : Nat} {th : Thread}

/-- A register's value, of any width, as an info word or a result. -/
theorem wd_toNat_setWidth {m : Nat} (v : BitVec m) : wd v.toNat = v.setWidth 32 := BitVec.ofNat_toNat 32 v

/-- The element that an access names, for a thread that exists. -/
theorem element_of_thr (ht : s.thr? c t = some th) : s.element c t n k = arrElem (th.ar n) (th.ix k.toNat) := by
  simp only [State.element, ht]

/-- MOVX reads an element that no access condition of its own stops. -/
theorem movxBody_of_reads (ht : s.thr? c t = some th) (hr : elemReads d n k s c t th) :
    movxBody d n k s c t
      = .ok ((s.bump c (posPart t) 26 1).dst c t d (spWord (s.core c) (arrElem (th.ar n) (th.ix k.toNat))),
          latch (spWord (s.core c) (arrElem (th.ar n) (th.ix k.toNat)))) := by
  obtain ⟨⟨hdst, -⟩, hpresent, hpoison⟩ := hr
  rw [movxBody, element_of_thr ht, hdst d (List.mem_singleton_self d)]
  simp only [hpresent, hpoison]
  rfl

/-- STX stores to an element that no access condition of its own stops. -/
theorem stxBody_of_writes (ht : s.thr? c t = some th) (hw : elemWrites n k a s c t th) :
    stxBody n k a s c t
      = .ok ((s.bump c (posPart t) 26 1).modCore c fun q =>
          q.spStore (arrElem (th.ar n) (th.ix k.toNat)) (toBytes 4 (s.src c t a).toNat), noLatch) := by
  obtain ⟨⟨-, hsrc⟩, howned⟩ := hw
  rw [stxBody, element_of_thr ht, hsrc]
  simp only [howned]
  rfl

/-- An index at or above its array's limit fails the element's bounds condition. -/
theorem checkElemBounds_of_past {i : Instr} (he : i.elem = some (n, k))
    (hpast : (th.ar n).lim.toNat ≤ (th.ix k.toNat).toNat) :
    checkElemBounds th i
      = .error (fault1 2 [wd n.toNat, wd k.toNat, (th.ix k.toNat).setWidth 32, (th.ar n).lim.setWidth 32]) := by
  rw [← wd_toNat_setWidth, ← wd_toNat_setWidth]
  simp only [checkElemBounds, he, if_pos hpast]
  rfl

/-- The element's bounds come third among the conditions of a unit that begins, after its window and the bounds of its
ax sources (R31). -/
theorem startUnit_of_elem_error {i : Instr} {pre : State → Nat → Nat → Except Stop Unit} {e : Stop}
    (hp : th.prog = none) (hw : checkWindow th.win i.srcs i.dsts = .ok ()) (hb : checkBounds th i.srcs [] = .ok ())
    (he : checkElemBounds th i = .error e) : startUnit i pre s c t th = .error e := by
  have hbegins : (i.stepped && th.prog.isSome) = false := by simp [hp]
  rw [startUnit, hbegins, if_neg Bool.false_ne_true, checkUnit, hw, hb, he]
  rfl

/-- A unit with an element access stops at an index past its array's limit. -/
theorem stopsAtIndex_of_elem {i : Instr} {body : State → Nat → Nat → Res}
    (hx : ∀ s, exec i s = runThreads i noPre body s) (he : i.elem = some (n, k)) : StopsAtIndex i n k := by
  intro s c t th met hw hb hpast
  obtain ⟨-, -, -, -, -, -, hprog⟩ := id met
  rw [hx]
  exact runThreads_of_checks_error met (startUnit_of_elem_error hprog hw hb (checkElemBounds_of_past he hpast))

end

/-! ### Index registers (R152) -/

/-- A write to an index register changes one thread's window. -/
theorem setIx_of_thr {s : State} {c t : Nat} {th : Thread} (ht : s.thr? c t = some th) (k : BitVec 2) (v : BitVec 16) :
    s.setIx c t k v = s.setThr c t (withIx th k v) := modThr_of_some ht _

/-! ### Array settings (R153) -/

section
variable {n : Bool} {a : Src} {s : State} {c t : Nat} {th : Thread}

/-- The base that ABSET takes from a pair: its low half. -/
def newBase (v : DWord) : Word := v.setWidth 32

/-- The limit that ABSET takes from a pair: its high half, before it is known to fit 16 bits. -/
def newLim (v : DWord) : DWord := v >>> 32

theorem newBase_toNat (v : DWord) : (newBase v).toNat = v.toNat % 2 ^ 32 := BitVec.toNat_setWidth 32 v

theorem newLim_toNat (v : DWord) : (newLim v).toNat = v.toNat / 2 ^ 32 := by
  rw [newLim, BitVec.toNat_ushiftRight, Nat.shiftRight_eq_div_pow]

/-- The settings of R153. -/
def LegalArray (v : DWord) : Prop :=
  (newBase v).toNat % 4 = 0 ∧ (newBase v).toNat < 1048576 ∧ (newLim v).toNat ≤ 65535
    ∧ (newBase v).toNat + 4 * (newLim v).toNat ≤ 1048576

/-- The settings out of R153's range, condition by condition. -/
theorem not_legalArray_iff (v : DWord) : ¬ LegalArray v ↔
    (newBase v).toNat % 4 ≠ 0 ∨ 1048576 ≤ (newBase v).toNat ∨ 65535 < (newLim v).toNat
      ∨ 1048576 < (newBase v).toNat + 4 * (newLim v).toNat := by
  unfold LegalArray
  omega

/-- The model accepts exactly the settings of R153. -/
theorem arrayOk_iff (v : DWord) : arrayOk (newBase v).toNat (newLim v).toNat = true ↔ LegalArray v := by
  simp only [arrayOk, LegalArray, Bool.and_eq_true, beq_iff_eq, decide_eq_true_eq, and_assoc]
  exact Iff.rfl

/-- ABSET in terms of the two halves of its pair. -/
theorem absetBody_eq : absetBody n a s c t =
    if arrayOk (newBase (s.src64 c t a)).toNat (newLim (s.src64 c t a)).toNat then
      .ok (s.modThr c t fun th =>
        { th with win := th.win.setAr n ⟨newBase (s.src64 c t a), (newLim (s.src64 c t a)).setWidth 16⟩ }, noLatch)
    else .error (fault1 14 [wd n.toNat, newBase (s.src64 c t a), (newLim (s.src64 c t a)).setWidth 32]) := by
  simp only [absetBody, ← newBase_toNat, ← newLim_toNat, wd_toNat_setWidth, BitVec.setWidth_eq, BitVec.ofNat_toNat,
    flt, fault1]

theorem absetBody_of_legal (ht : s.thr? c t = some th) (hv : LegalArray (s.src64 c t a)) :
    absetBody n a s c t = .ok (s.setThr c t
      { th with win := th.win.setAr n ⟨newBase (s.src64 c t a), (newLim (s.src64 c t a)).setWidth 16⟩ }, noLatch) := by
  rw [absetBody_eq, if_pos ((arrayOk_iff _).2 hv), modThr_of_some ht]

theorem absetBody_of_illegal (hv : ¬ LegalArray (s.src64 c t a)) :
    absetBody n a s c t
      = .error (fault1 14 [wd n.toNat, newBase (s.src64 c t a), (newLim (s.src64 c t a)).setWidth 32]) := by
  rw [absetBody_eq, if_neg (mt (arrayOk_iff _).1 hv)]

end

/-! ### The array units -/

section
variable (d : Dst) (n : Bool) (k : BitVec 2) (a : Src) (g : Guard) (ch : Bool)

theorem movx_gives : Gives (.movx d n k g ch) noPre (elemReads d n k)
    (fun s c t th => (s.bump c (posPart t) 26 1).dst c t d (spWord (s.core c) (arrElem (th.ar n) (th.ix k.toNat))))
    (fun s c _ th => .val ((spWord (s.core c) (arrElem (th.ar n) (th.ix k.toNat))).setWidth 64)) :=
  fun _ _ _ _ solo hr => runThreads_of_body_go solo (movxBody_of_reads solo.thread hr)

theorem movxIndex_gives : Gives (.movxIndex d k g ch) noPre always
    (fun s c t th => s.dst c t d ((th.ix k.toNat).setWidth 32))
    (fun _ _ _ th => .val ((th.ix k.toNat).setWidth 64)) := by
  intro s c t th solo _
  have hwide : (th.ix k.toNat).setWidth 64 = ((th.ix k.toNat).setWidth 32).setWidth 64 := by bv_omega
  refine runThreads_of_body_go solo ?_
  simp only [movxIndexBody, solo.thread, wd_toNat_setWidth, latch, hwide]

theorem stx_gives : Gives (.stx n k a g ch) noPre (elemWrites n k a)
    (fun s c t th => (s.bump c (posPart t) 26 1).modCore c fun q =>
      q.spStore (arrElem (th.ar n) (th.ix k.toNat)) (toBytes 4 (s.src c t a).toNat)) noL :=
  fun _ _ _ _ solo hw => runThreads_of_body_go solo (stxBody_of_writes solo.thread hw)

theorem ixset_gives : Gives (.ixset k a g ch) noPre always
    (fun s c t th => s.setThr c t (withIx th k ((s.src c t a).setWidth 16))) noL := by
  intro s c t th solo _
  refine runThreads_of_body_go solo ?_
  rw [ixsetBody, setIx_of_thr solo.thread]
  rfl

theorem ixadd_gives : Gives (.ixadd k a g ch) noPre always
    (fun s c t th => s.setThr c t (withIx th k (th.ix k.toNat + (s.src c t a).setWidth 16))) noL := by
  intro s c t th solo _
  refine runThreads_of_body_go solo ?_
  simp only [ixaddBody, solo.thread, setIx_of_thr solo.thread]
  rfl

theorem abset_gives : Gives (.abset n a g ch) noPre (fun s c t _ => LegalArray (s.src64 c t a))
    (fun s c t th => s.setThr c t
      { th with win := th.win.setAr n ⟨newBase (s.src64 c t a), (newLim (s.src64 c t a)).setWidth 16⟩ }) noL :=
  fun _ _ _ _ solo hv => runThreads_of_body_go solo (absetBody_of_legal solo.thread hv)

theorem abset_stops : Stops (.abset n a g ch) noPre (fun s c t _ => ¬ LegalArray (s.src64 c t a))
    (fun s c t _ => fault1 14 [wd n.toNat, newBase (s.src64 c t a), (newLim (s.src64 c t a)).setWidth 32]) :=
  fun _ _ _ _ solo hv => runThreads_of_body_error solo (absetBody_of_illegal hv)

end

/-- Settles O10: each unit's body, run for its thread; an index past its limit fails the conditions of R31, and ABSET by
whether its pair is a legal setting. -/
theorem arrayUnits : Obligations.ArrayUnits := by
  unfold Obligations.ArrayUnits
  refine ⟨fun d n k a g ch => ?_, fun d n k a g ch => ⟨?_, ?_, ?_⟩⟩
  · exact ⟨movx_gives d n k g ch, movxIndex_gives d k g ch, stx_gives n k a g ch, ixset_gives k a g ch,
      ixadd_gives k a g ch, abset_gives n a g ch⟩
  · exact stopsAtIndex_of_elem (fun _ => rfl) rfl
  · exact stopsAtIndex_of_elem (fun _ => rfl) rfl
  · exact fun s c t th solo hv => abset_stops n a g ch s c t th solo ((not_legalArray_iff _).2 hv)

end Sys2Proof.Proofs
end
